-- ==== Sys2Proof/Word.lean ====
section
/-! DEFINITION. The word types of the module's registers (02 R56, R74, 10 R223, 12 R273). -/

namespace Sys2Proof

/-- A byte of scratchpad, instruction memory or global memory (00 R6). -/
abbrev Byte := BitVec 8

/-- A 64-bit scalar register, control register or address operand (02 R56). -/
abbrev Word := BitVec 64

/-- A vector register or an accumulator bank: 512 lanes of 32 bits, lane `i` in bits
`[32i+31:32i]` (02 R56, R74, 09 R197). -/
abbrev VReg := BitVec 16384

/-- A predicate register: one bit per lane (02 R56). -/
abbrev PReg := BitVec 512

end Sys2Proof
end

