-- ==== Sys2Proof/Syntax.lean ====
section
/-! DEFINITION. The abstract syntax: one constructor of `Instr` for each row of the opcode table,
the slot instructions of a bundle (07 R174) and the events of the module
(95_what_each_step_holds.md). -/

namespace Sys2Proof

/-- Type suffixes (07 R172). -/
inductive Ty where
  | none | s8 | s16 | s32 | n8 | n16 | n32 | f32 | bf16 | e4m3 | e5m2 | mx4 | mx6 | mx8
  deriving DecidableEq, Repr

/-- Signedness keyword of `min` and `max` (08 R189). -/
inductive Sgn where
  | s | u
  deriving DecidableEq, Repr

/-- Signedness keyword of `mulh` (08 R189). -/
inductive MulhFn where
  | s | u | su
  deriving DecidableEq, Repr

/-- Conditions of `cmp` (08 R190). -/
inductive Cond where
  | eq | ne | lt | le | gt | ge | ltu | leu | gtu | geu
  deriving DecidableEq, Repr

/-- Conditions of `vcmp` (09 R203). -/
inductive VCond where
  | eq | ne | lt | le | gt | ge | un
  deriving DecidableEq, Repr

/-- Read-modify-write operations of `vatom`, `cpat` and `xat` (09 R216, 13 R298, R309). -/
inductive AtomOp where
  | add | min | max | and | or | xor | swap
  deriving DecidableEq, Repr

/-- Combines of `xcc` (13 R305). -/
inductive Comb where
  | fadd | hadd | iadd | fmax | fmin | imax | imin
  deriving DecidableEq, Repr

/-- Fence scopes (04 R111). -/
inductive Scope where
  | ctx | brk | sysMod | sys
  deriving DecidableEq, Repr

/-- Differentiable mode (12 R276). -/
inductive Mode where
  | off | fwd | rev
  deriving DecidableEq, Repr

/-- Write-back scale of `acvt` (10 R245). -/
inductive AcvtScale where
  | noscale | sq | derive
  deriving DecidableEq, Repr

/-- Weight width of `ltlook` (11 R258). -/
inductive WBits where
  | b1 | b2 | b4
  deriving DecidableEq, Repr

/-- Immediate operand of the IMM18 format: the field, or a long immediate (07 R166, R170). -/
inductive Imm where
  | short (imm : BitVec 18)
  | long (l : BitVec 44)
  deriving DecidableEq, Repr

/-- Immediate operand of `li`: the 24-bit field, or 20 bits over a long immediate (07 R166). -/
inductive LiImm where
  | short (imm : BitVec 24)
  | long (hi : BitVec 20) (l : BitVec 44)
  deriving DecidableEq, Repr

/-- Displacement of the MEM format: in access-size units, or a long immediate in bytes
(07 R166, R170). -/
inductive Disp where
  | short (d : BitVec 14)
  | long (l : BitVec 44)
  deriving DecidableEq, Repr

/-- The ECC-protected structures of telemetry record 0x06 and the other places a corrected error can
fall (25 R447, R449). -/
inductive EccPlace where
  | hbm (bank : Nat)
  | scratchpad (bank : Nat)
  | registers | accumulators | tables | l2 | ddr | imem
  deriving DecidableEq, Repr

/-- Where an uncorrectable error falls (25 R447): in a context's state or data, in a global read
or link transfer of one operation of a context, or in a seat's save area (22 R406). -/
inductive ErrPlace where
  | context (seat : Fin 4) (place : EccPlace)
  | operation (seat : Fin 4) (op : Nat) (place : EccPlace)
  | saveArea (seat : Fin 4) (place : EccPlace)
  deriving DecidableEq, Repr

/-- What one flit carries (24 R436): a granule of an exchange, its completion, an `xat` operation,
a barrier flit, a start commit, a sync value, a keep-alive, or traffic that is only passing on. -/
inductive Payload where
  | granule (kernel : Nat) (op : Nat) (xcc : Bool) (len : Nat) (fn : Nat) (offset : Nat) (dest : Nat)
      (data : BitVec 512)
  | done (kernel : Nat) (op : Nat) (xcc : Bool) (len : Nat) (fn : Nat) (dest : Nat) (tag : BitVec 32)
  | xat (kernel : Nat) (op : Nat) (fn : AtomOp) (ty : Ty) (dest : Nat) (count : Nat)
      (data : List (BitVec 32))
  | bar (kernel : Nat) (index : Nat)
  /-- the COMMIT of a kernel's start for a seat of a brick (21 R398) -/
  | commit (kernel : Nat) (brick : Fin 8) (seat : Fin 4)
  | sync (gbc : Word)
  | keepAlive
  | other (data : BitVec 512)
  deriving DecidableEq, Repr

/-- A flit: final destination, source, sequence number and CRC (24 R436). -/
structure Flit where
  src : BitVec 12
  dest : BitVec 12
  dim : Fin 12
  seq : BitVec 32
  crc : BitVec 32
  payload : Payload
  deriving DecidableEq, Repr

/-- Fields of a seat's set-up block, which the steward writes before an arm (21 R397, 22 R408). `image`
loads instruction memory and the image's tables from the image of the kernel with this number. -/
inductive SetupField where
  | crd | scmask | dimmap | seatf | asgen | gbcs | qi | entry | image
  | param (k : Fin 8)
  deriving DecidableEq, Repr

/-- Steward and host registers that have no row of their own (opcode row REGISTER_WRITE; 21 R388,
R389, R397, 22 R403, R413, 23 R421, R427, 24 R434, R439). -/
inductive PlainReg where
  | winbase
  | qcfg (q : Fin 64)
  | qlbase (q : Fin 64)
  | qcbase (q : Fin 64)
  | qstat (q : Fin 64)
  | seattab (brick : Fin 8) (j : Fin 4)
  | seatstat (brick : Fin 8)
  | ctxst (brick : Fin 8) (seat : Fin 4)
  | ctxctl (brick : Fin 8) (seat : Fin 4)
  | fbud (brick : Fin 8) (seat : Fin 4)
  | setup (brick : Fin 8) (seat : Fin 4) (f : SetupField)
  | tlbinv (brick : Fin 8)
  | tlbcnt (brick : Fin 8)
  | tlbst (brick : Fin 8)
  | genst (brick : Fin 8)
  | scrubst (brick : Fin 8)
  | mrext (brick : Fin 8) (j : Fin 6)
  | logtype (brick : Fin 8)
  | logpay (brick : Fin 8) (j : Fin 12)
  | logast (brick : Fin 8)
  | lnkerr (brick : Fin 8) (d : Fin 12)
  | gsync (brick : Fin 8)
  | rly (brick : Fin 8) (j : Fin 16)
  | detctl (brick : Fin 8) (d : Fin 12)
  | attst
  | telst
  /-- a host write at an offset of BAR0 (21 R388) -/
  | bar0 (offset : BitVec 20)
  deriving DecidableEq, Repr

/-- One constructor for each row of spec/opcode_table.json, in its order. `g` is the guard of a slot
instruction (07 R168). The events carry the brick, the seat and what their source supplies. -/
inductive Instr where
  -- beats, freezes and services (01, 05, 12)
  | bundleEntry (b : Fin 8) (q : Fin 4)
  | contextBeat (b : Fin 8) (q : Fin 4)
  | trailingIdleBeat (b : Fin 8) (q : Fin 4)
  | qIntervalFault (b : Fin 8) (q : Fin 4)
  | freezeBudget (b : Fin 8) (q : Fin 4)
  | serviceOverrun (b : Fin 8) (q : Fin 4)
  | stall (partition : Fin 64)
  | gbcTick (b : Fin 8)
  | taskStart (b : Fin 8) (q : Fin 4)
  | trapResume (b : Fin 8) (q : Fin 4)
  | tapeOverflowService (b : Fin 8) (q : Fin 4)
  | tapeUnderflowService (b : Fin 8) (q : Fin 4)
  | streamTranslationService (b : Fin 8) (q : Fin 4) (entry : Option (BitVec 52 × Word))
  | saturationPolicyService (b : Fin 8) (q : Fin 4)
  -- slot 0 (08, 12)
  | nop (g : Fin 16)
  | br (g : Fin 16) (tgt : BitVec 16)
  | brl (g : Fin 16) (l : Fin 32) (tgt : BitVec 16)
  | ret (g : Fin 16) (a : Fin 32)
  | rft (g : Fin 16)
  | brloop (g : Fin 16) (tgt : BitVec 16)
  | loopb (g : Fin 16) (n : Nat)
  | tchk (g : Fin 16) (a : Fin 32) (imm : BitVec 18)
  | kwait (g : Fin 16) (k : Fin 32)
  | halt (g : Fin 16)
  | trap (g : Fin 16) (code : BitVec 16)
  | csrr (g : Fin 16) (d : Fin 32) (n : BitVec 12)
  | csrw (g : Fin 16) (n : BitVec 12) (a : Fin 32)
  | dreg (g : Fin 16) (d : Fin 16) (a : Fin 32)
  | dmode (g : Fin 16) (m : Mode)
  | tmark (g : Fin 16) (imm : BitVec 16)
  -- slots 1 and 2 (08)
  | add (g : Fin 16) (d a b : Fin 32)
  | addImm (g : Fin 16) (d a : Fin 32) (imm : Imm)
  | sub (g : Fin 16) (d a b : Fin 32)
  | mul (g : Fin 16) (d a b : Fin 32)
  | mulh (g : Fin 16) (d a b : Fin 32) (fn : MulhFn)
  | and (g : Fin 16) (d a b : Fin 32)
  | andImm (g : Fin 16) (d a : Fin 32) (imm : Imm)
  | or (g : Fin 16) (d a b : Fin 32)
  | orImm (g : Fin 16) (d a : Fin 32) (imm : Imm)
  | xor (g : Fin 16) (d a b : Fin 32)
  | xorImm (g : Fin 16) (d a : Fin 32) (imm : Imm)
  | shl (g : Fin 16) (d a b : Fin 32)
  | shlImm (g : Fin 16) (d a : Fin 32) (imm : Imm)
  | shr (g : Fin 16) (d a b : Fin 32)
  | shrImm (g : Fin 16) (d a : Fin 32) (imm : Imm)
  | sar (g : Fin 16) (d a b : Fin 32)
  | sarImm (g : Fin 16) (d a : Fin 32) (imm : Imm)
  | min (g : Fin 16) (d a b : Fin 32) (fn : Sgn)
  | max (g : Fin 16) (d a b : Fin 32) (fn : Sgn)
  | sel (g : Fin 16) (d : Fin 32) (c : Fin 16) (a b : Fin 32)
  | cmp (g : Fin 16) (d : Fin 16) (a b : Fin 32) (cond : Cond)
  | li (g : Fin 16) (d : Fin 32) (imm : LiImm)
  | lih (g : Fin 16) (d : Fin 32) (imm : BitVec 24)
  | clz (g : Fin 16) (d a : Fin 32)
  | popc (g : Fin 16) (d a : Fin 32)
  | lds (g : Fin 16) (d a : Fin 32) (disp : Disp) (ty : Ty)
  | sts (g : Fin 16) (a : Fin 32) (disp : Disp) (d : Fin 32) (ty : Ty)
  -- slot 3 (09)
  | vld (g : Fin 16) (d : Fin 64) (a : Fin 32) (disp : Disp) (ty : Ty)
  | vldt (g : Fin 16) (d : Fin 64) (a : Fin 32) (disp : BitVec 8) (b : Fin 32) (ty : Ty)
  | vst (g : Fin 16) (a : Fin 32) (disp : Disp) (d : Fin 64) (ty : Ty)
  | vatom (g : Fin 16) (d : Fin 64) (a : Fin 32) (b : Fin 64) (ty : Ty) (op : AtomOp) (noret : Bool)
  | vgath (g : Fin 16) (d : Fin 64) (a : Fin 32) (b : Fin 64) (ty : Ty)
  | vscat (g : Fin 16) (a : Fin 32) (b : Fin 64) (d : Fin 64) (ty : Ty)
  -- slots 4 and 5 (09)
  | vadd (g : Fin 16) (d a b : Fin 64) (ty : Ty)
  | vsub (g : Fin 16) (d a b : Fin 64) (ty : Ty)
  | vmul (g : Fin 16) (d a b : Fin 64) (ty : Ty)
  | vfma (g : Fin 16) (d a b c : Fin 64) (ty : Ty)
  | vmin (g : Fin 16) (d a b : Fin 64) (ty : Ty)
  | vmax (g : Fin 16) (d a b : Fin 64) (ty : Ty)
  | vabs (g : Fin 16) (d a : Fin 64) (ty : Ty)
  | vcmp (g : Fin 16) (d : Fin 16) (a b : Fin 64) (ty : Ty) (cond : VCond)
  | vsel (g : Fin 16) (d : Fin 64) (c : Fin 16) (a b : Fin 64) (ty : Ty)
  | vbcast (g : Fin 16) (d : Fin 64) (a : Fin 32) (ty : Ty)
  | vperm (g : Fin 16) (d a b : Fin 64) (ty : Ty)
  | vcvt (g : Fin 16) (d a : Fin 64) (dst src : Ty) (c : Fin 16)
  | vexp2 (g : Fin 16) (d a : Fin 64) (ty : Ty)
  | vlog2 (g : Fin 16) (d a : Fin 64) (ty : Ty)
  | vrcp (g : Fin 16) (d a : Fin 64) (ty : Ty)
  | vrsq (g : Fin 16) (d a : Fin 64) (ty : Ty)
  | vredadd (g : Fin 16) (d : Fin 32) (a : Fin 64) (ty : Ty)
  -- slot 6 (10, 11)
  | sarm (g : Fin 16) (s : Fin 16) (idx : BitVec 12) (a : Fin 32)
  | mxmm (g : Fin 16) (a : Fin 32) (sa sb sc : Fin 16) (defer : Fin 64) (int init : Bool)
  | acq (g : Fin 16) (d : Fin 32) (n : Nat)
  | arls (g : Fin 16) (a : Fin 32)
  | azero (g : Fin 16) (a : Fin 32)
  | ard (g : Fin 16) (d : Fin 64) (a : Fin 32) (clr : Bool)
  | acvt (g : Fin 16) (a : Fin 32) (s : Fin 16) (scale : AcvtScale) (sc : Fin 16) (defer : Fin 64)
      (ftz int : Bool)
  | ltbuild (g : Fin 16) (a : Fin 32) (s : Fin 16) (defer : Fin 64)
  | ltlook (g : Fin 16) (a : Fin 32) (w t sel : Fin 16) (defer : Fin 64) (int init : Bool)
      (wb : WBits) (sq : Bool)
  | ltinv (g : Fin 16) (a b : Fin 32)
  | ltspill (g : Fin 16) (a : Fin 32) (s : Fin 16) (defer : Fin 64)
  | ltfill (g : Fin 16) (a : Fin 32) (s : Fin 16) (defer : Fin 64)
  | ltstat (g : Fin 16) (d a : Fin 32)
  -- slot 7 (13)
  | cpld (g : Fin 16) (a b c : Fin 32) (k : Fin 32) (defer : Fin 64)
  | cpst (g : Fin 16) (a b c : Fin 32) (k : Fin 32) (defer : Fin 64)
  | cpfill (g : Fin 16) (a b c : Fin 32) (k : Fin 32) (defer : Fin 64)
  | cpga (g : Fin 16) (a b c : Fin 32) (k : Fin 32) (defer : Fin 64)
  | cpsc (g : Fin 16) (a b c : Fin 32) (k : Fin 32) (defer : Fin 64)
  | cpsq (g : Fin 16) (a b c : Fin 32) (k : Fin 32) (defer : Fin 64)
  | cpat (g : Fin 16) (a b c : Fin 32) (k : Fin 32) (defer : Fin 64)
  | fenci (g : Fin 16) (k : Fin 32) (scope : Scope)
  | fencw (g : Fin 16) (k : Fin 32)
  | xch (g : Fin 16) (dim : Fin 16) (a b : Fin 32) (k : Fin 32)
  | xcc (g : Fin 16) (dim : Fin 16) (a b : Fin 32) (k : Fin 32) (comb : Comb)
  | xsib (g : Fin 16) (dim : Fin 16) (a b : Fin 32) (k : Fin 32) (v : Bool)
  | xgs (g : Fin 16) (mask : BitVec 12) (a : Fin 32) (k : Fin 32) (back : Bool)
  | xbar (g : Fin 16) (mask : BitVec 12) (k : Fin 32)
  | xat (g : Fin 16) (dim : Fin 16) (a b : Fin 32) (k : Fin 32) (op : AtomOp)
  -- variable-latency traffic (04, 13)
  | copyEngineStart (b : Fin 8) (q : Fin 4) (op : Nat)
  | homeAccess (b : Fin 8) (q : Fin 4) (op : Nat) (span : Nat)
  | landingGranule (b : Fin 8) (q : Fin 4) (op : Nat) (granule : Nat)
  | copyCompletion (b : Fin 8) (q : Fin 4) (op : Nat)
  | fenceCompletion (b : Fin 8) (q : Fin 4) (op : Nat)
  | scaleQueuePush (b : Fin 8) (q : Fin 4) (op : Nat)
  | globalStreamFetch (b : Fin 8) (q : Fin 4) (cmd : Nat) (side : Bool) (step : Nat)
  | exchangeArrival (b : Fin 8) (d : Fin 12)
  | exchangeCompletion (b : Fin 8) (d : Fin 12)
  | xccCombine (b : Fin 8) (d : Fin 12)
  | xatArrival (b : Fin 8) (d : Fin 12)
  | barrierFlit (b : Fin 8) (d : Fin 12)
  -- host port and launch (21)
  | doorbell (q : Fin 64) (t : BitVec 16)
  | cheadWrite (q : Fin 64) (h : BitVec 16)
  | launchRecordTake (q : Fin 64)
  | seatTableApply (b : Fin 8)
  | startArm (b : Fin 8) (q : Fin 4)
  | startCommit (b : Fin 8) (q : Fin 4)
  | startCancel (b : Fin 8) (q : Fin 4)
  -- contexts and translation (22)
  | preemptionTarget (b : Fin 8) (q : Fin 4) (v : Word)
  | lightSave (b : Fin 8) (q : Fin 4) (v : Word)
  | heavySave (b : Fin 8) (q : Fin 4) (v : Word)
  | saveComplete (b : Fin 8) (q : Fin 4)
  | saveDrainTimeout (b : Fin 8) (q : Fin 4)
  | contextRestore (b : Fin 8) (q : Fin 4) (v : Word)
  | contextRelease (b : Fin 8) (q : Fin 4)
  | contextResume (b : Fin 8) (q : Fin 4)
  | scrub (b : Fin 8) (quarter : Fin 4)
  | scrubComplete (b : Fin 8) (quarter : Fin 4) (ok : Bool)
  | tlbWalk (b : Fin 8) (asid gen : BitVec 16) (va : BitVec 52)
  | translationService (b : Fin 8) (q : Fin 4) (op : Nat) (entry : Option (BitVec 52 × Word))
  | tlbInvalidate (b : Fin 8)
  | tlbInvalidateDone (b : Fin 8)
  | generationAdvance (b : Fin 8) (v : Word)
  | generationAdvanceDone (b : Fin 8)
  -- boot, attestation and the audit log (23)
  | powerUp
  | measurementExtend (b : Fin 8) (reg : Fin 4)
  | recoveryImage (image : List Byte)
  | claim (pa : BitVec 52)
  | enrol (pa : BitVec 52)
  | remove (pa : BitVec 52)
  | relinquish (pa : BitVec 52)
  | attestationRequest (nonce : BitVec 256)
  | attestationDone
  | logAppend (b : Fin 8)
  | logAck (seq : Word)
  | logPageSelect (seq : Word)
  | sealreq
  | logSeal
  -- links (24)
  | linkTrain (b : Fin 8) (d : Fin 12)
  | linkTrainingDone (b : Fin 8) (d : Fin 12) (peer : BitVec 12)
  | trainingTimeout (b : Fin 8) (d : Fin 12)
  | linkDown (b : Fin 8) (d : Fin 12) (train : Bool)
  | flitReceive (b : Fin 8) (d : Fin 12) (flit : Flit)
  | replay (b : Fin 8) (d : Fin 12)
  | keepAlive (b : Fin 8) (d : Fin 12)
  | keepAliveTimeout (b : Fin 8) (d : Fin 12)
  | lossOfSignal (b : Fin 8) (d : Fin 12)
  | syncFlitSend (b : Fin 8) (d : Fin 12)
  | syncFlitReceive (b : Fin 8) (gbc : Word)
  | syncLost (b : Fin 8)
  | detourOpen (b : Fin 8) (d : Fin 12) (v : Word)
  | detourClose (b : Fin 8) (d : Fin 12)
  | detourCloseDone (b : Fin 8) (d : Fin 12)
  -- fleet (25)
  | allocationWrite (q : Fin 64) (v : Word)
  | standby
  | standbyExit
  | powerCap (v : Word)
  | thermalThrottle (b : Fin 8)
  | thermalTrip (b : Fin 8)
  | uncorrectableError (b : Fin 8) (place : ErrPlace)
  | telemetrySelect (v : Word)
  | telemetryClear
  | telemetryDelta (b : Fin 8)
  | temperatureSample (b : Fin 8) (t : Int)
  | registerWrite (r : PlainReg) (v : Word)
  | powerLoss
  | hostMemoryAccess (offset : BitVec 38) (write : Option (List Byte))
  | correctedError (b : Fin 8) (place : EccPlace)
  | thermalThrottleEnd (b : Fin 8)
  | downWaitExpiry (b : Fin 8) (d : Fin 12)
  | lostLinkWithNoDetour (b : Fin 8) (d : Fin 12)
  deriving DecidableEq, Repr

end Sys2Proof
end

