-- ==== Sys2Proof/WellFormed.lean ====
section
/-! DEFINITION. Which terms of `Instr` are instructions: the type suffixes, register pairs and coded
values that each chapter accepts (07 R171-R175, 08 R186-R193, 09 R198, 10 R242, 11 R258), and the
slots in which each may stand (06 R153, 07 R174). -/

namespace Sys2Proof

/-- The defined control and status register numbers (08 R187). -/
def csrDefined (n : Nat) : Bool :=
  n ≤ 0x004 || (0x010 ≤ n && n ≤ 0x015) || (0x020 ≤ n && n ≤ 0x022) || (0x030 ≤ n && n ≤ 0x035) ||
    (0x040 ≤ n && n ≤ 0x045) || n == 0x050 || (0x100 ≤ n && n ≤ 0x12F)

/-- Suffixes of `lds` and `sts` (08 R193). -/
def Ty.scalarMem : Ty → Bool
  | .none | .s8 | .s16 | .s32 | .n8 | .n16 | .n32 => true
  | _ => false

/-- Suffixes of `vld`, `vldt`, `vst`, `vgath` and `vscat` (09 R198). -/
def Ty.vecMem : Ty → Bool
  | .mx4 | .mx6 | .mx8 => false
  | _ => true

/-- Suffixes of `vadd vsub vmul vfma vmin vmax vbcast vatom` (09 R198). -/
def Ty.arith : Ty → Bool
  | .f32 | .bf16 | .s32 | .n32 => true
  | _ => false

/-- Suffixes of `vabs` (09 R198). -/
def Ty.absTy : Ty → Bool
  | .f32 | .bf16 | .s32 => true
  | _ => false

/-- Suffixes of `vcmp` and `vredadd` (09 R198). -/
def Ty.wordTy : Ty → Bool
  | .f32 | .s32 | .n32 => true
  | _ => false

/-- Suffixes of `vsel` and `vperm` (09 R198). -/
def Ty.moveTy : Ty → Bool
  | .none | .f32 | .s32 | .n32 => true
  | _ => false

/-- Suffixes of `vcvt`, as destination and as source (09 R198). -/
def Ty.cvt : Ty → Bool
  | .none | .mx4 | .mx6 | .mx8 => false
  | _ => true

/-- Suffixes of the transcendentals (09 R198). -/
def Ty.trans : Ty → Bool
  | .f32 | .bf16 => true
  | _ => false

/-- A logical operation (09 R216). -/
def AtomOp.logical : AtomOp → Bool
  | .and | .or | .xor => true
  | _ => false

/-- `vatom` refuses logical operations on floating types (09 R216). -/
def atomTyOk (ty : Ty) (op : AtomOp) : Bool :=
  !(op.logical && (ty == .f32 || ty == .bf16))

/-- A predicate-pair field holds an even number (07 R171). -/
def evenFin {n : Nat} (d : Fin n) : Bool := d.val % 2 == 0

/-- The immediate of a shift: bits [17:6] of the field are reserved (07 R174). -/
def Imm.shiftOk : Imm → Bool
  | .short i => i.toNat < 64
  | .long _ => true

/-- The conditions of `vcmp`: `un` with `.f32` only (09 R203). -/
def vcmpOk (ty : Ty) (c : VCond) : Bool := ty.wordTy && (c != .un || ty == .f32)

/-- A term is an instruction when every coded field holds a value that its chapter defines. -/
def wellFormed : Instr → Bool
  | .loopb _ n => 1 ≤ n && n ≤ 256
  | .csrr _ _ n => csrDefined n.toNat
  | .csrw _ n _ => csrDefined n.toNat
  | .shlImm _ _ _ i => i.shiftOk
  | .shrImm _ _ _ i => i.shiftOk
  | .sarImm _ _ _ i => i.shiftOk
  | .cmp _ d _ _ _ => evenFin d
  | .lds _ _ _ _ ty => ty.scalarMem
  | .sts _ _ _ _ ty => ty.scalarMem
  | .vld _ _ _ _ ty => ty.vecMem
  | .vldt _ _ _ _ _ ty => ty.vecMem
  | .vst _ _ _ _ ty => ty.vecMem
  | .vatom _ _ _ _ ty op _ => ty.arith && atomTyOk ty op
  | .vgath _ _ _ _ ty => ty.vecMem
  | .vscat _ _ _ _ ty => ty.vecMem
  | .vadd _ _ _ _ ty => ty.arith
  | .vsub _ _ _ _ ty => ty.arith
  | .vmul _ _ _ _ ty => ty.arith
  | .vfma _ _ _ _ _ ty => ty.arith
  | .vmin _ _ _ _ ty => ty.arith
  | .vmax _ _ _ _ ty => ty.arith
  | .vabs _ _ _ ty => ty.absTy
  | .vcmp _ d _ _ ty c => evenFin d && vcmpOk ty c
  | .vsel _ _ _ _ _ ty => ty.moveTy
  | .vbcast _ _ _ ty => ty.arith
  | .vperm _ _ _ _ ty => ty.moveTy
  | .vcvt _ _ _ dst src _ => dst.cvt && src.cvt
  | .vexp2 _ _ _ ty => ty.trans
  | .vlog2 _ _ _ ty => ty.trans
  | .vrcp _ _ _ ty => ty.trans
  | .vrsq _ _ _ ty => ty.trans
  | .vredadd _ _ _ ty => ty.wordTy
  | .acq _ _ n => n == 1 || n == 2 || n == 4 || n == 8
  | .ltlook _ _ _ _ _ _ int _ _ sq => !(int && sq)
  | .xgs _ _ a _ _ => evenFin a
  | _ => true

/-- The slots in which a slot instruction may stand (06 R153); no slot for an event. -/
def slots : Instr → List (Fin 8)
  | .nop .. => [0, 1, 2, 3, 4, 5, 6, 7]
  | .br .. | .brl .. | .ret .. | .rft .. | .brloop .. | .loopb .. | .tchk .. | .kwait .. | .halt ..
  | .trap .. | .csrr .. | .csrw .. | .dreg .. | .dmode .. | .tmark .. => [0]
  | .add .. | .addImm .. | .sub .. | .mul .. | .mulh .. | .and .. | .andImm .. | .or .. | .orImm ..
  | .xor .. | .xorImm .. | .shl .. | .shlImm .. | .shr .. | .shrImm .. | .sar .. | .sarImm ..
  | .min .. | .max .. | .sel .. | .cmp .. | .li .. | .lih .. | .clz .. | .popc .. => [1, 2]
  | .lds .. | .sts .. => [2]
  | .vld .. | .vldt .. | .vst .. | .vatom .. | .vgath .. | .vscat .. => [3]
  | .vadd .. | .vsub .. | .vmul .. | .vfma .. | .vmin .. | .vmax .. | .vabs .. | .vcmp .. | .vsel ..
  | .vbcast .. => [4, 5]
  | .vperm .. | .vcvt .. | .vexp2 .. | .vlog2 .. | .vrcp .. | .vrsq .. | .vredadd .. => [5]
  | .sarm .. | .mxmm .. | .acq .. | .arls .. | .azero .. | .ard .. | .acvt .. | .ltbuild ..
  | .ltlook .. | .ltinv .. | .ltspill .. | .ltfill .. | .ltstat .. => [6]
  | .cpld .. | .cpst .. | .cpfill .. | .cpga .. | .cpsc .. | .cpsq .. | .cpat .. | .fenci ..
  | .fencw .. | .xch .. | .xcc .. | .xsib .. | .xgs .. | .xbar .. | .xat .. => [7]
  | _ => []

end Sys2Proof
end

