-- ==== Sys2Proof/Decode.lean ====
section
/-! DEFINITION. The decoder and the encoder of slot instructions and bundle headers
(07 R163-R175). A slot is a 44-bit number; a refused slot gives the cause of R175. -/

namespace Sys2Proof

/-- `len` bits of a slot from bit `lo` up. -/
def fld (w lo len : Nat) : Nat := w / 2 ^ lo % 2 ^ len

/-- A check of R175: `c` holds, or the slot is refused with `cause`. -/
def chk (c : Bool) (cause : Nat) (k : Except Nat Instr) : Except Nat Instr :=
  if c then k else .error cause

/-- A coded value that the instruction defines, or cause 0x02 (R175). -/
def coded {α : Type} (o : Option α) (k : α → Except Nat Instr) : Except Nat Instr :=
  match o with
  | some a => k a
  | none => .error 2

/-- The TY field (07 R172). -/
def tyOfCode : Nat → Option Ty
  | 0 => some .none | 1 => some .s8 | 2 => some .s16 | 3 => some .s32 | 4 => some .n8
  | 5 => some .n16 | 6 => some .n32 | 7 => some .f32 | 8 => some .bf16 | 9 => some .e4m3
  | 10 => some .e5m2 | 11 => some .mx4 | 12 => some .mx6 | 13 => some .mx8 | _ => none

/-- The code of a type suffix (07 R172). -/
def Ty.code : Ty → Nat
  | .none => 0 | .s8 => 1 | .s16 => 2 | .s32 => 3 | .n8 => 4 | .n16 => 5 | .n32 => 6 | .f32 => 7
  | .bf16 => 8 | .e4m3 => 9 | .e5m2 => 10 | .mx4 => 11 | .mx6 => 12 | .mx8 => 13

/-- A TY field that the instruction accepts. -/
def tyIn (ok : Ty → Bool) (c : Nat) : Option Ty :=
  match tyOfCode c with
  | some t => if ok t then some t else none
  | none => none

def sgnOfCode : Nat → Option Sgn
  | 0 => some .s | 1 => some .u | _ => none

def Sgn.code : Sgn → Nat
  | .s => 0 | .u => 1

def mulhOfCode : Nat → Option MulhFn
  | 0 => some .s | 1 => some .u | 2 => some .su | _ => none

def MulhFn.code : MulhFn → Nat
  | .s => 0 | .u => 1 | .su => 2

/-- FN of `cmp` (08 R190). -/
def condOfCode : Nat → Option Cond
  | 0 => some .eq | 1 => some .ne | 2 => some .lt | 3 => some .le | 4 => some .gt | 5 => some .ge
  | 6 => some .ltu | 7 => some .leu | 8 => some .gtu | 9 => some .geu | _ => none

def Cond.code : Cond → Nat
  | .eq => 0 | .ne => 1 | .lt => 2 | .le => 3 | .gt => 4 | .ge => 5 | .ltu => 6 | .leu => 7
  | .gtu => 8 | .geu => 9

/-- FN of `vcmp` (09 R203). -/
def vcondOfCode : Nat → Option VCond
  | 0 => some .eq | 1 => some .ne | 2 => some .lt | 3 => some .le | 4 => some .gt | 5 => some .ge
  | 10 => some .un | _ => none

def VCond.code : VCond → Nat
  | .eq => 0 | .ne => 1 | .lt => 2 | .le => 3 | .gt => 4 | .ge => 5 | .un => 10

/-- FN[3:0] of `vatom`, FN of `xat` (09 R216, 13 R304). -/
def atomOfCode : Nat → Option AtomOp
  | 0 => some .add | 1 => some .min | 2 => some .max | 3 => some .and | 4 => some .or
  | 5 => some .xor | 6 => some .swap | _ => none

def AtomOp.code : AtomOp → Nat
  | .add => 0 | .min => 1 | .max => 2 | .and => 3 | .or => 4 | .xor => 5 | .swap => 6

/-- FN of `xcc` (13 R305). -/
def combOfCode : Nat → Option Comb
  | 0 => some .fadd | 1 => some .hadd | 2 => some .iadd | 3 => some .fmax | 4 => some .fmin
  | 5 => some .imax | 6 => some .imin | _ => none

def Comb.code : Comb → Nat
  | .fadd => 0 | .hadd => 1 | .iadd => 2 | .fmax => 3 | .fmin => 4 | .imax => 5 | .imin => 6

/-- SCOPE (07 R170). -/
def scopeOfCode : Nat → Scope
  | 0 => .ctx | 1 => .brk | 2 => .sysMod | _ => .sys

def Scope.code : Scope → Nat
  | .ctx => 0 | .brk => 1 | .sysMod => 2 | .sys => 3

/-- The mode of `dmode` (12 R276). -/
def modeOfCode : Nat → Option Mode
  | 0 => some .off | 1 => some .fwd | 2 => some .rev | _ => none

def Mode.code : Mode → Nat
  | .off => 0 | .fwd => 1 | .rev => 2

/-- SB of `acvt` (10 R245). -/
def scaleOfCode : Nat → Option AcvtScale
  | 0 => some .noscale | 1 => some .sq | 2 => some .derive | _ => none

def AcvtScale.code : AcvtScale → Nat
  | .noscale => 0 | .sq => 1 | .derive => 2

/-- FN[4:3] of `ltlook` (11 R258). -/
def wbitsOfCode : Nat → Option WBits
  | 0 => some .b1 | 1 => some .b2 | 2 => some .b4 | _ => none

def WBits.code : WBits → Nat
  | .b1 => 0 | .b2 => 1 | .b4 => 2

/-- A Bool field. -/
def bitOf (n : Nat) : Bool := n % 2 == 1

def bcode (b : Bool) : Nat := if b then 1 else 0

/-- FN[1:0] of `mxmm` and `ltlook`: FP32 or INT32 accumulation. -/
def intOfCode : Nat → Option Bool
  | 0 => some false | 1 => some true | _ => none

/-- The immediate operand: the field, or the long immediate `l` (R166). -/
def immOf (l : Option (BitVec 44)) (i : Nat) : Imm :=
  match l with
  | none => .short (BitVec.ofNat 18 i)
  | some v => .long v

/-- The operand of `li` (R166). -/
def liOf (l : Option (BitVec 44)) (i : Nat) : LiImm :=
  match l with
  | none => .short (BitVec.ofNat 24 i)
  | some v => .long (BitVec.ofNat 20 i) v

/-- The displacement (R166). -/
def dispOf (l : Option (BitVec 44)) (i : Nat) : Disp :=
  match l with
  | none => .short (BitVec.ofNat 14 i)
  | some v => .long v

/-- A guard, predicate, stream, counter or region number. -/
def f4 (n : Nat) : Fin 16 := Fin.ofNat 16 n

/-- A scalar register or token number. -/
def f5 (n : Nat) : Fin 32 := Fin.ofNat 32 n

/-- A vector register number, or a defer. -/
def f6 (n : Nat) : Fin 64 := Fin.ofNat 64 n

/-- The guard field (R167). -/
def gOf (w : Nat) : Fin 16 := f4 (fld w 30 4)

/-- Opcode 0x000 (R169). -/
def decNop (w : Nat) : Except Nat Instr := chk (fld w 0 30 == 0) 3 (.ok (.nop (gOf w)))

/-- TRIO with three `x` registers, TY none and no FN. -/
def decXXX (w : Nat) (k : Fin 16 → Fin 32 → Fin 32 → Fin 32 → Instr) : Except Nat Instr :=
  chk (fld w 8 4 == 0) 2 <|
  chk (fld w 24 6 < 32 && fld w 18 6 < 32 && fld w 12 6 < 32 && fld w 0 8 == 0) 3 <|
  .ok (k (gOf w) (f5 (fld w 24 6)) (f5 (fld w 18 6)) (f5 (fld w 12 6)))

/-- TRIO with D and A in `x` and no B. -/
def decXX (w : Nat) (k : Fin 16 → Fin 32 → Fin 32 → Instr) : Except Nat Instr :=
  chk (fld w 8 4 == 0) 2 <|
  chk (fld w 24 6 < 32 && fld w 18 6 < 32 && fld w 12 6 == 0 && fld w 0 8 == 0) 3 <|
  .ok (k (gOf w) (f5 (fld w 24 6)) (f5 (fld w 18 6)))

/-- TRIO with A in `x` only. -/
def decXA (w : Nat) (k : Fin 16 → Fin 32 → Instr) : Except Nat Instr :=
  chk (fld w 8 4 == 0) 2 <|
  chk (fld w 24 6 == 0 && fld w 18 6 < 32 && fld w 12 6 == 0 && fld w 0 8 == 0) 3 <|
  .ok (k (gOf w) (f5 (fld w 18 6)))

/-- IMM18 with D and A in `x` (08 R188). -/
def decXI (w : Nat) (l : Option (BitVec 44)) (k : Fin 16 → Fin 32 → Fin 32 → Imm → Instr) :
    Except Nat Instr :=
  chk (fld w 24 6 < 32 && fld w 18 6 < 32) 3 <|
  .ok (k (gOf w) (f5 (fld w 24 6)) (f5 (fld w 18 6)) (immOf l (fld w 0 18)))

/-- The immediate shifts, whose IMM[17:6] are reserved (R174). -/
def decXS (w : Nat) (l : Option (BitVec 44)) (k : Fin 16 → Fin 32 → Fin 32 → Imm → Instr) :
    Except Nat Instr :=
  chk (fld w 24 6 < 32 && fld w 18 6 < 32 && fld w 6 12 == 0) 3 <|
  .ok (k (gOf w) (f5 (fld w 24 6)) (f5 (fld w 18 6)) (immOf l (fld w 0 18)))

/-- TRIO with three `v` registers, a suffix and FN = 0. -/
def decVVV (w : Nat) (ok : Ty → Bool) (k : Fin 16 → Fin 64 → Fin 64 → Fin 64 → Ty → Instr) :
    Except Nat Instr :=
  coded (tyIn ok (fld w 8 4)) fun ty => chk (fld w 0 8 == 0) 3 <|
  .ok (k (gOf w) (f6 (fld w 24 6)) (f6 (fld w 18 6)) (f6 (fld w 12 6)) ty)

/-- TRIO with D and A in `v`, a suffix, B and FN = 0. -/
def decVV (w : Nat) (ok : Ty → Bool) (k : Fin 16 → Fin 64 → Fin 64 → Ty → Instr) :
    Except Nat Instr :=
  coded (tyIn ok (fld w 8 4)) fun ty => chk (fld w 12 6 == 0 && fld w 0 8 == 0) 3 <|
  .ok (k (gOf w) (f6 (fld w 24 6)) (f6 (fld w 18 6)) ty)

/-- Slot 0 (R174). -/
def decCtl (w : Nat) : Except Nat Instr :=
  match fld w 34 10 with
  | 0x000 => decNop w
  | 0x001 => chk (fld w 8 6 == 0 && fld w 0 8 == 0) 3 <|
      .ok (.br (gOf w) (BitVec.ofNat 16 (fld w 14 16)))
  | 0x002 => chk (fld w 8 6 < 32 && fld w 0 8 == 0) 3 <|
      .ok (.brl (gOf w) (f5 (fld w 8 6)) (BitVec.ofNat 16 (fld w 14 16)))
  | 0x003 => decXA w .ret
  | 0x004 => chk (fld w 8 6 == 0 && fld w 0 8 == 0) 3 <|
      .ok (.brloop (gOf w) (BitVec.ofNat 16 (fld w 14 16)))
  | 0x005 => chk (1 ≤ fld w 0 9 && fld w 0 9 ≤ 256) 2 <|
      chk (fld w 9 21 == 0) 3 <| .ok (.loopb (gOf w) (fld w 0 9))
  | 0x006 => chk (fld w 24 6 == 0 && fld w 18 6 < 32) 3 <|
      .ok (.tchk (gOf w) (f5 (fld w 18 6)) (BitVec.ofNat 18 (fld w 0 18)))
  | 0x007 => chk (fld w 0 30 == 0) 3 <| .ok (.halt (gOf w))
  | 0x008 => chk (fld w 16 14 == 0) 3 <| .ok (.trap (gOf w) (BitVec.ofNat 16 (fld w 0 16)))
  | 0x009 => chk (fld w 0 30 == 0) 3 <| .ok (.rft (gOf w))
  | 0x00A => chk (csrDefined (fld w 0 12)) 2 <|
      chk (fld w 24 6 < 32 && fld w 12 12 == 0) 3 <|
      .ok (.csrr (gOf w) (f5 (fld w 24 6)) (BitVec.ofNat 12 (fld w 0 12)))
  | 0x00B => chk (csrDefined (fld w 0 12)) 2 <|
      chk (fld w 24 6 == 0 && fld w 18 6 < 32 && fld w 12 6 == 0) 3 <|
      .ok (.csrw (gOf w) (BitVec.ofNat 12 (fld w 0 12)) (f5 (fld w 18 6)))
  | 0x00C => chk (fld w 5 25 == 0) 3 <| .ok (.kwait (gOf w) (f5 (fld w 0 5)))
  | 0x010 => chk (fld w 24 6 < 16 && fld w 18 6 < 32 && fld w 0 18 == 0) 3 <|
      .ok (.dreg (gOf w) (f4 (fld w 24 6)) (f5 (fld w 18 6)))
  | 0x011 => coded (modeOfCode (fld w 0 2)) fun m => chk (fld w 2 28 == 0) 3 <|
      .ok (.dmode (gOf w) m)
  | 0x012 => chk (fld w 16 14 == 0) 3 <| .ok (.tmark (gOf w) (BitVec.ofNat 16 (fld w 0 16)))
  | _ => .error 1

/-- Slots 1 and 2; `two` holds in slot 2, where `lds` and `sts` stand (R174). -/
def decScalar (two : Bool) (w : Nat) (l : Option (BitVec 44)) : Except Nat Instr :=
  match fld w 34 10 with
  | 0x000 => decNop w
  | 0x020 => decXXX w .add
  | 0x021 => decXI w l .addImm
  | 0x022 => decXXX w .sub
  | 0x023 => decXXX w .mul
  | 0x024 => chk (fld w 8 4 == 0) 2 <| coded (mulhOfCode (fld w 0 8)) fun fn =>
      chk (fld w 24 6 < 32 && fld w 18 6 < 32 && fld w 12 6 < 32) 3 <|
      .ok (.mulh (gOf w) (f5 (fld w 24 6)) (f5 (fld w 18 6)) (f5 (fld w 12 6)) fn)
  | 0x025 => decXXX w .and
  | 0x026 => decXI w l .andImm
  | 0x027 => decXXX w .or
  | 0x028 => decXI w l .orImm
  | 0x029 => decXXX w .xor
  | 0x02A => decXI w l .xorImm
  | 0x02B => decXXX w .shl
  | 0x02C => decXS w l .shlImm
  | 0x02D => decXXX w .shr
  | 0x02E => decXS w l .shrImm
  | 0x02F => decXXX w .sar
  | 0x030 => decXS w l .sarImm
  | 0x031 => chk (fld w 8 4 == 0) 2 <| coded (sgnOfCode (fld w 0 8)) fun fn =>
      chk (fld w 24 6 < 32 && fld w 18 6 < 32 && fld w 12 6 < 32) 3 <|
      .ok (.min (gOf w) (f5 (fld w 24 6)) (f5 (fld w 18 6)) (f5 (fld w 12 6)) fn)
  | 0x032 => chk (fld w 8 4 == 0) 2 <| coded (sgnOfCode (fld w 0 8)) fun fn =>
      chk (fld w 24 6 < 32 && fld w 18 6 < 32 && fld w 12 6 < 32) 3 <|
      .ok (.max (gOf w) (f5 (fld w 24 6)) (f5 (fld w 18 6)) (f5 (fld w 12 6)) fn)
  | 0x033 => chk (fld w 2 4 == 0) 2 <|
      chk (fld w 24 6 < 32 && fld w 18 6 < 32 && fld w 12 6 < 32 && fld w 6 6 < 16 &&
        fld w 0 2 == 0) 3 <|
      .ok (.sel (gOf w) (f5 (fld w 24 6)) (f4 (fld w 6 6)) (f5 (fld w 18 6)) (f5 (fld w 12 6)))
  | 0x034 => chk (fld w 8 4 == 0) 2 <| coded (condOfCode (fld w 0 8)) fun c =>
      chk (fld w 24 6 < 16 && fld w 24 6 % 2 == 0 && fld w 18 6 < 32 && fld w 12 6 < 32) 3 <|
      .ok (.cmp (gOf w) (f4 (fld w 24 6)) (f5 (fld w 18 6)) (f5 (fld w 12 6)) c)
  | 0x036 => chk (fld w 24 6 < 32) 3 <| .ok (.li (gOf w) (f5 (fld w 24 6)) (liOf l (fld w 0 24)))
  | 0x037 => chk (fld w 24 6 < 32) 3 <|
      .ok (.lih (gOf w) (f5 (fld w 24 6)) (BitVec.ofNat 24 (fld w 0 24)))
  | 0x038 => decXX w .clz
  | 0x039 => decXX w .popc
  | 0x03C => chk two 1 <| coded (tyIn Ty.scalarMem (fld w 0 4)) fun ty =>
      chk (fld w 24 6 < 32 && fld w 18 6 < 32) 3 <|
      .ok (.lds (gOf w) (f5 (fld w 24 6)) (f5 (fld w 18 6)) (dispOf l (fld w 4 14)) ty)
  | 0x03D => chk two 1 <| coded (tyIn Ty.scalarMem (fld w 0 4)) fun ty =>
      chk (fld w 24 6 < 32 && fld w 18 6 < 32) 3 <|
      .ok (.sts (gOf w) (f5 (fld w 18 6)) (dispOf l (fld w 4 14)) (f5 (fld w 24 6)) ty)
  | _ => .error 1

/-- Slot 3 (R174). -/
def decMem (w : Nat) (l : Option (BitVec 44)) : Except Nat Instr :=
  match fld w 34 10 with
  | 0x000 => decNop w
  | 0x040 => coded (tyIn Ty.vecMem (fld w 0 4)) fun ty => chk (fld w 18 6 < 32) 3 <|
      .ok (.vld (gOf w) (f6 (fld w 24 6)) (f5 (fld w 18 6)) (dispOf l (fld w 4 14)) ty)
  | 0x041 => coded (tyIn Ty.vecMem (fld w 0 4)) fun ty =>
      chk (fld w 18 6 < 32 && fld w 12 6 < 32) 3 <|
      .ok (.vldt (gOf w) (f6 (fld w 24 6)) (f5 (fld w 18 6)) (BitVec.ofNat 8 (fld w 4 8))
        (f5 (fld w 12 6)) ty)
  | 0x042 => coded (tyIn Ty.vecMem (fld w 0 4)) fun ty => chk (fld w 18 6 < 32) 3 <|
      .ok (.vst (gOf w) (f5 (fld w 18 6)) (dispOf l (fld w 4 14)) (f6 (fld w 24 6)) ty)
  | 0x043 => coded (tyIn Ty.arith (fld w 8 4)) fun ty => coded (atomOfCode (fld w 0 4)) fun op =>
      chk (fld w 5 3 == 0 && atomTyOk ty op) 2 <| chk (fld w 18 6 < 32) 3 <|
      .ok (.vatom (gOf w) (f6 (fld w 24 6)) (f5 (fld w 18 6)) (f6 (fld w 12 6)) ty op
        (bitOf (fld w 4 1)))
  | 0x044 => coded (tyIn Ty.vecMem (fld w 8 4)) fun ty =>
      chk (fld w 18 6 < 32 && fld w 0 8 == 0) 3 <|
      .ok (.vgath (gOf w) (f6 (fld w 24 6)) (f5 (fld w 18 6)) (f6 (fld w 12 6)) ty)
  | 0x045 => coded (tyIn Ty.vecMem (fld w 8 4)) fun ty =>
      chk (fld w 18 6 < 32 && fld w 0 8 == 0) 3 <|
      .ok (.vscat (gOf w) (f5 (fld w 18 6)) (f6 (fld w 12 6)) (f6 (fld w 24 6)) ty)
  | _ => .error 1

/-- Slots 4 and 5; `five` holds in slot 5, where 0x070 to 0x076 stand (R174). -/
def decVec (five : Bool) (w : Nat) : Except Nat Instr :=
  match fld w 34 10 with
  | 0x000 => decNop w
  | 0x060 => decVVV w Ty.arith .vadd
  | 0x061 => decVVV w Ty.arith .vsub
  | 0x062 => decVVV w Ty.arith .vmul
  | 0x063 => coded (tyIn Ty.arith (fld w 2 4)) fun ty => chk (fld w 0 2 == 0) 3 <|
      .ok (.vfma (gOf w) (f6 (fld w 24 6)) (f6 (fld w 18 6)) (f6 (fld w 12 6)) (f6 (fld w 6 6)) ty)
  | 0x064 => decVVV w Ty.arith .vmin
  | 0x065 => decVVV w Ty.arith .vmax
  | 0x066 => decVV w Ty.absTy .vabs
  | 0x067 => coded (tyIn Ty.wordTy (fld w 8 4)) fun ty => coded (vcondOfCode (fld w 0 8)) fun c =>
      chk (vcmpOk ty c) 2 <| chk (fld w 24 6 < 16 && fld w 24 6 % 2 == 0) 3 <|
      .ok (.vcmp (gOf w) (f4 (fld w 24 6)) (f6 (fld w 18 6)) (f6 (fld w 12 6)) ty c)
  | 0x068 => coded (tyIn Ty.moveTy (fld w 2 4)) fun ty =>
      chk (fld w 6 6 < 16 && fld w 0 2 == 0) 3 <|
      .ok (.vsel (gOf w) (f6 (fld w 24 6)) (f4 (fld w 6 6)) (f6 (fld w 18 6)) (f6 (fld w 12 6)) ty)
  | 0x069 => coded (tyIn Ty.arith (fld w 8 4)) fun ty =>
      chk (fld w 18 6 < 32 && fld w 12 6 == 0 && fld w 0 8 == 0) 3 <|
      .ok (.vbcast (gOf w) (f6 (fld w 24 6)) (f5 (fld w 18 6)) ty)
  | 0x070 => chk five 1 <| coded (tyIn Ty.cvt (fld w 8 4)) fun dst =>
      coded (tyIn Ty.cvt (fld w 4 4)) fun src => chk (fld w 12 6 == 0) 3 <|
      .ok (.vcvt (gOf w) (f6 (fld w 24 6)) (f6 (fld w 18 6)) dst src (f4 (fld w 0 4)))
  | 0x071 => chk five 1 <| decVV w Ty.trans .vexp2
  | 0x072 => chk five 1 <| decVV w Ty.trans .vlog2
  | 0x073 => chk five 1 <| decVV w Ty.trans .vrcp
  | 0x074 => chk five 1 <| decVV w Ty.trans .vrsq
  | 0x075 => chk five 1 <| coded (tyIn Ty.wordTy (fld w 8 4)) fun ty =>
      chk (fld w 24 6 < 32 && fld w 12 6 == 0 && fld w 0 8 == 0) 3 <|
      .ok (.vredadd (gOf w) (f5 (fld w 24 6)) (f6 (fld w 18 6)) ty)
  | 0x076 => chk five 1 <| decVVV w Ty.moveTy .vperm
  | _ => .error 1

/-- An ENG slot with SB, SC and FN reserved (11 R254, R267, R268). -/
def decTab (w : Nat) (k : Fin 16 → Fin 32 → Fin 16 → Fin 64 → Instr) : Except Nat Instr :=
  chk (fld w 24 6 < 32 && fld w 16 4 == 0 && fld w 12 4 == 0 && fld w 0 6 == 0) 3 <|
  .ok (k (gOf w) (f5 (fld w 24 6)) (f4 (fld w 20 4)) (f6 (fld w 6 6)))

/-- Slot 6 (R174). -/
def decEng (w : Nat) : Except Nat Instr :=
  match fld w 34 10 with
  | 0x000 => decNop w
  | 0x080 => chk (fld w 8 6 < 32 && fld w 0 8 == 0) 3 <|
      .ok (.sarm (gOf w) (f4 (fld w 26 4)) (BitVec.ofNat 12 (fld w 14 12)) (f5 (fld w 8 6)))
  | 0x081 => coded (intOfCode (fld w 0 2)) fun int =>
      chk (fld w 24 6 < 32 && fld w 3 3 == 0) 3 <|
      .ok (.mxmm (gOf w) (f5 (fld w 24 6)) (f4 (fld w 20 4)) (f4 (fld w 16 4)) (f4 (fld w 12 4))
        (f6 (fld w 6 6)) int (bitOf (fld w 2 1)))
  | 0x082 => chk (fld w 0 4 == 1 || fld w 0 4 == 2 || fld w 0 4 == 4 || fld w 0 4 == 8) 2 <|
      chk (fld w 24 6 < 32 && fld w 4 20 == 0) 3 <|
      .ok (.acq (gOf w) (f5 (fld w 24 6)) (fld w 0 4))
  | 0x083 => decXA w .arls
  | 0x084 => decXA w .azero
  | 0x085 => chk (fld w 8 4 == 0) 2 <|
      chk (fld w 18 6 < 32 && fld w 12 6 == 0 && fld w 1 7 == 0) 3 <|
      .ok (.ard (gOf w) (f6 (fld w 24 6)) (f5 (fld w 18 6)) (bitOf (fld w 0 1)))
  | 0x086 => coded (scaleOfCode (fld w 16 4)) fun sc =>
      chk (fld w 24 6 < 32 && fld w 2 4 == 0) 3 <|
      .ok (.acvt (gOf w) (f5 (fld w 24 6)) (f4 (fld w 20 4)) sc (f4 (fld w 12 4)) (f6 (fld w 6 6))
        (bitOf (fld w 0 1)) (bitOf (fld w 1 1)))
  | 0x088 => decTab w .ltbuild
  | 0x089 => coded (intOfCode (fld w 0 2)) fun int => coded (wbitsOfCode (fld w 3 2)) fun wb =>
      chk (!(int && bitOf (fld w 5 1))) 2 <| chk (fld w 24 6 < 32) 3 <|
      .ok (.ltlook (gOf w) (f5 (fld w 24 6)) (f4 (fld w 20 4)) (f4 (fld w 16 4)) (f4 (fld w 12 4))
        (f6 (fld w 6 6)) int (bitOf (fld w 2 1)) wb (bitOf (fld w 5 1)))
  | 0x08A => chk (fld w 8 4 == 0) 2 <|
      chk (fld w 24 6 == 0 && fld w 18 6 < 32 && fld w 12 6 < 32 && fld w 0 8 == 0) 3 <|
      .ok (.ltinv (gOf w) (f5 (fld w 18 6)) (f5 (fld w 12 6)))
  | 0x08B => decTab w .ltspill
  | 0x08C => decTab w .ltfill
  | 0x08D => decXX w .ltstat
  | _ => .error 1

/-- A COPY slot. -/
def decCopy (w : Nat)
    (k : Fin 16 → Fin 32 → Fin 32 → Fin 32 → Fin 32 → Fin 64 → Instr) : Except Nat Instr :=
  chk (fld w 24 6 < 32 && fld w 18 6 < 32 && fld w 12 6 < 32 && fld w 0 1 == 0) 3 <|
  .ok (k (gOf w) (f5 (fld w 24 6)) (f5 (fld w 18 6)) (f5 (fld w 12 6)) (f5 (fld w 7 5))
    (f6 (fld w 1 6)))

/-- The register and reserved fields of a DIMX slot. -/
def dimxOk (w : Nat) : Bool := fld w 24 6 < 32 && fld w 18 6 < 32 && fld w 0 6 == 0

/-- Slot 7 (R174). -/
def decXc (w : Nat) : Except Nat Instr :=
  match fld w 34 10 with
  | 0x000 => decNop w
  | 0x0A0 => decCopy w .cpld
  | 0x0A1 => decCopy w .cpst
  | 0x0A2 => decCopy w .cpga
  | 0x0A3 => decCopy w .cpsc
  | 0x0A4 => decCopy w .cpfill
  | 0x0A5 => decCopy w .cpsq
  | 0x0A6 => decCopy w .cpat
  | 0x0A8 => chk (fld w 0 23 == 0) 3 <|
      .ok (.fenci (gOf w) (f5 (fld w 25 5)) (scopeOfCode (fld w 23 2)))
  | 0x0A9 => chk (fld w 0 25 == 0) 3 <| .ok (.fencw (gOf w) (f5 (fld w 25 5)))
  | 0x0B0 => chk (fld w 6 3 == 0) 2 <| chk (dimxOk w) 3 <|
      .ok (.xch (gOf w) (f4 (fld w 14 4)) (f5 (fld w 24 6)) (f5 (fld w 18 6)) (f5 (fld w 9 5)))
  | 0x0B1 => coded (combOfCode (fld w 6 3)) fun c => chk (dimxOk w) 3 <|
      .ok (.xcc (gOf w) (f4 (fld w 14 4)) (f5 (fld w 24 6)) (f5 (fld w 18 6)) (f5 (fld w 9 5)) c)
  | 0x0B2 => chk (fld w 7 2 == 0) 2 <| chk (dimxOk w) 3 <|
      .ok (.xsib (gOf w) (f4 (fld w 14 4)) (f5 (fld w 24 6)) (f5 (fld w 18 6)) (f5 (fld w 9 5))
        (bitOf (fld w 6 1)))
  | 0x0B3 => chk (fld w 5 2 == 0) 2 <|
      chk (fld w 12 6 < 32 && fld w 12 6 % 2 == 0 && fld w 0 4 == 0) 3 <|
      .ok (.xgs (gOf w) (BitVec.ofNat 12 (fld w 18 12)) (f5 (fld w 12 6)) (f5 (fld w 7 5))
        (bitOf (fld w 4 1)))
  | 0x0B4 => chk (fld w 4 3 == 0) 2 <| chk (fld w 12 6 == 0 && fld w 0 4 == 0) 3 <|
      .ok (.xbar (gOf w) (BitVec.ofNat 12 (fld w 18 12)) (f5 (fld w 7 5)))
  | 0x0B5 => coded (atomOfCode (fld w 6 3)) fun op => chk (dimxOk w) 3 <|
      .ok (.xat (gOf w) (f4 (fld w 14 4)) (f5 (fld w 24 6)) (f5 (fld w 18 6)) (f5 (fld w 9 5)) op)
  | _ => .error 1

/-- The instruction of a 44-bit slot, with the long immediate that the header pairs with the slot,
or the cause of R175. -/
def decodeSlot (k : Fin 8) (w : Nat) (l : Option (BitVec 44)) : Except Nat Instr :=
  match k with
  | 0 => decCtl w
  | 1 => decScalar false w l
  | 2 => decScalar true w l
  | 3 => decMem w l
  | 4 => decVec false w
  | 5 => decVec true w
  | 6 => decEng w
  | 7 => decXc w

/-- Q of a header (R164). -/
def hdrQ (h : Nat) : Bool := bitOf h

/-- IDLE of a header (R164). -/
def hdrIdle (h : Nat) : Nat := fld h 1 4

/-- Whether the slot named as consumer accepts a long immediate and holds the field that R166
requires. -/
def consumerOk (k w : Nat) : Bool :=
  match k, fld w 34 10 with
  | 1, op | 2, op =>
    ((op == 0x021 || op == 0x026 || op == 0x028 || op == 0x02A || op == 0x02C || op == 0x02E ||
      op == 0x030) && fld w 0 18 == 0) ||
    (op == 0x036 && fld w 20 4 == 0) ||
    (k == 2 && (op == 0x03C || op == 0x03D) && fld w 4 14 == 0)
  | 3, op => (op == 0x040 || op == 0x042) && fld w 4 14 == 0
  | _, _ => false

/-- The checks of R165 and R166, given the slots of the bundle. -/
def headerOk (h : Nat) (slot : Nat → Nat) : Bool :=
  fld h 5 3 == 0 && fld h 15 17 == 0 &&
    (if bitOf (fld h 8 1) then
      fld h 9 3 != fld h 12 3 && consumerOk (fld h 12 3) (slot (fld h 12 3))
    else fld h 9 3 == 0 && fld h 12 3 == 0)

/-- Whether slot `k` carries the long immediate (R166). -/
def isCarrier (h : Nat) (k : Nat) : Bool := bitOf (fld h 8 1) && fld h 9 3 == k

/-- The long immediate that slot `k` consumes (R166). -/
def longFor (h : Nat) (slot : Nat → Nat) (k : Nat) : Option (BitVec 44) :=
  if bitOf (fld h 8 1) && fld h 12 3 == k then some (BitVec.ofNat 44 (slot (fld h 9 3))) else none

/-- The lowest slot that lists an opcode (R174). -/
def slotOfOpcode (op : Nat) : Option (Fin 8) :=
  if op ≤ 0x012 then some 0
  else if 0x020 ≤ op && op ≤ 0x039 then some 1
  else if 0x03C ≤ op && op ≤ 0x03D then some 2
  else if 0x040 ≤ op && op ≤ 0x045 then some 3
  else if 0x060 ≤ op && op ≤ 0x069 then some 4
  else if 0x070 ≤ op && op ≤ 0x076 then some 5
  else if 0x080 ≤ op && op ≤ 0x08D then some 6
  else if 0x0A0 ≤ op && op ≤ 0x0B5 then some 7
  else none

/-- The instruction that the decoder reads from a word numbered as the opcode table numbers it: a
slot of 44 bits, bit 0 lowest, in the lowest slot that lists its opcode (assumption 3). -/
def decodeTableWord (_nbits w : Nat) : Option Instr :=
  match slotOfOpcode (fld w 34 10) with
  | some k =>
    match decodeSlot k (w % 2 ^ 44) none with
    | .ok i => some i
    | .error _ => none
  | none => none

/-! ### The encoder -/

def encTrio (op : Nat) (g : Fin 16) (d a b ty fn : Nat) : Nat :=
  op * 2 ^ 34 + g.val * 2 ^ 30 + d * 2 ^ 24 + a * 2 ^ 18 + b * 2 ^ 12 + ty * 2 ^ 8 + fn

def encQuad (op : Nat) (g : Fin 16) (d a b c ty : Nat) : Nat :=
  op * 2 ^ 34 + g.val * 2 ^ 30 + d * 2 ^ 24 + a * 2 ^ 18 + b * 2 ^ 12 + c * 2 ^ 6 + ty * 2 ^ 2

def encImm18 (op : Nat) (g : Fin 16) (d a imm : Nat) : Nat :=
  op * 2 ^ 34 + g.val * 2 ^ 30 + d * 2 ^ 24 + a * 2 ^ 18 + imm

def encImm24 (op : Nat) (g : Fin 16) (d imm : Nat) : Nat :=
  op * 2 ^ 34 + g.val * 2 ^ 30 + d * 2 ^ 24 + imm

def encBranch (op : Nat) (g : Fin 16) (tgt l : Nat) : Nat :=
  op * 2 ^ 34 + g.val * 2 ^ 30 + tgt * 2 ^ 14 + l * 2 ^ 8

def encMem (op : Nat) (g : Fin 16) (d a disp ty : Nat) : Nat :=
  op * 2 ^ 34 + g.val * 2 ^ 30 + d * 2 ^ 24 + a * 2 ^ 18 + disp * 2 ^ 4 + ty

def encMemt (op : Nat) (g : Fin 16) (d a b disp ty : Nat) : Nat :=
  op * 2 ^ 34 + g.val * 2 ^ 30 + d * 2 ^ 24 + a * 2 ^ 18 + b * 2 ^ 12 + disp * 2 ^ 4 + ty

def encArm (op : Nat) (g : Fin 16) (s idx a : Nat) : Nat :=
  op * 2 ^ 34 + g.val * 2 ^ 30 + s * 2 ^ 26 + idx * 2 ^ 14 + a * 2 ^ 8

def encEng (op : Nat) (g : Fin 16) (a sa sb sc defer fn : Nat) : Nat :=
  op * 2 ^ 34 + g.val * 2 ^ 30 + a * 2 ^ 24 + sa * 2 ^ 20 + sb * 2 ^ 16 + sc * 2 ^ 12 +
    defer * 2 ^ 6 + fn

def encCopy (op : Nat) (g : Fin 16) (a b c k : Fin 32) (defer : Fin 64) : Nat :=
  op * 2 ^ 34 + g.val * 2 ^ 30 + a.val * 2 ^ 24 + b.val * 2 ^ 18 + c.val * 2 ^ 12 + k.val * 2 ^ 7 +
    defer.val * 2

def encDimx (op : Nat) (g : Fin 16) (a b : Fin 32) (dim : Fin 16) (k : Fin 32) (fn : Nat) : Nat :=
  op * 2 ^ 34 + g.val * 2 ^ 30 + a.val * 2 ^ 24 + b.val * 2 ^ 18 + dim.val * 2 ^ 14 +
    k.val * 2 ^ 9 + fn * 2 ^ 6

def encMaskx (op : Nat) (g : Fin 16) (mask a k fn : Nat) : Nat :=
  op * 2 ^ 34 + g.val * 2 ^ 30 + mask * 2 ^ 18 + a * 2 ^ 12 + k * 2 ^ 7 + fn * 2 ^ 4

def encFence (op : Nat) (g : Fin 16) (k scope : Nat) : Nat :=
  op * 2 ^ 34 + g.val * 2 ^ 30 + k * 2 ^ 25 + scope * 2 ^ 23

/-- The immediate field that goes with an operand. -/
def Imm.field : Imm → Nat
  | .short i => i.toNat
  | .long _ => 0

def LiImm.field : LiImm → Nat
  | .short i => i.toNat
  | .long hi _ => hi.toNat

def Disp.field : Disp → Nat
  | .short d => d.toNat
  | .long _ => 0

def Imm.carrier : Imm → Option (BitVec 44)
  | .short _ => none
  | .long l => some l

def LiImm.carrier : LiImm → Option (BitVec 44)
  | .short _ => none
  | .long _ l => some l

def Disp.carrier : Disp → Option (BitVec 44)
  | .short _ => none
  | .long l => some l

/-- The words of an instruction: its slot, and the carrier's 44 bits where it takes a long
immediate. No word for an event. -/
def encode : Instr → Option (Nat × Option (BitVec 44))
  | .nop g => some (g.val * 2 ^ 30, none)
  | .br g t => some (encBranch 0x001 g t.toNat 0, none)
  | .brl g l t => some (encBranch 0x002 g t.toNat l.val, none)
  | .ret g a => some (encTrio 0x003 g 0 a.val 0 0 0, none)
  | .brloop g t => some (encBranch 0x004 g t.toNat 0, none)
  | .loopb g n => some (encImm24 0x005 g 0 n, none)
  | .tchk g a i => some (encImm18 0x006 g 0 a.val i.toNat, none)
  | .halt g => some (encImm24 0x007 g 0 0, none)
  | .trap g c => some (encImm24 0x008 g 0 c.toNat, none)
  | .rft g => some (encImm24 0x009 g 0 0, none)
  | .csrr g d n => some (encImm18 0x00A g d.val 0 n.toNat, none)
  | .csrw g n a => some (encImm18 0x00B g 0 a.val n.toNat, none)
  | .kwait g k => some (encImm24 0x00C g 0 k.val, none)
  | .dreg g d a => some (encImm18 0x010 g d.val a.val 0, none)
  | .dmode g m => some (encImm24 0x011 g 0 m.code, none)
  | .tmark g i => some (encImm24 0x012 g 0 i.toNat, none)
  | .add g d a b => some (encTrio 0x020 g d.val a.val b.val 0 0, none)
  | .addImm g d a i => some (encImm18 0x021 g d.val a.val i.field, i.carrier)
  | .sub g d a b => some (encTrio 0x022 g d.val a.val b.val 0 0, none)
  | .mul g d a b => some (encTrio 0x023 g d.val a.val b.val 0 0, none)
  | .mulh g d a b fn => some (encTrio 0x024 g d.val a.val b.val 0 fn.code, none)
  | .and g d a b => some (encTrio 0x025 g d.val a.val b.val 0 0, none)
  | .andImm g d a i => some (encImm18 0x026 g d.val a.val i.field, i.carrier)
  | .or g d a b => some (encTrio 0x027 g d.val a.val b.val 0 0, none)
  | .orImm g d a i => some (encImm18 0x028 g d.val a.val i.field, i.carrier)
  | .xor g d a b => some (encTrio 0x029 g d.val a.val b.val 0 0, none)
  | .xorImm g d a i => some (encImm18 0x02A g d.val a.val i.field, i.carrier)
  | .shl g d a b => some (encTrio 0x02B g d.val a.val b.val 0 0, none)
  | .shlImm g d a i => some (encImm18 0x02C g d.val a.val i.field, i.carrier)
  | .shr g d a b => some (encTrio 0x02D g d.val a.val b.val 0 0, none)
  | .shrImm g d a i => some (encImm18 0x02E g d.val a.val i.field, i.carrier)
  | .sar g d a b => some (encTrio 0x02F g d.val a.val b.val 0 0, none)
  | .sarImm g d a i => some (encImm18 0x030 g d.val a.val i.field, i.carrier)
  | .min g d a b fn => some (encTrio 0x031 g d.val a.val b.val 0 fn.code, none)
  | .max g d a b fn => some (encTrio 0x032 g d.val a.val b.val 0 fn.code, none)
  | .sel g d c a b => some (encQuad 0x033 g d.val a.val b.val c.val 0, none)
  | .cmp g d a b c => some (encTrio 0x034 g d.val a.val b.val 0 c.code, none)
  | .li g d i => some (encImm24 0x036 g d.val i.field, i.carrier)
  | .lih g d i => some (encImm24 0x037 g d.val i.toNat, none)
  | .clz g d a => some (encTrio 0x038 g d.val a.val 0 0 0, none)
  | .popc g d a => some (encTrio 0x039 g d.val a.val 0 0 0, none)
  | .lds g d a i ty => some (encMem 0x03C g d.val a.val i.field ty.code, i.carrier)
  | .sts g a i d ty => some (encMem 0x03D g d.val a.val i.field ty.code, i.carrier)
  | .vld g d a i ty => some (encMem 0x040 g d.val a.val i.field ty.code, i.carrier)
  | .vldt g d a i b ty => some (encMemt 0x041 g d.val a.val b.val i.toNat ty.code, none)
  | .vst g a i d ty => some (encMem 0x042 g d.val a.val i.field ty.code, i.carrier)
  | .vatom g d a b ty op nr =>
    some (encTrio 0x043 g d.val a.val b.val ty.code (op.code + bcode nr * 16), none)
  | .vgath g d a b ty => some (encTrio 0x044 g d.val a.val b.val ty.code 0, none)
  | .vscat g a b d ty => some (encTrio 0x045 g d.val a.val b.val ty.code 0, none)
  | .vadd g d a b ty => some (encTrio 0x060 g d.val a.val b.val ty.code 0, none)
  | .vsub g d a b ty => some (encTrio 0x061 g d.val a.val b.val ty.code 0, none)
  | .vmul g d a b ty => some (encTrio 0x062 g d.val a.val b.val ty.code 0, none)
  | .vfma g d a b c ty => some (encQuad 0x063 g d.val a.val b.val c.val ty.code, none)
  | .vmin g d a b ty => some (encTrio 0x064 g d.val a.val b.val ty.code 0, none)
  | .vmax g d a b ty => some (encTrio 0x065 g d.val a.val b.val ty.code 0, none)
  | .vabs g d a ty => some (encTrio 0x066 g d.val a.val 0 ty.code 0, none)
  | .vcmp g d a b ty c => some (encTrio 0x067 g d.val a.val b.val ty.code c.code, none)
  | .vsel g d c a b ty => some (encQuad 0x068 g d.val a.val b.val c.val ty.code, none)
  | .vbcast g d a ty => some (encTrio 0x069 g d.val a.val 0 ty.code 0, none)
  | .vperm g d a b ty => some (encTrio 0x076 g d.val a.val b.val ty.code 0, none)
  | .vcvt g d a dst src c =>
    some (encTrio 0x070 g d.val a.val 0 dst.code (src.code * 16 + c.val), none)
  | .vexp2 g d a ty => some (encTrio 0x071 g d.val a.val 0 ty.code 0, none)
  | .vlog2 g d a ty => some (encTrio 0x072 g d.val a.val 0 ty.code 0, none)
  | .vrcp g d a ty => some (encTrio 0x073 g d.val a.val 0 ty.code 0, none)
  | .vrsq g d a ty => some (encTrio 0x074 g d.val a.val 0 ty.code 0, none)
  | .vredadd g d a ty => some (encTrio 0x075 g d.val a.val 0 ty.code 0, none)
  | .sarm g s i a => some (encArm 0x080 g s.val i.toNat a.val, none)
  | .mxmm g a sa sb sc df int init =>
    some (encEng 0x081 g a.val sa.val sb.val sc.val df.val (bcode int + bcode init * 4), none)
  | .acq g d n => some (encImm24 0x082 g d.val n, none)
  | .arls g a => some (encTrio 0x083 g 0 a.val 0 0 0, none)
  | .azero g a => some (encTrio 0x084 g 0 a.val 0 0 0, none)
  | .ard g d a clr => some (encTrio 0x085 g d.val a.val 0 0 (bcode clr), none)
  | .acvt g a s sc c df ftz int =>
    some (encEng 0x086 g a.val s.val sc.code c.val df.val (bcode ftz + bcode int * 2), none)
  | .ltbuild g a s df => some (encEng 0x088 g a.val s.val 0 0 df.val 0, none)
  | .ltlook g a w t sel df int init wb sq =>
    some (encEng 0x089 g a.val w.val t.val sel.val df.val
      (bcode int + bcode init * 4 + wb.code * 8 + bcode sq * 32), none)
  | .ltinv g a b => some (encTrio 0x08A g 0 a.val b.val 0 0, none)
  | .ltspill g a s df => some (encEng 0x08B g a.val s.val 0 0 df.val 0, none)
  | .ltfill g a s df => some (encEng 0x08C g a.val s.val 0 0 df.val 0, none)
  | .ltstat g d a => some (encTrio 0x08D g d.val a.val 0 0 0, none)
  | .cpld g a b c k df => some (encCopy 0x0A0 g a b c k df, none)
  | .cpst g a b c k df => some (encCopy 0x0A1 g a b c k df, none)
  | .cpga g a b c k df => some (encCopy 0x0A2 g a b c k df, none)
  | .cpsc g a b c k df => some (encCopy 0x0A3 g a b c k df, none)
  | .cpfill g a b c k df => some (encCopy 0x0A4 g a b c k df, none)
  | .cpsq g a b c k df => some (encCopy 0x0A5 g a b c k df, none)
  | .cpat g a b c k df => some (encCopy 0x0A6 g a b c k df, none)
  | .fenci g k sc => some (encFence 0x0A8 g k.val sc.code, none)
  | .fencw g k => some (encFence 0x0A9 g k.val 0, none)
  | .xch g dim a b k => some (encDimx 0x0B0 g a b dim k 0, none)
  | .xcc g dim a b k c => some (encDimx 0x0B1 g a b dim k c.code, none)
  | .xsib g dim a b k v => some (encDimx 0x0B2 g a b dim k (bcode v), none)
  | .xgs g m a k back => some (encMaskx 0x0B3 g m.toNat a.val k.val (bcode back), none)
  | .xbar g m k => some (encMaskx 0x0B4 g m.toNat 0 k.val 0, none)
  | .xat g dim a b k op => some (encDimx 0x0B5 g a b dim k op.code, none)
  | _ => none

end Sys2Proof
end

