-- ==== Sys2Proof/Machine/Bits.lean ====
section
/-! DEFINITION. Lanes, bytes, bit fields, and sparse maps in one canonical form: keys strictly
rising and no entry equal to what an unlisted key reads as. -/

namespace Sys2Proof.Machine

/-! ### Bit fields and bytes -/

/-- `len` bits of a number from bit `lo` up. -/
def nbits (w lo len : Nat) : Nat := w / 2 ^ lo % 2 ^ len

/-- Bit `i` of a number. -/
def nbit (w i : Nat) : Bool := w / 2 ^ i % 2 == 1

/-- A 64-bit word of a number, modulo 2^64. -/
def wd (n : Nat) : Word := BitVec.ofNat 64 n

/-- A byte of a number, modulo 256. -/
def by8 (n : Nat) : Byte := BitVec.ofNat 8 n

/-- The `n` bytes of a number, least significant first (00 R6). -/
def toBytes : Nat → Nat → List Byte
  | 0, _ => []
  | n + 1, v => by8 v :: toBytes n (v / 256)

/-- The number whose bytes, least significant first, these are (00 R6). -/
def ofBytes : List Byte → Nat
  | [] => 0
  | b :: t => b.toNat + 256 * ofBytes t

/-- Two's complement value of the low `w` bits of a number. -/
def signed (w n : Nat) : Int :=
  if n % 2 ^ w < 2 ^ (w - 1) then (n % 2 ^ w : Nat) else (n % 2 ^ w : Nat) - (2 ^ w : Nat)

/-- The low `w` bits of an integer. -/
def unsignedOf (w : Nat) (i : Int) : Nat := (i % (2 ^ w : Nat)).toNat

/-- Ceiling of a quotient. -/
def cdiv (a b : Nat) : Nat := (a + b - 1) / b

/-- Number of set bits among the low `n`. -/
def popcount : Nat → Nat → Nat
  | 0, _ => 0
  | n + 1, w => w % 2 + popcount n (w / 2)

/-- Number of zero bits above the highest set bit of the low `n`. -/
def clzCount : Nat → Nat → Nat
  | 0, _ => 0
  | n + 1, w => if nbit w n then 0 else 1 + clzCount n w

/-- Number of zero bits below the lowest set bit, at most `n`. -/
def ctzCount : Nat → Nat → Nat
  | 0, _ => 0
  | n + 1, w => if w % 2 == 1 then 0 else 1 + ctzCount n (w / 2)

/-- The positions of the set bits among the low `n`, ascending from `i`. -/
def setBits : Nat → Nat → Nat → List Nat
  | 0, _, _ => []
  | n + 1, i, w => if w % 2 == 1 then i :: setBits n (i + 1) (w / 2) else setBits n (i + 1) (w / 2)

/-- Half-open spans [a, a + n) and [b, b + m) have a byte in common. -/
def overlaps (a n b m : Nat) : Bool := n != 0 && m != 0 && a < b + m && b < a + n

/-- First element that makes `f` answer, with its answer. -/
def firstSome {α β : Type} (f : α → Option β) : List α → Option β
  | [] => none
  | a :: t =>
    match f a with
    | some b => some b
    | none => firstSome f t

/-- Insertion by a key. -/
def insertBy {α : Type} (key : α → Nat) (a : α) : List α → List α
  | [] => [a]
  | b :: t => if key a ≤ key b then a :: b :: t else b :: insertBy key a t

/-- Stable sort by a key, ascending. -/
def sortBy {α : Type} (key : α → Nat) : List α → List α
  | [] => []
  | a :: t => insertBy key a ((sortBy key t))

/-! ### Lanes (09 R197) -/

/-- Lane `i` of a vector. -/
def lane (v : VReg) (i : Nat) : BitVec 32 := v.extractLsb' (32 * i) 32

/-- The number whose 32-bit digits are the lanes from `i` up, `n` of them. -/
def lanesNat (f : Nat → BitVec 32) : Nat → Nat → Nat
  | 0, _ => 0
  | n + 1, i => (f i).toNat + 2 ^ 32 * lanesNat f n (i + 1)

/-- The vector of 512 lanes. -/
def ofLanes (f : Nat → BitVec 32) : VReg := BitVec.ofNat 16384 (lanesNat f 512 0)

/-- Whether lane `i` is set in a predicate (07 R168). -/
def act (m : PReg) (i : Nat) : Bool := m.getLsbD i

/-- The vector of the active lanes, zero in the others. -/
def ofActive (m : PReg) (f : Nat → BitVec 32) : VReg :=
  ofLanes fun i => if act m i then f i else 0

/-- All-ones in the lanes of a mask. -/
def laneMask (m : PReg) : VReg := ofLanes fun i => if act m i then BitVec.allOnes 32 else 0

/-- The lanes of `new` where the mask is set, of `old` elsewhere (09 R199). -/
def mergeLanes (m : PReg) (old new : VReg) : VReg :=
  (old &&& ~~~(laneMask m)) ||| (new &&& laneMask m)

/-- The bits of `new` where the mask is set, of `old` elsewhere. -/
def mergeBits (m old new : PReg) : PReg := (old &&& ~~~m) ||| (new &&& m)

/-- The predicate of 512 lanes. -/
def ofPred (f : Nat → Bool) : PReg :=
  BitVec.ofNat 512 ((List.range 512).foldl (fun a i => if f i then a + 2 ^ i else a) 0)

/-- The active lanes of a mask, ascending. -/
def activeLanes (m : PReg) : List Nat := (List.range 512).filter (act m)

/-! ### Sparse maps -/

/-- The value at a key; `d` where the list names none. -/
def mapGet {α : Type} (d : α) : List (Nat × α) → Nat → α
  | [], _ => d
  | (k, v) :: t, a => if a = k then v else if a < k then d else mapGet d t a

/-- The map with the value at a key replaced; writing `d` removes the entry. -/
def mapSet {α : Type} [DecidableEq α] (d : α) : List (Nat × α) → Nat → α → List (Nat × α)
  | [], a, v => if v = d then [] else [(a, v)]
  | (k, w) :: t, a, v =>
    if a < k then (if v = d then (k, w) :: t else (a, v) :: (k, w) :: t)
    else if a = k then (if v = d then t else (a, v) :: t)
    else (k, w) :: mapSet d t a v

/-- Keys are at least `lo` and strictly rising, and no entry holds `d`. -/
def mapWfFrom {α : Type} [DecidableEq α] (d : α) : Nat → List (Nat × α) → Bool
  | _, [] => true
  | lo, (k, v) :: t => decide (lo ≤ k) && decide (v ≠ d) && mapWfFrom d (k + 1) t

/-- The canonical form of a sparse map. -/
def mapWf {α : Type} [DecidableEq α] (d : α) (m : List (Nat × α)) : Bool := mapWfFrom d 0 m

/-! ### Byte memory

What an unlisted address reads as is the byte 0 (assumption 2): scratchpad by 02 R66, instruction
memory and global memory by choice. -/

/-- The canonical form of a memory. -/
def Memory.wf (m : List Host.Cell) : Bool := mapWf (0 : Byte) m

/-- One byte. -/
def getB (m : List Host.Cell) (a : Nat) : Byte := mapGet 0 m a

/-- A memory with one byte replaced. -/
def setB (m : List Host.Cell) (a : Nat) (b : Byte) : List Host.Cell := mapSet 0 m a b

/-- The `n` bytes from address `a` up. -/
def getBytes (m : List Host.Cell) : Nat → Nat → List Byte
  | _, 0 => []
  | a, n + 1 => getB m a :: getBytes m (a + 1) n

/-- Little-endian number of `n` bytes (00 R6). -/
def getN (m : List Host.Cell) (a n : Nat) : Nat := ofBytes (getBytes m a n)

/-- A memory with the bytes from address `a` up replaced. -/
def setBytes (m : List Host.Cell) : Nat → List Byte → List Host.Cell
  | _, [] => m
  | a, b :: t => setBytes (setB m a b) (a + 1) t

/-- A memory with a list of single bytes written, in order. -/
def setAll (m : List Host.Cell) : List (Nat × Byte) → List Host.Cell
  | [] => m
  | (a, b) :: t => setAll (setB m a b) t

/-- The byte writes of a run of bytes. -/
def bytesAt (a : Nat) (l : List Byte) : List (Nat × Byte) :=
  match l with
  | [] => []
  | b :: t => (a, b) :: bytesAt (a + 1) t

/-- The bytes of addresses at or above `a` and below `a + n` removed: they read as 0. -/
def clearSpan (m : List Host.Cell) (a n : Nat) : List Host.Cell :=
  m.filter fun c => !(a ≤ c.1 && c.1 < a + n)

end Sys2Proof.Machine
end

