-- ==== Sys2Proof/Machine/Tables.lean ====
section
/-! DEFINITION. The tables and constants of the transcendental instructions (03 R105-R108): the
correctly rounded FP32 values of the stated expressions, as bit patterns, computed outside Lean from
those expressions with 80 digits. -/

namespace Sys2Proof.Machine

/-- ET of R105: 2^(j/64), entries 0 to 31. -/
def exp2Table0 : List Nat :=
  [0x3F800000, 0x3F8164D2, 0x3F82CD87, 0x3F843A29,
   0x3F85AAC3, 0x3F871F62, 0x3F88980F, 0x3F8A14D5,
   0x3F8B95C2, 0x3F8D1ADF, 0x3F8EA43A, 0x3F9031DC,
   0x3F91C3D3, 0x3F935A2B, 0x3F94F4F0, 0x3F96942D,
   0x3F9837F0, 0x3F99E046, 0x3F9B8D3A, 0x3F9D3EDA,
   0x3F9EF532, 0x3FA0B051, 0x3FA27043, 0x3FA43516,
   0x3FA5FED7, 0x3FA7CD94, 0x3FA9A15B, 0x3FAB7A3A,
   0x3FAD583F, 0x3FAF3B79, 0x3FB123F6, 0x3FB311C4]

/-- ET of R105: 2^(j/64), entries 32 to 63. -/
def exp2Table1 : List Nat :=
  [0x3FB504F3, 0x3FB6FD92, 0x3FB8FBAF, 0x3FBAFF5B,
   0x3FBD08A4, 0x3FBF179A, 0x3FC12C4D, 0x3FC346CD,
   0x3FC5672A, 0x3FC78D75, 0x3FC9B9BE, 0x3FCBEC15,
   0x3FCE248C, 0x3FD06334, 0x3FD2A81E, 0x3FD4F35B,
   0x3FD744FD, 0x3FD99D16, 0x3FDBFBB8, 0x3FDE60F5,
   0x3FE0CCDF, 0x3FE33F89, 0x3FE5B907, 0x3FE8396A,
   0x3FEAC0C7, 0x3FED4F30, 0x3FEFE4BA, 0x3FF28177,
   0x3FF5257D, 0x3FF7D0DF, 0x3FFA83B3, 0x3FFD3E0C]

/-- ET of R105: 2^(j/64). -/
def exp2Table : List Nat := exp2Table0 ++ exp2Table1

/-- RT of R106, entries 0 to 31. -/
def log2RTable0 : List Nat :=
  [0x3FA9C84A, 0x3FA80A81, 0x3FA655C4, 0x3FA4A9CF,
   0x3FA3065E, 0x3FA16B31, 0x3F9FD80A, 0x3F9E4CAD,
   0x3F9CC8E1, 0x3F9B4C70, 0x3F99D723, 0x3F9868C8,
   0x3F97012E, 0x3F95A025, 0x3F944581, 0x3F92F114,
   0x3F91A2B4, 0x3F905A38, 0x3F8F177A, 0x3F8DDA52,
   0x3F8CA29C, 0x3F8B7034, 0x3F8A42F8, 0x3F891AC7,
   0x3F87F781, 0x3F86D905, 0x3F85BF37, 0x3F84A9FA,
   0x3F839930, 0x3F828CC0, 0x3F81848E, 0x3F800000]

/-- RT of R106, entries 32 to 63. -/
def log2RTable1 : List Nat :=
  [0x3F800000, 0x3F7D08E5, 0x3F7B1885, 0x3F792FB2,
   0x3F774E40, 0x3F757404, 0x3F73A0D5, 0x3F71D48C,
   0x3F700F01, 0x3F6E500F, 0x3F6C9791, 0x3F6AE564,
   0x3F693965, 0x3F679373, 0x3F65F36D, 0x3F645933,
   0x3F62C4A7, 0x3F6135AA, 0x3F5FAC1F, 0x3F5E27EB,
   0x3F5CA8F1, 0x3F5B2F17, 0x3F59BA42, 0x3F584A5A,
   0x3F56DF44, 0x3F5578E9, 0x3F541733, 0x3F52BA08,
   0x3F516154, 0x3F500D01, 0x3F4EBCF9, 0x3F4D7127]

/-- RT of R106, entries 64 to 95. -/
def log2RTable2 : List Nat :=
  [0x3F4C2978, 0x3F4AE5D8, 0x3F49A634, 0x3F486A79,
   0x3F473294, 0x3F45FE74, 0x3F44CE08, 0x3F43A13E,
   0x3F427806, 0x3F415250, 0x3F40300C, 0x3F3F112B,
   0x3F3DF59D, 0x3F3CDD53, 0x3F3BC841, 0x3F3AB656,
   0x3F39A786, 0x3F389BC3, 0x3F379301, 0x3F368D31,
   0x3F358A48, 0x3F348A3A, 0x3F338CFA, 0x3F32927C,
   0x3F319AB6, 0x3F30A59B, 0x3F2FB322, 0x3F2EC33E,
   0x3F2DD5E6, 0x3F2CEB10, 0x3F2C02B0, 0x3F2B1CBE]

/-- RT of R106. -/
def log2RTable : List Nat := log2RTable0 ++ log2RTable1 ++ log2RTable2

/-- LT of R106, entries 0 to 31. -/
def log2LTable0 : List Nat :=
  [0xBED0A977, 0xBEC90C02, 0xBEC1826C, 0xBEBA0C56,
   0xBEB2A959, 0xBEAB5916, 0xBEA41B2F, 0xBE9CEF46,
   0xBE95D504, 0xBE8ECC18, 0xBE87D425, 0xBE80ECDE,
   0xBE742BEA, 0xBE669E35, 0xBE593016, 0xBE4BE0EA,
   0xBE3EB027, 0xBE319D42, 0xBE24A7C5, 0xBE17CF19,
   0xBE0B12C9, 0xBDFCE4A9, 0xBDE3DA8B, 0xBDCB0653,
   0xBDB2671E, 0xBD99FBE1, 0xBD81C3EF, 0xBD537CEB,
   0xBD23D4F5, 0xBCE91D95, 0xBC8B512E, 0x00000000]

/-- LT of R106, entries 32 to 63. -/
def log2LTable1 : List Nat :=
  [0x00000000, 0x3C89B197, 0x3CE49B30, 0x3D1F6988,
   0x3D4C2DF8, 0x3D789C48, 0x3D925ADE, 0x3DA83DBF,
   0x3DBDF774, 0x3DD3888E, 0x3DE8F1A8, 0x3DFE3351,
   0x3E09A70E, 0x3E14214A, 0x3E1E88A1, 0x3E28DD5C,
   0x3E331FB5, 0x3E3D4FF5, 0x3E476E5A, 0x3E517B1A,
   0x3E5B767B, 0x3E6560B3, 0x3E6F3A01, 0x3E790297,
   0x3E815D5D, 0x3E86314D, 0x3E8AFD32, 0x3E8FC131,
   0x3E947D5B, 0x3E9931CA, 0x3E9DDE9C, 0x3EA283E9]

/-- LT of R106, entries 64 to 95. -/
def log2LTable2 : List Nat :=
  [0x3EA721C6, 0x3EABB84A, 0x3EB0478E, 0x3EB4CFA8,
   0x3EB950B1, 0x3EBDCABD, 0x3EC23DE0, 0x3EC6AA33,
   0x3ECB0FC8, 0x3ECF6EB4, 0x3ED3C70A, 0x3ED818DE,
   0x3EDC6445, 0x3EE0A955, 0x3EE4E816, 0x3EE920A6,
   0x3EED5312, 0x3EF17F6C, 0x3EF5A5C1, 0x3EF9C62C,
   0x3EFDE0B7, 0x3F00FAB9, 0x3F030238, 0x3F0506E2,
   0x3F0708BB, 0x3F0907CF, 0x3F0B0421, 0x3F0CFDBE,
   0x3F0EF4A9, 0x3F10E8EA, 0x3F12DA8B, 0x3F14C98F]

/-- LT of R106. -/
def log2LTable : List Nat := log2LTable0 ++ log2LTable1 ++ log2LTable2

/-- RT of R107, entries 0 to 31. -/
def rcpTable0 : List Nat :=
  [0x3F7F00FF, 0x3F7D08E5, 0x3F7B1885, 0x3F792FB2,
   0x3F774E40, 0x3F757404, 0x3F73A0D5, 0x3F71D48C,
   0x3F700F01, 0x3F6E500F, 0x3F6C9791, 0x3F6AE564,
   0x3F693965, 0x3F679373, 0x3F65F36D, 0x3F645933,
   0x3F62C4A7, 0x3F6135AA, 0x3F5FAC1F, 0x3F5E27EB,
   0x3F5CA8F1, 0x3F5B2F17, 0x3F59BA42, 0x3F584A5A,
   0x3F56DF44, 0x3F5578E9, 0x3F541733, 0x3F52BA08,
   0x3F516154, 0x3F500D01, 0x3F4EBCF9, 0x3F4D7127]

/-- RT of R107, entries 32 to 63. -/
def rcpTable1 : List Nat :=
  [0x3F4C2978, 0x3F4AE5D8, 0x3F49A634, 0x3F486A79,
   0x3F473294, 0x3F45FE74, 0x3F44CE08, 0x3F43A13E,
   0x3F427806, 0x3F415250, 0x3F40300C, 0x3F3F112B,
   0x3F3DF59D, 0x3F3CDD53, 0x3F3BC841, 0x3F3AB656,
   0x3F39A786, 0x3F389BC3, 0x3F379301, 0x3F368D31,
   0x3F358A48, 0x3F348A3A, 0x3F338CFA, 0x3F32927C,
   0x3F319AB6, 0x3F30A59B, 0x3F2FB322, 0x3F2EC33E,
   0x3F2DD5E6, 0x3F2CEB10, 0x3F2C02B0, 0x3F2B1CBE]

/-- RT of R107, entries 64 to 95. -/
def rcpTable2 : List Nat :=
  [0x3F2A392F, 0x3F2957FB, 0x3F287917, 0x3F279C7B,
   0x3F26C21E, 0x3F25E9F7, 0x3F2513FD, 0x3F244029,
   0x3F236E72, 0x3F229ECF, 0x3F21D13A, 0x3F2105A9,
   0x3F203C17, 0x3F1F747A, 0x3F1EAECD, 0x3F1DEB07,
   0x3F1D2922, 0x3F1C6917, 0x3F1BAADF, 0x3F1AEE73,
   0x3F1A33CD, 0x3F197AE7, 0x3F18C3BB, 0x3F180E41,
   0x3F175A75, 0x3F16A850, 0x3F15F7CC, 0x3F1548E5,
   0x3F149B93, 0x3F13EFD2, 0x3F13459C, 0x3F129CEC]

/-- RT of R107, entries 96 to 127. -/
def rcpTable3 : List Nat :=
  [0x3F11F5BD, 0x3F115009, 0x3F10ABCC, 0x3F100901,
   0x3F0F67A2, 0x3F0EC7AB, 0x3F0E2918, 0x3F0D8BE3,
   0x3F0CF009, 0x3F0C5584, 0x3F0BBC51, 0x3F0B246B,
   0x3F0A8DCD, 0x3F09F874, 0x3F09645C, 0x3F08D181,
   0x3F083FDE, 0x3F07AF70, 0x3F072033, 0x3F069223,
   0x3F06053C, 0x3F05797C, 0x3F04EEDD, 0x3F04655E,
   0x3F03DCF9, 0x3F0355AD, 0x3F02CF75, 0x3F024A4E,
   0x3F01C636, 0x3F014328, 0x3F00C122, 0x3F004020]

/-- RT of R107. -/
def rcpTable : List Nat := rcpTable0 ++ rcpTable1 ++ rcpTable2 ++ rcpTable3

/-- ST of R108, entries 0 to 31. -/
def rsqTable0 : List Nat :=
  [0x3F7F017E, 0x3F7D0D3E, 0x3F7B2452, 0x3F79464E,
   0x3F7772CB, 0x3F75A969, 0x3F73E9CB, 0x3F723399,
   0x3F708681, 0x3F6EE232, 0x3F6D4660, 0x3F6BB2C5,
   0x3F6A271A, 0x3F68A31D, 0x3F672691, 0x3F65B139,
   0x3F6442DB, 0x3F62DB41, 0x3F617A36, 0x3F601F87,
   0x3F5ECB04, 0x3F5D7C7F, 0x3F5C33CC, 0x3F5AF0BF,
   0x3F59B330, 0x3F587AF7, 0x3F5747EE, 0x3F5619F2,
   0x3F54F0DF, 0x3F53CC93, 0x3F52ACEE, 0x3F5191D1]

/-- ST of R108, entries 32 to 63. -/
def rsqTable1 : List Nat :=
  [0x3F507B1D, 0x3F4F68B6, 0x3F4E5A7F, 0x3F4D505E,
   0x3F4C4A38, 0x3F4B47F4, 0x3F4A497A, 0x3F494EB3,
   0x3F485787, 0x3F4763E2, 0x3F4673AC, 0x3F4586D3,
   0x3F449D42, 0x3F43B6E6, 0x3F42D3AD, 0x3F41F383,
   0x3F411659, 0x3F403C1C, 0x3F3F64BD, 0x3F3E902C,
   0x3F3DBE58, 0x3F3CEF34, 0x3F3C22B1, 0x3F3B58C0,
   0x3F3A9154, 0x3F39CC60, 0x3F3909D6, 0x3F3849AA,
   0x3F378BD0, 0x3F36D03D, 0x3F3616E4, 0x3F355FBA]

/-- ST of R108, entries 64 to 95. -/
def rsqTable2 : List Nat :=
  [0x3F3450FC, 0x3F32EF41, 0x3F319589, 0x3F304387,
   0x3F2EF8F2, 0x3F2DB587, 0x3F2C7904, 0x3F2B432A,
   0x3F2A13C0, 0x3F28EA8C, 0x3F27C759, 0x3F26A9F4,
   0x3F25922C, 0x3F247FD3, 0x3F2372BD, 0x3F226ABE,
   0x3F2167AF, 0x3F206968, 0x3F1F6FC4, 0x3F1E7AA0,
   0x3F1D89D9, 0x3F1C9D4E, 0x3F1BB4E1, 0x3F1AD073,
   0x3F19EFE6, 0x3F191320, 0x3F183A05, 0x3F17647C,
   0x3F16926C, 0x3F15C3BC, 0x3F14F857, 0x3F143026]

/-- ST of R108, entries 96 to 127. -/
def rsqTable3 : List Nat :=
  [0x3F136B13, 0x3F12A90B, 0x3F11E9F9, 0x3F112DCA,
   0x3F10746D, 0x3F0FBDCE, 0x3F0F09DD, 0x3F0E5889,
   0x3F0DA9C2, 0x3F0CFD79, 0x3F0C539F, 0x3F0BAC25,
   0x3F0B06FD, 0x3F0A641A, 0x3F09C36D, 0x3F0924EC,
   0x3F088889, 0x3F07EE37, 0x3F0755ED, 0x3F06BF9E,
   0x3F062B40, 0x3F0598C7, 0x3F05082A, 0x3F04795F,
   0x3F03EC5C, 0x3F036117, 0x3F02D788, 0x3F024FA6,
   0x3F01C967, 0x3F0144C4, 0x3F00C1B4, 0x3F004030]

/-- ST of R108. -/
def rsqTable : List Nat := rsqTable0 ++ rsqTable1 ++ rsqTable2 ++ rsqTable3

/-- C1 of R105: ln 2. -/
def exp2C1 : BitVec 32 := 0x3F317218#32

/-- C2 of R105: (ln 2)^2 / 2. -/
def exp2C2 : BitVec 32 := 0x3E75FDF0#32

/-- C3 of R105: (ln 2)^3 / 6. -/
def exp2C3 : BitVec 32 := 0x3D635847#32

/-- B1 of R106: 1 / ln 2. -/
def log2B1 : BitVec 32 := 0x3FB8AA3B#32

/-- B2 of R106: -1 / (2 ln 2). -/
def log2B2 : BitVec 32 := 0xBF38AA3B#32

/-- B3 of R106: 1 / (3 ln 2). -/
def log2B3 : BitVec 32 := 0x3EF6384F#32

/-- B4 of R106: -1 / (4 ln 2). -/
def log2B4 : BitVec 32 := 0xBEB8AA3B#32

end Sys2Proof.Machine
end

