-- ==== Sys2Proof/Machine/Float.lean ====
section
/-! DEFINITION. Number formats and arithmetic (03): exact values as dyadic numbers, one rounding at
the end. -/

namespace Sys2Proof.Machine

/-- A floating format (03 R86): fraction bits, exponent of the lowest bit, width, the code of
max-finite without its sign, whether the next code is infinity, and the canonical NaN. -/
structure FFmt where
  mb : Nat
  qmin : Int
  width : Nat
  maxCode : Nat
  hasInf : Bool
  nan : Nat
  deriving DecidableEq, Repr

def fp32 : FFmt := ⟨23, -149, 32, 0x7F7F_FFFF, true, 0x7FC0_0000⟩
def bf16 : FFmt := ⟨7, -133, 16, 0x7F7F, true, 0x7FC0⟩
def fe4m3 : FFmt := ⟨3, -9, 8, 0x7E, false, 0x7F⟩
def fe5m2 : FFmt := ⟨2, -16, 8, 0x7B, true, 0x7E⟩

/-- An exact value: NaN, an infinity, or (-1)^neg * m * 2^e. -/
inductive FV where
  | nan
  | inf (neg : Bool)
  | fin (neg : Bool) (m : Nat) (e : Int)
  deriving DecidableEq, Repr

/-- Tie rule of one rounding; `up` rounds a magnitude towards +infinity (03 R91, R92). -/
inductive Tie where
  | even | away | up
  deriving DecidableEq, Repr

/-- `m / 2^k` rounded to an integer. -/
def roundShift (t : Tie) (m k : Nat) : Nat :=
  let q := m / 2 ^ k
  let r := m % 2 ^ k
  match t with
  | .up => if r = 0 then q else q + 1
  | .away => if 2 * r ≥ 2 ^ k && k != 0 then q + 1 else q
  | .even =>
    if 2 * r > 2 ^ k || (2 * r == 2 ^ k && q % 2 == 1) then q + 1 else q

/-- Code of `m * 2^e` rounded once to the normal or subnormal grid of a format, without an upper
limit on the exponent. -/
def roundMag (f : FFmt) (t : Tie) (m : Nat) (e : Int) : Nat :=
  if m = 0 then 0
  else
    let u : Int := max (e + Nat.log2 m - f.mb) f.qmin
    let n := if u ≤ e then m * 2 ^ (e - u).toNat else roundShift t m (u - e).toNat
    (u - f.qmin).toNat * 2 ^ f.mb + n

/-- The value of a code (R86). -/
def FFmt.decode (f : FFmt) (bits : Nat) : FV :=
  let c := bits % 2 ^ (f.width - 1)
  let neg := nbit bits (f.width - 1)
  if f.maxCode < c then (if f.hasInf && c == f.maxCode + 1 then .inf neg else .nan)
  else if c / 2 ^ f.mb = 0 then .fin neg c f.qmin
  else .fin neg (c % 2 ^ f.mb + 2 ^ f.mb) (f.qmin + (c / 2 ^ f.mb : Nat) - 1)

/-- The sign bit of a code. -/
def FFmt.sign (f : FFmt) (neg : Bool) : Nat := if neg then 2 ^ (f.width - 1) else 0

/-- One rounding, ties to even; overflow gives an infinity, NaN the canonical NaN (R87, R102). -/
def FFmt.encode (f : FFmt) : FV → Nat
  | .nan => f.nan
  | .inf neg => f.sign neg + (f.maxCode + 1)
  | .fin neg m e => f.sign neg + min (roundMag f .even m e) (f.maxCode + 1)

/-- Sum of exact values (R102): the zero sum of unlike signs is +0. -/
def FV.add : FV → FV → FV
  | .nan, _ => .nan
  | _, .nan => .nan
  | .inf a, .inf b => if a == b then .inf a else .nan
  | .inf a, _ => .inf a
  | _, .inf b => .inf b
  | .fin na ma ea, .fin nb mb eb =>
    let e := min ea eb
    let a : Int := (ma * 2 ^ (ea - e).toNat : Nat)
    let b : Int := (mb * 2 ^ (eb - e).toNat : Nat)
    let s := (if na then -a else a) + (if nb then -b else b)
    .fin (if s = 0 then na && nb else decide (s < 0)) s.natAbs e

/-- Product of exact values (R102): 0 times an infinity is NaN. -/
def FV.mul : FV → FV → FV
  | .nan, _ => .nan
  | _, .nan => .nan
  | .inf a, .inf b => .inf (a != b)
  | .inf a, .fin nb mb _ => if mb = 0 then .nan else .inf (a != nb)
  | .fin na ma _, .inf b => if ma = 0 then .nan else .inf (na != b)
  | .fin na ma ea, .fin nb mb eb => .fin (na != nb) (ma * mb) (ea + eb)

def FV.neg : FV → FV
  | .nan => .nan
  | .inf a => .inf !a
  | .fin n m e => .fin (!n) m e

/-- A value scaled by a power of two. -/
def FV.scale (v : FV) (k : Int) : FV :=
  match v with
  | .fin n m e => .fin n m (e + k)
  | v => v

def FV.isNan : FV → Bool
  | .nan => true
  | _ => false

/-- Whether `m * 2^e < m' * 2^e'`. -/
def magLt (m : Nat) (e : Int) (m' : Nat) (e' : Int) : Bool :=
  let k := min e e'
  decide (m * 2 ^ (e - k).toNat < m' * 2 ^ (e' - k).toNat)

/-- The order of values that are not NaN, the two zeros equal. -/
def FV.lt : FV → FV → Bool
  | .nan, _ => false
  | _, .nan => false
  | .inf a, .inf b => a && !b
  | .inf a, .fin _ _ _ => a
  | .fin _ _ _, .inf b => !b
  | .fin na ma ea, .fin nb mb eb =>
    if ma = 0 && mb = 0 then false
    else if na != nb then na
    else if na then magLt mb eb ma ea else magLt ma ea mb eb

/-- Equality of values, the two zeros equal, a NaN equal to nothing. -/
def FV.eq (a b : FV) : Bool := !a.isNan && !b.isNan && !a.lt b && !b.lt a

def FV.isNeg : FV → Bool
  | .nan => false
  | .inf n => n
  | .fin n _ _ => n

/-- The smaller value; -0 below +0, NaN over everything (09 R202). -/
def FV.min (a b : FV) : FV :=
  if a.isNan || b.isNan then .nan
  else if a.lt b then a else if b.lt a then b else if a.isNeg then a else b

/-- The larger value (09 R202). -/
def FV.max (a b : FV) : FV :=
  if a.isNan || b.isNan then .nan
  else if a.lt b then b else if b.lt a then a else if a.isNeg then b else a

/-- FP32 value of a lane. -/
def f32v (x : BitVec 32) : FV := fp32.decode x.toNat

/-- Rounded to FP32. -/
def toF32 (v : FV) : BitVec 32 := BitVec.ofNat 32 (fp32.encode v)

/-- FP32 addition (R102). -/
def f32Add (a b : BitVec 32) : BitVec 32 := toF32 ((f32v a).add (f32v b))

/-- FP32 multiplication (R102). -/
def f32Mul (a b : BitVec 32) : BitVec 32 := toF32 ((f32v a).mul (f32v b))

/-- FP32 fused multiply-add: `a * b + c` with one rounding (R102). -/
def f32Fma (a b c : BitVec 32) : BitVec 32 := toF32 (((f32v a).mul (f32v b)).add (f32v c))

/-- Negation of an FP32 operand. -/
def f32Neg (a : BitVec 32) : BitVec 32 := toF32 (f32v a).neg

/-- BF16 value of the low half of a number. -/
def b16v (n : Nat) : FV := bf16.decode (n % 2 ^ 16)

/-! ### Conversion (R91-R94) -/

/-- Destination of a conversion: a floating format, or an integer or MXINT element. -/
inductive Dst where
  | flt (f : FFmt)
  | int (w : Nat) (sgn : Bool)
  deriving DecidableEq, Repr

/-- The format of a suffix; `none` only where no conversion names it. -/
def dstOf : Ty → Dst
  | .f32 => .flt fp32
  | .bf16 => .flt bf16
  | .e4m3 => .flt fe4m3
  | .e5m2 => .flt fe5m2
  | .s8 => .int 8 true
  | .s16 => .int 16 true
  | .s32 => .int 32 true
  | .n8 => .int 8 false
  | .n16 => .int 16 false
  | .n32 => .int 32 false
  | .mx4 => .int 4 true
  | .mx6 => .int 6 true
  | .mx8 => .int 8 true
  | .none => .int 32 false

/-- Width of an element in bits. -/
def tyBits : Ty → Nat
  | .s8 | .n8 | .e4m3 | .e5m2 | .mx8 => 8
  | .s16 | .n16 | .bf16 => 16
  | .mx4 => 4
  | .mx6 => 6
  | _ => 32

/-- The exact value of an element (R85, R86, R89). -/
def elemVal (ty : Ty) (bits : Nat) : FV :=
  match dstOf ty with
  | .flt f => f.decode bits
  | .int w true => let i := signed w bits; .fin (decide (i < 0)) i.natAbs 0
  | .int w false => .fin false (bits % 2 ^ w) 0

/-- Tie rule by destination width (R92). -/
def tieOf (width : Nat) : Tie := if width < 16 then .away else .even

/-- What a conversion gives: the element's bits, whether it saturated, and the FP32 code of its
pre-saturation magnitude, none for NaN. -/
structure Conv where
  out : Nat
  sat : Bool
  amax : Option Nat
  deriving DecidableEq, Repr

/-- Upper limit of the magnitude of an integer destination for a sign (R85, R89). -/
def intLimit (w : Nat) (sgn neg : Bool) : Nat :=
  if sgn then (if neg then 2 ^ (w - 1) else 2 ^ (w - 1) - 1) else if neg then 0 else 2 ^ w - 1

/-- An integer magnitude with its sign as `w` bits. -/
def intBits (w : Nat) (neg : Bool) (n : Nat) : Nat :=
  if neg then unsignedOf w (-(n : Int)) else n

/-- `m * 2^e` rounded to an integer. -/
def roundInt (t : Tie) (m : Nat) (e : Int) : Nat :=
  if 0 ≤ e then m * 2 ^ e.toNat else roundShift t m (-e).toNat

/-- The conversion of R91; `e` is none when the scale is NaN. -/
def convert (x : FV) (e : Option Int) (d : Dst) (ftz : Bool) : Conv :=
  let y := match e with
    | none => FV.nan
    | some k => x.scale k
  match y, d with
  | .nan, .flt f => ⟨f.nan, false, none⟩
  | .nan, .int _ _ => ⟨0, true, none⟩
  | .inf neg, .flt f => ⟨f.sign neg + f.maxCode, true, some (fp32.maxCode + 1)⟩
  | .inf neg, .int w sgn => ⟨intBits w neg (intLimit w sgn neg), true, some (fp32.maxCode + 1)⟩
  | .fin neg m k, .flt f =>
    let am := some (min (roundMag fp32 .up m k) (fp32.maxCode + 1))
    match f.decode f.maxCode with
    | .fin _ mm me =>
      if magLt mm me m k then ⟨f.sign neg + f.maxCode, true, am⟩
      else if ftz && m != 0 && magLt m k 1 (f.qmin + f.mb) then ⟨f.sign neg, false, am⟩
      else ⟨f.sign neg + roundMag f (tieOf f.width) m k, false, am⟩
    | _ => ⟨f.nan, false, am⟩
  | .fin neg m k, .int w sgn =>
    let am := some (min (roundMag fp32 .up m k) (fp32.maxCode + 1))
    let lim := intLimit w sgn neg
    if magLt lim 0 m k then ⟨intBits w neg lim, true, am⟩
    else ⟨intBits w neg (roundInt (tieOf w) m k), false, am⟩

/-- Saturations and largest magnitude of a list of conversions (R96). -/
def convSums (l : List Conv) : Nat × Nat :=
  l.foldl (fun a c => (a.1 + (if c.sat then 1 else 0), max a.2 (c.amax.getD 0))) (0, 0)

/-- The derived scale of a block, given its converted elements (R94). -/
def deriveScale (p : Nat) (xs : List FV) : Nat :=
  if xs.any FV.isNan then 0xFF
  else if xs.any (fun x => match x with | .inf _ => true | _ => false) then 254
  else
    let l := xs.filterMap fun x => match x with
      | .fin _ m e => if m = 0 then none else some (e + (Nat.log2 m : Int))
      | _ => none
    match l with
    | [] => 127
    | h :: t => (max 0 (min 254 (t.foldl max h - (p : Int) + 2 + 127))).toNat

/-! ### Transcendentals (R104-R108) -/

def tabAt (l : List Nat) (j : Nat) : BitVec 32 := BitVec.ofNat 32 (l.getD j 0)

/-- A positive finite value normalised: its 24-bit significand and the exponent of [1, 2). -/
def normal24 (m : Nat) (e : Int) : Nat × Int :=
  (if Nat.log2 m ≤ 23 then m * 2 ^ (23 - Nat.log2 m) else m / 2 ^ (Nat.log2 m - 23),
    e + Nat.log2 m)

/-- `vexp2` (R105). -/
def exp2 (x : BitVec 32) : BitVec 32 :=
  match f32v x with
  | .nan => toF32 .nan
  | .inf neg => toF32 (if neg then .fin false 0 0 else .inf false)
  | .fin neg m e =>
    if !neg && !magLt m e 128 0 then toF32 (.inf false)
    else if neg && magLt 150 0 m e then toF32 (.fin false 0 0)
    else
      let kn := roundInt .even m (e + 6)
      let k : Int := if neg then -kn else kn
      let r := toF32 ((FV.fin neg m e).add (.fin (!neg) kn (-6)))
      let q := k / 64
      let j := (k % 64).toNat
      let p := f32Mul (f32Fma (f32Fma exp2C3 r exp2C2) r exp2C1) r
      let t := tabAt exp2Table j
      toF32 ((f32v (f32Fma t p t)).scale q)

/-- `vlog2` (R106). -/
def log2 (x : BitVec 32) : BitVec 32 :=
  match f32v x with
  | .nan => toF32 .nan
  | .inf neg => toF32 (if neg then .nan else .inf false)
  | .fin neg m e =>
    if m = 0 then toF32 (.inf true)
    else if neg then toF32 .nan
    else
      let (sg, k) := normal24 m e
      let big := decide (3 * 2 ^ 22 ≤ sg)
      let v24 := if big then sg else 2 * sg
      let k := if big then k + 1 else k
      let j := (v24 - 3 * 2 ^ 22) / 2 ^ 17
      let mm := toF32 (.fin false v24 (-24))
      let r := f32Fma mm (tabAt log2RTable j) 0xBF80_0000#32
      let p := f32Fma (f32Fma (f32Fma log2B4 r log2B3) r log2B2) r log2B1
      let t := f32Fma p r (tabAt log2LTable j)
      f32Add (toF32 (.fin (decide (k < 0)) k.natAbs 0)) t

/-- `vrcp` (R107). -/
def rcp (x : BitVec 32) : BitVec 32 :=
  match f32v x with
  | .nan => toF32 .nan
  | .inf neg => toF32 (.fin neg 0 0)
  | .fin neg m e =>
    if m = 0 then toF32 (.inf neg)
    else
      let (sg, k) := normal24 m e
      let mm := toF32 (.fin false sg (-23))
      let y0 := tabAt rcpTable (sg / 2 ^ 16 % 128)
      let y1 := f32Fma y0 (f32Fma (f32Neg mm) y0 0x3F80_0000#32) y0
      let y2 := f32Fma y1 (f32Fma (f32Neg mm) y1 0x3F80_0000#32) y1
      let v := (f32v y2).scale (-k)
      toF32 (if neg then v.neg else v)

/-- `vrsq` (R108). -/
def rsq (x : BitVec 32) : BitVec 32 :=
  match f32v x with
  | .nan => toF32 .nan
  | .inf neg => toF32 (if neg then .nan else .fin false 0 0)
  | .fin neg m e =>
    if m = 0 then toF32 (.inf neg)
    else if neg then toF32 .nan
    else
      let (sg, k) := normal24 m e
      let odd := decide (k % 2 = 1)
      let mm := toF32 (.fin false sg (if odd then -22 else -23))
      let k := if odd then k - 1 else k
      let fr := sg / 2 ^ 17 % 64
      let y0 := tabAt rsqTable (if odd then 64 + fr else fr)
      let stp (y : BitVec 32) : BitVec 32 :=
        f32Fma (f32Mul y 0x3F00_0000#32) (f32Fma (f32Neg mm) (f32Mul y y) 0x3F80_0000#32) y
      toF32 ((f32v (stp (stp y0))).scale (-(k / 2)))

/-- FP32 widened from BF16, exact. -/
def widen (n : Nat) : BitVec 32 := toF32 (b16v n)

/-- FP32 rounded once more to BF16 (R104). -/
def narrow (x : BitVec 32) : Nat := bf16.encode (f32v x)

/-- An FP32 function on both halves of a packed BF16 lane (R104). -/
def onHalves (f : BitVec 32 → BitVec 32) (x : BitVec 32) : BitVec 32 :=
  BitVec.ofNat 32 (narrow (f (widen x.toNat)) + 2 ^ 16 * narrow (f (widen (x.toNat / 2 ^ 16))))

/-! ### Block sums (R98, R99) -/

/-- The contribution of an exact block sum under scale bytes (R98). -/
def blockInt (d : Int) (sa sb : Nat) : BitVec 32 :=
  if sa = 0xFF || sb = 0xFF then toF32 .nan
  else if d = 0 then 0
  else toF32 (.fin (decide (d < 0)) d.natAbs ((sa : Int) - 127 + ((sb : Int) - 127)))

/-- The contribution of a floating block: exact products, the 64-bit window, one rounding (R99). -/
def blockFloat (ps : List FV) (sa sb : Nat) : BitVec 32 :=
  let pinf := ps.any (· == .inf false)
  let ninf := ps.any (· == .inf true)
  if ps.any FV.isNan || (pinf && ninf) || sa = 0xFF || sb = 0xFF then toF32 .nan
  else if pinf then toF32 (.inf false)
  else if ninf then toF32 (.inf true)
  else
    let tops := ps.filterMap fun p => match p with
      | .fin _ m e => if m = 0 then none else some (e + (Nat.log2 m : Int))
      | _ => none
    match tops with
    | [] => 0
    | h :: t =>
      let w := t.foldl max h - 57
      let s : Int := ps.foldl (fun a p => match p with
        | .fin n m e =>
          let q : Int := (if w ≤ e then m * 2 ^ (e - w).toNat else m / 2 ^ (w - e).toNat : Nat)
          a + (if n then -q else q)
        | _ => a) 0
      if s = 0 then 0
      else toF32 (.fin (decide (s < 0)) s.natAbs (w + ((sa : Int) - 127) + ((sb : Int) - 127)))

end Sys2Proof.Machine
end

