-- ==== Sys2Proof/Config.lean ====
section
/-! DEFINITION. What one implementation fixes, and the free values: constants without a body that
stand for what the spec leaves open. Nothing in Lean can prove which value one of them has. -/

namespace Sys2Proof.Config

/-- FREE VALUE (assumption 4): which of the enabled variable-latency events comes next
(01 R25, 04 R115, R120). Applied to the counter `State.free`. -/
opaque choice : Nat → Nat

/-- FREE VALUE (assumption 8): the tag that the fetcher writes into a staging tile (10 R240). -/
opaque stagingTag : Nat → BitVec 32

/-- FREE VALUE (assumption 9): a byte of the stepping-specific records of LANDSET (22 R407),
by a count of bytes that runs on from save to save. -/
opaque landsetByte : Nat → Byte

/-- FREE VALUE (assumption 5): whether an Ed25519 signature over a message verifies under a public
key (23 R420, R423, 19 R370). -/
opaque verifyEd25519 : List Byte → List Byte → List Byte → Bool

/-- FREE VALUE (assumption 5): whether an ML-DSA-65 signature over a message verifies under a public
key. -/
opaque verifyMlDsa : List Byte → List Byte → List Byte → Bool

/-- FREE VALUE (assumption 5): the Ed25519 part of a signature made with the alias keys, which the ROM
derives from the device secret and MR0 (23 R424): byte `i` of the signature of a message under MR0. -/
opaque signEd25519 : BitVec 384 → List Byte → Nat → Byte

/-- FREE VALUE (assumption 5): the ML-DSA-65 part of such a signature. -/
opaque signMlDsa : BitVec 384 → List Byte → Nat → Byte

/-- FREE VALUE (assumption 5): byte `i` of the identity certificate, fixed at manufacture (23 R424). -/
opaque identityByte : Nat → Byte

/-- FREE VALUE (assumption 5): byte `i` of the alias certificate under MR0 (23 R424). -/
opaque aliasByte : BitVec 384 → Nat → Byte

/-- FREE VALUE (assumption 5): Nyonpa's signing keys in the ROM (23 R420): Ed25519 (32 bytes), then
ML-DSA-65 (1,952 bytes). -/
opaque romKeyByte : Nat → Byte

/-- Stepping ID of the part (19 R369, 22 R407, 23 R425): fixed by the implementation, no value given. -/
opaque stepping : BitVec 32

/-- DEVID of the module (23 R425): fixed at manufacture, no value given. -/
opaque devid : BitVec 128

/-- FREE VALUE (assumption 10): digest of the memory population measured into MR3 (23 R418), whose
format the spec does not give. -/
opaque populationDigest : BitVec 384

/-- FREE VALUE (assumption 10): the SHA-384 digest of a trust store (23 R425, R418), whose byte format the spec does
not give; the argument is the store's keys in slot order and its counter. -/
opaque storeDigest : List (List Byte) → Word → BitVec 384

/-- FREE VALUE (assumption 12): whether the integrity digest of the trust store in flash holds at a
boot (23 R420). -/
opaque storeIntact : Nat → Bool

/-- FREE VALUE (assumption 15): the fields of a firmware image's header, whose places the spec does not
give (23 R420): BODYHASH. -/
opaque imageBodyHash : List Byte → BitVec 384

/-- FREE VALUE (assumption 15): SVN of a firmware image's header. -/
opaque imageSvn : List Byte → BitVec 16

/-- FREE VALUE (assumption 15): ADVANCE of a firmware image's header. -/
opaque imageAdvance : List Byte → Bool

/-- FREE VALUE (assumption 15): SIG1 of a firmware image. -/
opaque imageSig1 : List Byte → List Byte

/-- FREE VALUE (assumption 15): SIG2 of a firmware image. -/
opaque imageSig2 : List Byte → List Byte

/-- FREE VALUE (assumption 16): whether a brick answers in stage 1 of a boot, by boot count and brick (23 R418). -/
opaque brickAnswers : Nat → Nat → Bool

/-- FREE VALUE (assumption 16): whether the check pass of a quarter's scrub holds in stage 2 of a boot, by boot count,
brick and quarter (23 R418, 22 R416). -/
opaque scrubPasses : Nat → Nat → Nat → Bool

/-- Installed DDR-5 per brick in bytes: 512 GiB, the most that 00 R2 allows. DESIGN CHOICE
(assumption 11). -/
def ddrBytes : Nat := 0x80_0000_0000

end Sys2Proof.Config
end

