-- ==== Sys2Proof/Machine/Sha.lean ====
section
/-! DEFINITION. SHA-384, which the spec names and does not define (assumption 6: FIPS 180-4), over
lists of bytes (19 R369, 23 R419, R426). -/

namespace Sys2Proof.Machine

/-- The first 40 round constants. -/
def shaK0 : List Nat :=
  [0x428A2F98D728AE22, 0x7137449123EF65CD, 0xB5C0FBCFEC4D3B2F, 0xE9B5DBA58189DBBC,
   0x3956C25BF348B538, 0x59F111F1B605D019, 0x923F82A4AF194F9B, 0xAB1C5ED5DA6D8118,
   0xD807AA98A3030242, 0x12835B0145706FBE, 0x243185BE4EE4B28C, 0x550C7DC3D5FFB4E2,
   0x72BE5D74F27B896F, 0x80DEB1FE3B1696B1, 0x9BDC06A725C71235, 0xC19BF174CF692694,
   0xE49B69C19EF14AD2, 0xEFBE4786384F25E3, 0x0FC19DC68B8CD5B5, 0x240CA1CC77AC9C65,
   0x2DE92C6F592B0275, 0x4A7484AA6EA6E483, 0x5CB0A9DCBD41FBD4, 0x76F988DA831153B5,
   0x983E5152EE66DFAB, 0xA831C66D2DB43210, 0xB00327C898FB213F, 0xBF597FC7BEEF0EE4,
   0xC6E00BF33DA88FC2, 0xD5A79147930AA725, 0x06CA6351E003826F, 0x142929670A0E6E70,
   0x27B70A8546D22FFC, 0x2E1B21385C26C926, 0x4D2C6DFC5AC42AED, 0x53380D139D95B3DF,
   0x650A73548BAF63DE, 0x766A0ABB3C77B2A8, 0x81C2C92E47EDAEE6, 0x92722C851482353B]

/-- The last 40 round constants. -/
def shaK1 : List Nat :=
  [0xA2BFE8A14CF10364, 0xA81A664BBC423001, 0xC24B8B70D0F89791, 0xC76C51A30654BE30,
   0xD192E819D6EF5218, 0xD69906245565A910, 0xF40E35855771202A, 0x106AA07032BBD1B8,
   0x19A4C116B8D2D0C8, 0x1E376C085141AB53, 0x2748774CDF8EEB99, 0x34B0BCB5E19B48A8,
   0x391C0CB3C5C95A63, 0x4ED8AA4AE3418ACB, 0x5B9CCA4F7763E373, 0x682E6FF3D6B2B8A3,
   0x748F82EE5DEFB2FC, 0x78A5636F43172F60, 0x84C87814A1F0AB72, 0x8CC702081A6439EC,
   0x90BEFFFA23631E28, 0xA4506CEBDE82BDE9, 0xBEF9A3F7B2C67915, 0xC67178F2E372532B,
   0xCA273ECEEA26619C, 0xD186B8C721C0C207, 0xEADA7DD6CDE0EB1E, 0xF57D4F7FEE6ED178,
   0x06F067AA72176FBA, 0x0A637DC5A2C898A6, 0x113F9804BEF90DAE, 0x1B710B35131C471B,
   0x28DB77F523047D84, 0x32CAAB7B40C72493, 0x3C9EBE0A15C9BEBC, 0x431D67C49C100D4C,
   0x4CC5D4BECB3E42B6, 0x597F299CFC657E2A, 0x5FCB6FAB3AD6FAEC, 0x6C44198C4A475817]

/-- The initial hash value of SHA-384. -/
def shaInit : List Nat :=
  [0xCBBB9D5DC1059ED8, 0x629A292A367CD507, 0x9159015A3070DD17, 0x152FECD8F70E5939,
   0x67332667FFC00B31, 0x8EB44A8768581511, 0xDB0C2E0D64F98FA7, 0x47B5481DBEFA4FA4]

def rotr (n x : Nat) : Nat := (x / 2 ^ n + x * 2 ^ (64 - n)) % 2 ^ 64

/-- The schedule extended by `n` words, newest first. -/
def shaExpand : Nat → List Nat → List Nat
  | 0, w => w
  | n + 1, w =>
    let a := w.getD 1 0
    let b := w.getD 14 0
    let s1 := rotr 19 a ^^^ rotr 61 a ^^^ (a / 2 ^ 6)
    let s0 := rotr 1 b ^^^ rotr 8 b ^^^ (b / 2 ^ 7)
    shaExpand n (((s1 + w.getD 6 0 + s0 + w.getD 15 0) % 2 ^ 64) :: w)

/-- One round on the eight working variables. -/
def shaRound (h : List Nat) (kw : Nat) : List Nat :=
  match h with
  | [a, b, c, d, e, f, g, x] =>
    let s1 := rotr 14 e ^^^ rotr 18 e ^^^ rotr 41 e
    let ch := (e &&& f) ^^^ ((2 ^ 64 - 1 - e) &&& g)
    let t1 := x + s1 + ch + kw
    let s0 := rotr 28 a ^^^ rotr 34 a ^^^ rotr 39 a
    let mj := (a &&& b) ^^^ (a &&& c) ^^^ (b &&& c)
    [(t1 + s0 + mj) % 2 ^ 64, a, b, c, (d + t1) % 2 ^ 64, e, f, g]
  | h => h

/-- The rounds of one block. -/
def shaRounds : List Nat → List Nat → List Nat → List Nat
  | k :: ks, w :: ws, h => shaRounds ks ws (shaRound h (k + w))
  | _, _, h => h

/-- Big-endian number of bytes. -/
def beNat (l : List Byte) : Nat := l.foldl (fun a b => a * 256 + b.toNat) 0

/-- The words of `n` runs of eight bytes, newest first over `acc`. -/
def shaWords : Nat → List Byte → List Nat → List Nat
  | 0, _, acc => acc
  | n + 1, l, acc => shaWords n (l.drop 8) (beNat (l.take 8) :: acc)

def shaBlock (h : List Nat) (blk : List Byte) : List Nat :=
  let w := (shaExpand 64 (shaWords 16 blk [])).reverse
  List.zipWith (fun a b => (a + b) % 2 ^ 64) h (shaRounds (shaK0 ++ shaK1) w h)

/-- `n` blocks of 128 bytes. -/
def shaBlocks : Nat → List Byte → List Nat → List Nat
  | 0, _, h => h
  | n + 1, l, h => shaBlocks n (l.drop 128) (shaBlock h (l.take 128))

/-- SHA-384 as a list of 48 bytes. -/
def sha384Bytes (m : List Byte) : List Byte :=
  let n := m.length
  let blocks := cdiv (n + 17) 128
  let pad := m ++ (0x80#8 :: List.replicate (blocks * 128 - n - 17) 0) ++ (toBytes 16 (8 * n)).reverse
  ((shaBlocks blocks pad shaInit).take 6).flatMap fun w => (toBytes 8 w).reverse

/-- SHA-384 held in a 48-byte register, byte 0 least significant (00 R6). -/
def sha384 (m : List Byte) : BitVec 384 := BitVec.ofNat 384 (ofBytes (sha384Bytes m))

/-- The bytes of a 48-byte register. -/
def mrBytes (r : BitVec 384) : List Byte := toBytes 48 r.toNat

end Sys2Proof.Machine
end

