-- ==== Sys2Proof/Machine/State.lean ====
section
/-! DEFINITION. The state of the module as plain data: eight bricks of four seats, global memory, the
registers of the stewards, the host port and the root of trust (INVENTORY.md, ## State). -/

namespace Sys2Proof.Machine

/-- State of a completion token (13 R289). -/
inductive Token where
  | free
  | outstanding
  | good
  | error (cause : BitVec 8)
  deriving DecidableEq, Repr

/-- A table register with its metadata and build copy (11 R250, R266, R267): entry `t` in bits
`[16t+15:16t]` of `entries`; `copy` holds bytes 48 to 52 of its spill record. -/
structure Table where
  entries : BitVec 256
  meta0 : Word
  meta1 : Word
  copy : BitVec 40
  deriving DecidableEq, Repr

/-- An element of a differentiable region that an access covers (12 R274, R281): its address, region,
element width, cell address and the two formats. -/
structure Elem where
  addr : Nat
  region : Nat
  width : Nat
  cell : Nat
  abf16 : Bool
  deriving DecidableEq, Repr

/-- One covered element of a reverse-mode store (08 R195, 09 R220): the element, whether the access is
whole for it, and where its adjoint goes: bit `shift` of lane `lane` of the destination register. -/
structure RevElem where
  elem : Elem
  whole : Bool
  lane : Nat
  shift : Nat
  deriving DecidableEq, Repr

/-- The addresses of the lanes of an access: contiguous from a base, or one per lane (09 R211, R215). -/
inductive LaneAddrs where
  | contig (base : Nat)
  | indexed (base : Nat) (index : VReg)
  deriving DecidableEq, Repr

/-- A register that a reverse-mode store writes: none for a narrow access (08 R195, 09 R220). -/
inductive RevDest where
  | x (d : Fin 32)
  | v (d : Nat) (mask : PReg)
  deriving DecidableEq, Repr

/-- An adjoint accumulation (12 R280): cell, cell format, element format and the value's bits. -/
structure Accum where
  cell : Nat
  abf16 : Bool
  pbf16 : Bool
  value : BitVec 32
  deriving DecidableEq, Repr

/-- A contribution to one accumulator position (03 R98-R100): FP32 bits, or an exact integer with the
counter that its clipping uses. `init` resets the position first (10 R231, 11 R260). -/
inductive ContribVal where
  | fp (bits : BitVec 32)
  | int (d : Int) (counter : Fin 16)
  deriving DecidableEq, Repr

/-- One position's contribution of one block. -/
structure Contrib where
  bank : Nat
  elem : Nat
  init : Bool
  val : ContribVal
  deriving DecidableEq, Repr

/-- A contribution that has been added while an earlier-issued command into the accumulator was still to make its own:
the element as it stood before it, so that the order of issue can be kept (03 R100). -/
structure LateSum where
  issue : Nat
  base : BitVec 32
  x : Contrib
  deriving DecidableEq, Repr

/-- The effects that an issued operation still has to make (18 R344). -/
inductive Eff where
  | xw (r : Fin 32) (v : Word)
  | vw (r : Nat) (mask : PReg) (v : VReg)
  | pw (r : Nat) (mask : PReg) (v : PReg)
  | sw (r : Fin 16) (v : BitVec 192)
  | cnt (c : Fin 16) (count : Nat) (amax : BitVec 32)
  | csr (n : BitVec 12) (v : Word)
  /-- a `csrr` of GBC or SLIP, evaluated in the cycle in which its bundle takes its beat (01 R28) -/
  | csrTime (d : Fin 32) (n : BitVec 12)
  | setMode (m : Mode)
  | setRegion (n : Fin 16) (v : BitVec 128)
  | rotate
  | setLc (v : BitVec 32)
  | ldx (d : Fin 32) (addr width : Nat) (signed : Bool)
  | ldv (d : Nat) (mask : PReg) (la : LaneAddrs) (width : Nat) (signed : Bool) (land : Nat)
  | store (bytes : List (Nat × Byte)) (push : List Elem)
  | revStore (elems : List RevElem) (bytes : List (Nat × Byte)) (dest : Option RevDest) (land : Nat)
  | accum (l : List Accum)
  | atom (mask : PReg) (la : LaneAddrs) (ty : Ty) (op : AtomOp) (operand : VReg) (dest : Option Nat)
  | markPush (imm : BitVec 16)
  | markPop (imm : BitVec 16)
  | zeroBanks (first n : Nat)
  | freeBanks (first n : Nat)
  | readBank (d : Nat) (bank : Nat) (clr : Bool)
  | writeBack (cmd : Nat)
  | mxStep (cmd : Nat) (step : Nat)
  | lookStep (cmd : Nat) (step : Nat)
  | contribs (l : List Contrib)
  | buildStep (cmd : Nat) (step : Nat)
  | spillStep (cmd : Nat) (step : Nat)
  | fillStep (cmd : Nat) (step : Nat)
  | fillCheck (cmd : Nat) (step : Nat) (records : List (Nat × BitVec 512))
  | prepTables (first n : Nat) (gen : Option (BitVec 16))
  | invTables (first n : Nat)
  deriving DecidableEq, Repr

/-- An effect with the beat at which it lands or performs, and the beat, slot and bundle of issue. -/
structure Timed where
  due : Nat
  issue : Nat
  slot : Nat
  addr : BitVec 21
  eff : Eff
  deriving DecidableEq, Repr

/-- A landing-set entry: issue beat, slot, and the last beat E at which it is held (18 R346). -/
structure Entry where
  issue : Nat
  slot : Nat
  last : Nat
  /-- the copy operation waiting out its defer, when the entry is one of those (05 R139) -/
  copy : Option Nat
  deriving DecidableEq, Repr

/-- Kinds of engine commands (10, 11). -/
inductive CmdKind where
  | mxmm | acvt | ltbuild | ltlook | ltspill | ltfill
  deriving DecidableEq, Repr

/-- An engine command in flight with what it copied at issue (10 R231, 11 R259). -/
structure Cmd where
  id : Nat
  kind : CmdKind
  issue : Nat
  start : Nat
  steps : Nat
  complete : Nat
  p : BitVec 192
  q : BitVec 192
  pnum : Nat
  qnum : Nat
  bank : Nat
  t0 : Nat
  int : Bool
  init : Bool
  ftz : Bool
  wb : WBits
  scale : AcvtScale
  useSq : Bool
  sc : Fin 16
  sq : BitVec 2048
  scales : List VReg
  gen : BitVec 16
  /-- elements of a block that straddles two steps, keyed by side, line and position (10 R232) -/
  buf : List (Nat × BitVec 32)
  /-- bytes of global streams that have been staged, keyed by side and address (10 R238) -/
  staged : List (Nat × Byte)
  /-- steps staged so far, for stream P and stream Q -/
  stagedP : Nat
  stagedQ : Nat
  /-- a step marked failed, with the virtual address (10 R239) -/
  failed : Option (Nat × BitVec 52)
  deriving DecidableEq, Repr

/-- A table that the table unit has read and not yet landed (11 R254, R268). -/
structure PendTable where
  due : Nat
  reg : Nat
  table : Table
  spoiled : Bool
  deriving DecidableEq, Repr

/-- Kinds of slot-7 operations that complete a token (13). -/
inductive OpKind where
  | cpld | cpst | cpfill | cpga | cpsc | cpsq | cpat | fence | xsend | xcc | xat | xbar
  deriving DecidableEq, Repr

/-- A copy, fence or exchange operation that has issued and not completed (13 R289-R309). -/
structure Op where
  id : Nat
  kind : OpKind
  token : Fin 32
  /-- the operand values: A, B and C of a copy; the source and destination words of an exchange -/
  a : Word
  b : Word
  c : Word
  fn : Nat
  ety : Ty
  dim : Nat
  pdim : Nat
  mask : BitVec 12
  startBeat : Nat
  started : Bool
  startCycle : Word
  asgen : Word
  /-- global spans performed at their homes, or granules sent -/
  performed : List Nat
  /-- spans rejected or not served, with their causes (05 R133) -/
  errs : List (Nat × BitVec 8)
  /-- granules fetched and waiting to be applied; an xcc's own granules as read to send -/
  data : List (Nat × BitVec 512)
  /-- landing granules applied to scratchpad -/
  landed : List Nat
  /-- address-list entries read so far (13 R296) -/
  rows : List (Nat × Word)
  /-- operations that a fence or an xbar covers and that have not completed (04 R122, 13 R308) -/
  covers : List Nat
  coveredError : Bool
  /-- the completion notice of an exchange has been sent -/
  doneSent : Bool
  /-- whether the completion notice of the partner's own `xcc` has been taken (13 R305) -/
  partnerDone : Bool
  /-- the token has completed, while an `xcc` still receives its partner's granules -/
  tokenDone : Bool
  /-- barrier flits sent and received, per position in the mask (13 R308) -/
  barSent : Nat
  barStep : Nat
  barGot : List Nat
  /-- GBC count of the last granule applied (04 R114) -/
  lastCycle : Word
  /-- order of issue across the contexts of a brick, and against those of its partners (04 R113, R126): GBC
  count, then brick cycle, of the issue -/
  issuedAt : Nat
  /-- granules of an exchange applied at the partner, or elements performed there (04 R128) -/
  delivered : List Nat
  /-- an uncorrectable error has spoiled the exchange: its token has completed in error, and it stays until its
  traffic is through (13 R303, R305) -/
  spoiled : Bool
  deriving DecidableEq, Repr

/-- A granule of a remote atomic that waits for phase 3 of a beat (04 R117): where it goes, what it does, and
the sender's operation. -/
structure RemoteAtom where
  addr : Nat
  op : AtomOp
  ty : Ty
  vals : List (BitVec 32)
  dim : Fin 12
  id : Nat
  deriving DecidableEq, Repr

/-- Class of a freeze (01 R31) for its budget and the telemetry (25 R449). -/
inductive FreezeKind where
  | token | arrival
  deriving DecidableEq, Repr

/-- Where the issue of a context stands within its beat (01 R23). -/
inductive Phase where
  | entry
  /-- a split bundle that resumes at slot k (05 R137) -/
  | split (k : Fin 8)
  | issuing (k : Fin 8)
  | beatDue
  deriving DecidableEq, Repr

/-- What a seat's context is doing (01 R31, R41, R45, 05 R130-R142, 22 R403). -/
inductive Run where
  | empty
  | armed (committed : Bool)
  | running
  | service (since : Word)
  | stopped
  /-- draining for a save since a count; `trap` is the count since which a trap has been in service -/
  | saving (heavy : Bool) (since : Word) (trap : Option Word)
  /-- stopped after a heavy save in trap service, with the counts that the service had lasted (01 R31) -/
  | saved (spent : Word)
  | restored
  /-- released at a count; what it has started drains before the scrub (22 R416) -/
  | released (since : Word)
  | ended
  | killed
  deriving DecidableEq, Repr

/-- A beat-boundary trap that waits to be taken (05 R140): code and TINFO. -/
structure PendTrap where
  code : Nat
  info : Word
  deriving DecidableEq, Repr

/-- A brick task's context: everything of INVENTORY.md's context part. -/
structure Context where
  run : Run
  phase : Phase
  kernel : Nat
  -- placement and timing registers
  crd : Word
  scmask : Word
  dimmap : Word
  seatf : Word
  asgen : Word
  gbcs : Word
  cbc : Nat
  slipOffset : Word
  fbud : BitVec 32
  qcnt : BitVec 32
  qi : BitVec 32
  qiCount : Nat
  -- register files, by physical number
  x : Vector Word 32
  v : Vector VReg 64
  p : Vector PReg 16
  s : Vector (BitVec 192) 16
  tok : Vector Token 32
  count : Vector (BitVec 48) 16
  amax : Vector (BitVec 32) 16
  limit : Vector (BitVec 48) 16
  scst : BitVec 16
  ag : Vector (BitVec 128) 16
  dmode : Mode
  tapeb : BitVec 27
  tapel : BitVec 27
  tapec : BitVec 27
  tapes : BitVec 32
  tapesa : BitVec 52
  sp : Nat
  tables : List (Nat × Table)
  ltgen : BitVec 16
  banks : List (Nat × VReg)
  held : List (Nat × Nat)
  sq : List (BitVec 2048)
  rrb : BitVec 5
  lc : BitVec 32
  wcol : Bool
  redir0 : Option (BitVec 64)
  redir1 : Option (BitVec 64)
  pc : Nat
  pin : Option (Nat × Nat)
  srw : BitVec 4
  tstat : Word
  taddr : BitVec 21
  tbeat : Word
  tinfo : Word
  tibeat : Word
  pending : List PendTrap
  -- storage
  spad : List Host.Cell
  tiles : List Nat
  tags : List (Nat × BitVec 32)
  imem : List Host.Cell
  streams : List (BitVec 192)
  regions : List (Option (BitVec 128))
  nhash : BitVec 384
  -- operations in flight
  timed : List Timed
  lset : List Entry
  cmds : List Cmd
  pendTables : List PendTable
  /-- contributions that came before those of an earlier-issued command that is in flight (03 R100) -/
  late : List LateSum
  ops : List Op
  /-- number of the next engine command, copy or exchange -/
  nextId : Nat
  mxFree : Nat
  wbFree : Nat
  lookFree : Nat
  tabFree : Nat
  -- the bundle being issued
  idleLeft : Nat
  takenTo : Option (BitVec 64)
  halting : Bool
  beatThisCycle : Bool
  phase2 : List (Nat × Nat × BitVec 512)
  phase3 : List RemoteAtom
  /-- by landing tile, the brick cycle in which a completion last set its tag, and the issue of its operation (02 R84)
  -/
  tagBy : List (Nat × (Nat × Nat))
  /-- the command that slot 6 of the bundle at entry is about to issue with its first step at this beat: what the
  fetcher has staged for it (05 R135, 10 R238) -/
  pre : Option Cmd
  frozenSince : Option (Word × FreezeKind)
  serviced : Option (Nat × Nat × Nat × Nat)
  /-- firmware has performed the service that the trap needs (05 R137, R138) -/
  svcDone : Bool
  -- what the report needs
  unconsumed : BitVec 32
  outAtKill : BitVec 32
  discarded : Nat
  crossed : BitVec 16
  /-- a restored context: its saved SLIP, and the counts that the service of its trap had lasted, if it has one to be
  serviced (22 R408) -/
  restoring : Option (Word × Option Word)
  /-- the common resume count of the restore from which the context runs, if it has been restored (22 R408) -/
  resumedAt : Option Word
  /-- the counts of the service of its trap that another seat's freeze record holds already (25 R449) -/
  svcCounted : Word
  /-- the count at which the context stopped before its Q bundle (22 R403) -/
  stopGbc : Word
  /-- SLIP as it stood at the Q bundle or the faulting bundle before which the context stands (01 R55) -/
  slipHeld : Word
  /-- a save record of the context as it stands exists (22 R404) -/
  recorded : Bool
  deriving DecidableEq, Repr

/-- Steward registers of one seat, with its context (21 R398, 22 R403). -/
structure Seat where
  ctx : Context
  armedReg : Bool
  runReg : Bool
  cause : BitVec 4
  committed : Bool
  preTarget : BitVec 32
  preEn : Bool
  area : BitVec 52
  busy : Bool
  done : Bool
  err : BitVec 4
  /-- the drain of the save that runs has ended within its budget (22 R404) -/
  captured : Bool
  /-- the next access to the save area meets an uncorrectable error (22 R406) -/
  areaErr : Bool
  /-- a COMMIT of the chief steward has come to the brick for this seat (21 R398) -/
  commitIn : Bool
  /-- the save area of the command that runs: AREA as the command gave it (22 R403, R404) -/
  saveTo : BitVec 52
  /-- the save that runs is made again of a context that is saved: the counts that its service had lasted (22 R406) -/
  resaved : Option Word
  /-- the stopped context of the seat may resume once the brick's seat table is corrected (01 R39) -/
  resumeOwed : Bool
  /-- the quarters that the seat's context has been armed or restored in, or that the last one had (22 R415) -/
  share : List Nat
  deriving DecidableEq, Repr

/-- State of a link (24 R434). -/
inductive LinkState where
  | absent | down | training | up | failed | detour
  deriving DecidableEq, Repr

/-- A mortar link of one brick and dimension (24 R433-R441). -/
structure Link where
  state : LinkState
  why : BitVec 4
  peer : BitVec 12
  crcErr : BitVec 32
  replays : BitVec 32
  relayDim : BitVec 4
  active : Bool
  /-- the relay dimension of the last detour: RELAYDIM as it stood at GO (24 R439); 15 before any -/
  via : BitVec 4
  closing : Bool
  downing : Option Word
  trainSince : Word
  txSeq : BitVec 32
  rxSeq : BitVec 32
  unacked : List Flit
  /-- by sequence number, how often an unacknowledged flit has been replayed (24 R437) -/
  replayed : List (BitVec 32 × Nat)
  /-- the far end has asked for a replay (24 R436) -/
  askReplay : Bool
  wire : List Flit
  /-- acknowledgements on their way to the far end: the sequence number expected next (24 R436) -/
  acks : List (BitVec 32)
  held : List Payload
  rx : List Payload
  lastRx : Word
  lastTx : Word
  roundTrip : Nat
  deriving DecidableEq, Repr

/-- A TLB entry (22 R412). -/
structure TlbEntry where
  asid : BitVec 16
  gen : BitVec 16
  va : Nat
  size : Nat
  pa : Nat
  rd : Bool
  wr : Bool
  deriving DecidableEq, Repr

/-- State of a quarter of a brick's capacities (22 R415). -/
inductive Quarter where
  | dirty | busy | clean | failed
  deriving DecidableEq, Repr

/-- A relay entry (24 R439). -/
structure Relay where
  dest : BitVec 12
  out : BitVec 4
  en : Bool
  deriving DecidableEq, Repr

/-- One count of a telemetry record: record ID, sub-selection, index and value (25 R449). -/
structure TelCount where
  id : Nat
  sub : Nat
  idx : Nat
  value : Nat
  deriving DecidableEq, Repr

/-- A brick: seats, seat table, counters, translation, links, steward registers. -/
structure Brick where
  inService : Bool
  /-- the steward cores have been released from reset (23 R418) -/
  steward : Bool
  seats : Vector Seat 4
  gbc : Word
  bcyc : Word
  clock : Nat
  clockAcc : Nat
  /-- the count since which the brick has held its own clock low (25 R446) -/
  throttle : Option Word
  /-- counts that the brick has held its clock low since power-up, as far as they have been reckoned (25 R449) -/
  throttled : Nat
  cycleNow : Bool
  slew : Int
  seattab : BitVec 256
  staged : BitVec 256
  seatBad : Bool
  seatWhy : BitVec 2
  /-- the last table applied was refused for its spacing, and no other has been applied since (01 R39) -/
  tableBad : Bool
  quarters : Vector Quarter 4
  tlb : List TlbEntry
  tlbinv : Word
  tlbcnt : BitVec 32
  /-- TLBINV and TLBCNT of the invalidations that run -/
  tlbPending : List (Word × BitVec 32)
  tlbDone : Bool
  genadvAsid : BitVec 16
  genBusy : Bool
  /-- the generation that the advance that runs makes current -/
  genNext : BitVec 16
  genDone : Bool
  genOut : BitVec 16
  gens : List (Nat × BitVec 16)
  mrext : Vector Word 6
  logtype : BitVec 16
  logpay : Vector Word 12
  logDone : Bool
  logRefused : Bool
  links : Vector Link 12
  lock : Bool
  lost : Bool
  offset : BitVec 8
  lastSync : Word
  /-- dimensions over which a sync flit is due (24 R438) -/
  syncOwed : List Nat
  rly : Vector Relay 16
  telDelta : List TelCount
  /-- GBC count of the last delta (25 R450) -/
  lastDelta : Word
  temperature : Int
  /-- steward interrupts of links that failed, by dimension (24 R434) -/
  linkIrq : List Nat
  deriving DecidableEq, Repr

/-- A launch queue's registers and allocation (21 R389, R390, 25 R443). -/
structure Queue where
  log2n : BitVec 4
  en : Bool
  ien : Bool
  asid : BitVec 16
  lbase : BitVec 52
  cbase : BitVec 52
  tail : BitVec 16
  headIx : BitVec 16
  ctail : BitVec 16
  chead : BitVec 16
  badTail : Bool
  badChead : Bool
  waiting : Bool
  alloc : Word
  window : Nat
  /-- pending records, from HEAD on, that were pending when the generation advanced (21 R402) -/
  stale : Nat
  /-- by COORD, the TIBEAT of the tasks of the queue's last report, for which its layout has no place (05 R146, 21 R400,
  assumption 20) -/
  tibeats : List (Nat × Word)
  deriving DecidableEq, Repr

/-- How a task ended (21 R400). -/
inductive TaskEnd where
  | halted | killed | sibling | stall | machineCheck
  deriving DecidableEq, Repr

/-- What the loader takes from a kernel image (20 R376-R381). -/
structure Image where
  name : List Byte
  entry : Nat
  qi : Nat
  frac : Nat
  nparam : Nat
  ndim : Nat
  text : List Byte
  streams : List (BitVec 192)
  regions : List (Option (BitVec 128))
  tiles : List Nat
  data : List (Nat × List Byte)
  nhash : BitVec 384
  /-- the certificate, and the digest of the sections that THASH covers, for the loads after the first (19 R369, R370)
  -/
  cert : List Byte
  thash : BitVec 384
  deriving DecidableEq, Repr

/-- A kernel that has been launched and has not completed (21 R393-R400). -/
structure Kernel where
  id : Nat
  queue : Fin 64
  seq : BitVec 16
  tag : Word
  asid : BitVec 16
  report : Nat
  reportLen : Nat
  satAbort : Bool
  ndim : Nat
  pfree : BitVec 12
  pbase : BitVec 12
  gbcs : Word
  image : Image
  /-- the seat of each task, by COORD: brick number and seat -/
  seats : List (Fin 8 × Fin 4)
  firstKill : Option (BitVec 8 × BitVec 12)
  reports : List (Nat × List Byte)
  /-- TIBEAT of each task that has reported, by COORD (05 R146) -/
  tibeats : List (Nat × Word)
  /-- tokens with unconsumed errors that contexts held at their release, by COORD (22 R417) -/
  relErrs : List (Nat × BitVec 32)
  /-- records of the tasks whose saved contexts have been released, by COORD (22 R409, 21 R400) -/
  relRecs : List (Nat × List Byte)
  /-- the count at which the last task ended (01 R44) -/
  endGbc : Option Word
  /-- place in the order in which kernels have ended; 0 while it has not (21 R399) -/
  endPos : Nat
  /-- the chief steward has sent its commits (21 R398) -/
  commitSent : Bool
  /-- its address space's generation has advanced past a saved context of it: it never runs again and posts nothing
  (22 R455) -/
  lapsed : Bool
  deriving DecidableEq, Repr

/-- Power states (25 R445); Idle is Run with nothing running, so it needs no constructor. -/
inductive Power where
  | off | on | standby
  deriving DecidableEq, Repr

/-- A key pair of the trust store (23 R422). -/
structure Key where
  ed : List Byte
  ml : List Byte
  deriving DecidableEq, Repr

/-- A seal record (23 R429). -/
structure Seal where
  seq : Nat
  hash : BitVec 384
  sig : List Byte
  deriving DecidableEq, Repr

/-- What one step can fetch: the seat whose bundle is being issued. -/
structure Cursor where
  brick : Fin 8
  seat : Fin 4
  deriving DecidableEq, Repr

/-- A saved landing set: what the opaque records of a heavy save stand for (assumption 9). -/
structure SavedSet where
  /-- the LANDSET section of the record -/
  bytes : List Byte
  timed : List Timed
  lset : List Entry
  cmds : List Cmd
  pendTables : List PendTable
  pending : List PendTrap
  phase : Phase
  run : Run
  halting : Bool
  takenTo : Option (BitVec 64)
  idleLeft : Nat
  free : List Nat
  ops : List Op
  late : List LateSum
  /-- the counters whose crossing is in service, and whether the service is done (21 R400, 22 R417) -/
  crossed : BitVec 16
  svcDone : Bool
  serviced : Option (Nat × Nat × Nat × Nat)
  /-- the numbers of the `cpsq` operations that the record holds in SQHELD -/
  held : List Nat
  deriving DecidableEq, Repr

end Sys2Proof.Machine

/-- FREE VALUE (assumption 9): the landing set that a LANDSET section of a stepping stands for when no save of this
module wrote it (22 R407, R408); none where it is malformed. -/
opaque Sys2Proof.Config.landsetDecode : List Sys2Proof.Byte → Option Sys2Proof.Machine.SavedSet

namespace Sys2Proof.Machine

/-- The whole module. -/
structure State where
  power : Power
  bricks : Vector Brick 8
  /-- global memory by physical address -/
  mem : List Host.Cell
  queues : Vector Queue 64
  kernels : List Kernel
  nextKernel : Nat
  winbase : Word
  astbase : BitVec 52
  -- boot and measurement
  stage : BitVec 4
  failcode : BitVec 8
  svn : BitVec 16
  svnmin : Nat
  stage1 : List Byte
  stewardImage : List Byte
  mr : Vector (BitVec 384) 8
  owner : Option Key
  slots : Vector (Option Key) 16
  storeCtr : Word
  /-- the store as flash holds it, which a boot that finds its digest broken does not use (23 R420) -/
  flashOwner : Option Key
  flashSlots : Vector (Option Key) 16
  bootcnt : Word
  -- attestation
  nonce : BitVec 256
  attBusy : Bool
  attDone : Bool
  attReport : List Byte
  -- audit log
  /-- the ring of 65,536 entries: entry `n` at place n mod 65,536 (23 R426) -/
  log : List (List Byte)
  logHash : BitVec 384
  logNext : Nat
  logAcked : Nat
  /-- LOGACK as last accepted -/
  logAck : Word
  logLost : Nat
  logSinceSeal : Nat
  lastSeal : Nat
  seals : List (Nat × Seal)
  logPage : Word
  sealReq : Bool
  -- fleet
  powercap : BitVec 12
  /-- the clock that firmware gives every brick, in steps of 62.5 MHz (25 R446) -/
  modClock : Nat
  telSel : Word
  telReady : Bool
  telBad : Bool
  telWin : List Nat
  telLife : List (Nat × TelCount)
  telPeriod : List (Nat × TelCount)
  /-- the older of the two flash copies of the telemetry, and which copy was written last (25 R450) -/
  telLifeOld : List (Nat × TelCount)
  telPeriodOld : List (Nat × TelCount)
  flashCopy : Bool
  /-- the copy written last is still being written; the digest of that copy holds (25 R450, R452) -/
  flashWriting : Bool
  flashGood : Bool
  interrupts : List Nat
  -- the model's own
  cur : Option Cursor
  agenda : List Instr
  /-- the seats' part of the present cycle is still to come (21 R402) -/
  turns : Bool
  inbox : List (Option Instr)
  freeCtr : Nat
  savedSets : List SavedSet
  deriving DecidableEq, Repr

/-- Why a step stops with a fault. -/
inductive Fault where
  /-- Raised by `step` alone, when the module is Off and no outside event is left: nothing can happen
  until power returns (25 R445). Safe. -/
  | noEvent
  deriving DecidableEq, Repr

/-- Why an instruction has no meaning. -/
inductive Refusal where
  /-- Raised by the arms of `exec` that have no meaning yet, and by nothing else. Safe. -/
  | notModelled (mnemonic : String)
  deriving DecidableEq, Repr

/-- A context at task start (01 R42), before the launch fills its placement and parameters. -/
def Context.reset : Context where
  run := .empty
  phase := .entry
  kernel := 0
  crd := 0
  scmask := 0
  dimmap := 0
  seatf := 0
  asgen := 0
  gbcs := 0
  cbc := 0
  slipOffset := 0
  fbud := 0x100_0000#32
  qcnt := 0
  qi := 0
  qiCount := 0
  x := Vector.replicate 32 0
  v := Vector.replicate 64 0
  p := (Vector.replicate 16 (0 : PReg)).set 0 (BitVec.allOnes 512)
  s := Vector.replicate 16 0
  tok := Vector.replicate 32 .free
  count := Vector.replicate 16 0
  amax := Vector.replicate 16 0
  limit := Vector.replicate 16 0xFFFF_FFFF_FFFF#48
  scst := 0
  ag := Vector.replicate 16 0
  dmode := .off
  tapeb := 0
  tapel := 0
  tapec := 0
  tapes := 0
  tapesa := 0
  sp := 0
  tables := []
  ltgen := 0
  banks := []
  held := []
  sq := []
  rrb := 0
  lc := 0
  wcol := false
  redir0 := none
  redir1 := none
  pc := 0
  pin := none
  srw := 0
  tstat := 0
  taddr := 0
  tbeat := 0
  tinfo := 0
  tibeat := 0
  pending := []
  spad := []
  tiles := []
  tags := []
  imem := []
  streams := []
  regions := []
  nhash := 0
  timed := []
  lset := []
  cmds := []
  pendTables := []
  late := []
  ops := []
  nextId := 1
  mxFree := 0
  wbFree := 0
  lookFree := 0
  tabFree := 0
  idleLeft := 0
  takenTo := none
  halting := false
  beatThisCycle := false
  phase2 := []
  phase3 := []
  tagBy := []
  pre := none
  frozenSince := none
  serviced := none
  svcDone := false
  unconsumed := 0
  outAtKill := 0
  discarded := 0
  crossed := 0
  restoring := none
  resumedAt := none
  svcCounted := 0
  stopGbc := 0
  slipHeld := 0
  recorded := false

/-- A seat that holds no context (21 R398, 22 R403). -/
def Seat.reset : Seat where
  ctx := Context.reset
  armedReg := false
  runReg := false
  cause := 0
  committed := false
  preTarget := 0
  preEn := false
  area := 0
  busy := false
  done := false
  err := 0
  captured := false
  areaErr := false
  commitIn := false
  saveTo := 0
  resaved := none
  resumeOwed := false
  share := []

/-- A link at reset: down on the substrate dimensions 0 to 2, absent on the others, which a single
module does not fit (24 R433, R434; assumption 11). -/
def Link.reset (d : Nat) : Link where
  state := if d < 3 then .down else .absent
  why := 0
  peer := 0
  crcErr := 0
  replays := 0
  relayDim := 0
  active := false
  via := 15
  closing := false
  downing := none
  trainSince := 0
  txSeq := 0
  rxSeq := 0
  unacked := []
  replayed := []
  askReplay := false
  wire := []
  acks := []
  held := []
  rx := []
  lastRx := 0
  lastTx := 0
  roundTrip := 0

/-- A brick at reset: every quarter dirty (22 R415), nominal clock (00 R2). -/
def Brick.reset : Brick where
  inService := false
  steward := false
  seats := Vector.replicate 4 Seat.reset
  gbc := 0
  bcyc := 0
  clock := 32
  clockAcc := 0
  throttle := none
  throttled := 0
  cycleNow := false
  slew := 0
  seattab := 0
  staged := 0
  seatBad := false
  seatWhy := 0
  tableBad := false
  quarters := Vector.replicate 4 .dirty
  tlb := []
  tlbinv := 0
  tlbcnt := 0
  tlbPending := []
  tlbDone := false
  genadvAsid := 0
  genBusy := false
  genNext := 0
  genDone := false
  genOut := 0
  gens := []
  mrext := Vector.replicate 6 0
  logtype := 0
  logpay := Vector.replicate 12 0
  logDone := false
  logRefused := false
  links := Vector.ofFn fun d : Fin 12 => Link.reset d.val
  lock := false
  lost := false
  offset := 0
  lastSync := 0
  syncOwed := []
  rly := Vector.replicate 16 { dest := 0, out := 0, en := false }
  telDelta := []
  lastDelta := 0
  temperature := 0
  linkIrq := []

/-- A launch queue at reset (21 R389, R390, 25 R443: FBUDLOG 24). -/
def Queue.reset : Queue where
  log2n := 0
  en := false
  ien := false
  asid := 0
  lbase := 0
  cbase := 0
  tail := 0
  headIx := 0
  ctail := 0
  chead := 0
  badTail := false
  badChead := false
  waiting := false
  alloc := 0x18_0000#64
  window := 0
  stale := 0
  tibeats := []

/-- The module right after reset: power is applied, the boot of 23 R418 has not run. H[-1] of the log's chain is that of
BOOTCNT 0 (23 R426). -/
def State.reset : State where
  power := .on
  bricks := Vector.replicate 8 Brick.reset
  mem := []
  queues := Vector.replicate 64 Queue.reset
  kernels := []
  nextKernel := 1
  winbase := 0
  astbase := 0
  stage := 0
  failcode := 0
  svn := 0
  svnmin := 0
  stage1 := []
  stewardImage := []
  mr := Vector.replicate 8 0
  owner := none
  slots := Vector.replicate 16 none
  storeCtr := 0
  flashOwner := none
  flashSlots := Vector.replicate 16 none
  bootcnt := 0
  nonce := 0
  attBusy := false
  attDone := false
  attReport := []
  log := []
  logHash := sha384 (toBytes 16 Config.devid.toNat ++ toBytes 8 0)
  logNext := 0
  logAcked := 0
  logAck := 0
  logLost := 0
  logSinceSeal := 0
  lastSeal := 0
  seals := []
  logPage := 0
  sealReq := false
  powercap := 2400
  modClock := 32
  telSel := 0
  telReady := false
  telBad := false
  telWin := []
  telLife := []
  telPeriod := []
  telLifeOld := []
  telPeriodOld := []
  flashCopy := false
  flashWriting := false
  flashGood := true
  interrupts := []
  cur := none
  agenda := []
  turns := false
  inbox := []
  freeCtr := 0
  savedSets := []

end Sys2Proof.Machine
end

