-- ==== Sys2Proof/Machine/Operands.lean ====
section
/-! DEFINITION. Operand forms: immediates, register names and rotation, shares, scratchpad addresses
(02 R57-R63, 07 R166-R172, 08 R188-R193, 09 R197-R215). -/

namespace Sys2Proof.Machine

/-! ### Immediates -/

/-- The IMM18 operand (08 R188, 07 R166). -/
def immVal : Imm → Word
  | .short i => i.signExtend 64
  | .long l => l.signExtend 64

/-- The `li` operand (08 R192, 07 R166). -/
def liVal : LiImm → Word
  | .short i => i.signExtend 64
  | .long hi l => wd (hi.toNat * 2 ^ 44 + l.toNat)

/-- The byte displacement for access size `w` (07 R166, R170). -/
def dispVal (w : Nat) : Disp → Word
  | .short d => d.signExtend 64 * wd w
  | .long l => l.signExtend 64

/-! ### Shares of a fraction (01 R36, 02 R63, R71) -/

/-- s of R63: 0, 1 or 2 for fraction 1, 1/2 or 1/4. -/
def Context.frac (c : Context) : Nat := nbits c.seatf.toNat 0 2

def Context.spadShare (c : Context) : Nat := 2 ^ (27 - c.frac)
def Context.bankShare (c : Context) : Nat := 8192 / 2 ^ c.frac
def Context.tableShare (c : Context) : Nat := 8192 / 2 ^ c.frac
def Context.tileShare (c : Context) : Nat := 2048 / 2 ^ c.frac
def Context.imemShare (c : Context) : Nat := 2 ^ 21 / 2 ^ c.frac

/-- COORD and NDIM of CRD (01 R18). -/
def Context.coord (c : Context) : Nat := nbits c.crd.toNat 0 12
def Context.ndim (c : Context) : Nat := nbits c.crd.toNat 12 4

/-- PD_i of DIMMAP (01 R18). -/
def Context.pd (c : Context) (i : Nat) : Nat := nbits c.dimmap.toNat (4 * i) 4

/-! ### Registers (02 R57, R61) -/

/-- Physical vector register of a name. -/
def Context.physV (c : Context) (n : Fin 64) : Fin 64 :=
  if n.val < 32 then n else Fin.ofNat 64 (32 + (n.val + 64 - 32 - c.rrb.toNat) % 32)

/-- Physical predicate register of a name. -/
def Context.physP (c : Context) (n : Fin 16) : Fin 16 :=
  if n.val < 8 then n else Fin.ofNat 16 (8 + (n.val + 64 - 8 - c.rrb.toNat) % 8)

/-- A scalar register as an operand: `x0` reads 0. -/
def Context.xr (c : Context) (r : Fin 32) : Word := if r = 0 then 0 else c.x.get r

/-- A vector register as an operand. -/
def Context.vr (c : Context) (r : Fin 64) : VReg := c.v.get (c.physV r)

/-- A predicate as an operand: `p0` reads all ones, `p1` all zeros. -/
def Context.pr (c : Context) (r : Fin 16) : PReg :=
  if r = 0 then BitVec.allOnes 512 else if r = 1 then 0 else c.p.get (c.physP r)

/-- Guard of a slot that acts as a whole: bit 0 (07 R168). -/
def Context.guard (c : Context) (g : Fin 16) : Bool := (c.pr g).getLsbD 0

/-- The vector register `d` lanes above name `n`, as `ltlook` binds them (11 R259). -/
def nameV (n : Nat) : Fin 64 := Fin.ofNat 64 n

/-! ### Element widths (08 R193, 09 R211) -/

/-- Access size of `lds` and `sts`. -/
def scalarBytes : Ty → Nat
  | .s8 | .n8 => 1
  | .s16 | .n16 => 2
  | .s32 | .n32 => 4
  | _ => 8

/-- Element width of a vector access. -/
def vecBytes : Ty → Nat
  | .bf16 | .s16 | .n16 => 2
  | .s8 | .n8 | .e4m3 | .e5m2 => 1
  | _ => 4

/-- Whether a load of this type sign-extends. -/
def signExt : Ty → Bool
  | .s8 | .s16 | .s32 => true
  | _ => false

/-- `n` bytes read as an operand of `w` bits, zero- or sign-extended. -/
def extend (sgn : Bool) (bytes w n : Nat) : Nat :=
  if sgn then unsignedOf w (signed (8 * bytes) n) else n % 2 ^ (8 * bytes)

/-- Address of lane `i` (09 R211, R215). -/
def LaneAddrs.at (la : LaneAddrs) (w i : Nat) : Nat :=
  match la with
  | .contig base => base + w * i
  | .indexed base index => (base + (lane index i).toNat * w) % 2 ^ 64

/-! ### Differentiable regions (12 R273, R274) -/

/-- Fields of an adjoint region register. -/
def agPbase (a : BitVec 128) : Nat := nbits a.toNat 0 27
def agLen (a : BitVec 128) : Nat := nbits a.toNat 32 27
def agAbase (a : BitVec 128) : Nat := nbits a.toNat 64 27
def agPfmt (a : BitVec 128) : Nat := nbits a.toNat 92 4
def agAfmt (a : BitVec 128) : Bool := nbit a.toNat 96
def agEn (a : BitVec 128) : Bool := nbit a.toNat 97

/-- Primal element width e. -/
def agWidth (a : BitVec 128) : Nat := if agPfmt a = 8 then 2 else 4

/-- Adjoint cell width ae. -/
def agCellWidth (a : BitVec 128) : Nat := if agAfmt a then 2 else 4

/-- Length of the adjoint span. -/
def agAlen (a : BitVec 128) : Nat := agLen a / agWidth a * agCellWidth a

/-- CELL(P) of R274. -/
def agCell (a : BitVec 128) (p : Nat) : Nat :=
  agAbase a + (p - agPbase a) / agWidth a * agCellWidth a

/-- Elements of region `n` that the bytes [addr, addr + w) touch, ascending (08, "Scalar access in
differentiable modes"). -/
def regionElems (n : Nat) (a : BitVec 128) (addr w : Nat) : List Elem :=
  let e := agWidth a
  let lo := max addr (agPbase a)
  let hi := min (addr + w) (agPbase a + agLen a)
  if agEn a && lo < hi then
    let first := (lo - agPbase a) / e
    let last := (hi - 1 - agPbase a) / e
    (List.range (last + 1 - first)).map fun k =>
      let p := agPbase a + (first + k) * e
      { addr := p, region := n, width := e, cell := agCell a p, abf16 := agAfmt a }
  else []

/-- Elements of the enabled regions that an access covers, in ascending address order. -/
def Context.covered (c : Context) (addr w : Nat) : List Elem :=
  sortBy Elem.addr ((List.range 16).flatMap fun n => regionElems n (c.ag.getD n 0) addr w)

/-- Lowest enabled region whose primal or adjoint span meets [a, a + n). -/
def Context.regionHit (c : Context) (a n : Nat) : Option Nat :=
  (List.range 16).find? fun k =>
    let r := c.ag.getD k 0
    agEn r && (overlaps (agPbase r) (agLen r) a n || overlaps (agAbase r) (agAlen r) a n)

/-- The landing tile that holds an address (02 R71). -/
def tileFrom : List Nat → Nat → Nat → Option Nat
  | [], _, _ => none
  | t :: r, i, a => if t ≤ a && a < t + 4096 then some i else tileFrom r (i + 1) a

def Context.tileOf (c : Context) (a : Nat) : Option Nat := tileFrom c.tiles 0 a

/-- The first of the addresses a, a + step, … below a + n that lies in no landing tile. -/
def Context.outsideTile (c : Context) (a n : Nat) : Option Nat :=
  (List.range (cdiv n 64)).findSome? fun k =>
    match c.tileOf (a + 64 * k) with
    | none => some (a + 64 * k)
    | some _ => none

/-- Whether the tape window is closed to writes, and the span overlaps it; the answer is the first
overlapping address (02 R79). -/
def Context.windowHit (c : Context) (a n : Nat) : Option Nat :=
  if c.dmode != .off && overlaps c.tapeb.toNat (c.tapel.toNat - c.tapeb.toNat) a n then
    some (max a c.tapeb.toNat)
  else none

end Sys2Proof.Machine
end

