-- ==== Sys2Proof/Machine/Flags.lean ====
section
/-! DEFINITION. Compares, saturation counters and the landing of register results
(02 R58-R60, 03 R95-R97, 08 R190, 09 R203). -/

namespace Sys2Proof.Machine

/-- `cmp` (08 R190). -/
def condHolds (c : Cond) (a b : Word) : Bool :=
  match c with
  | .eq => a == b
  | .ne => a != b
  | .lt => a.slt b
  | .le => a.sle b
  | .gt => b.slt a
  | .ge => b.sle a
  | .ltu => a.ult b
  | .leu => a.ule b
  | .gtu => b.ult a
  | .geu => b.ule a

/-- `vcmp` on one lane (09 R203). -/
def vcondHolds (ty : Ty) (c : VCond) (a b : BitVec 32) : Bool :=
  match ty with
  | .f32 =>
    let x := f32v a
    let y := f32v b
    match c with
    | .eq => x.eq y
    | .ne => !x.eq y
    | .lt => x.lt y
    | .le => x.lt y || x.eq y
    | .gt => y.lt x
    | .ge => y.lt x || x.eq y
    | .un => x.isNan || y.isNan
  | .n32 =>
    match c with
    | .eq => a == b
    | .ne => a != b
    | .lt => a.ult b
    | .le => a.ule b
    | .gt => b.ult a
    | .ge => b.ule a
    | .un => false
  | _ =>
    match c with
    | .eq => a == b
    | .ne => a != b
    | .lt => a.slt b
    | .le => a.sle b
    | .gt => b.slt a
    | .ge => b.sle a
    | .un => false

/-! ### Saturation counters (03 R95-R97) -/

/-- One update of a counter: count and FP32 code of the largest magnitude. -/
structure CntUpd where
  c : Fin 16
  count : Nat
  amax : Nat
  deriving DecidableEq, Repr

/-- What a write of AMAX stores (R95). -/
def amaxWrite (v : Nat) : BitVec 32 :=
  if nbit v 31 || v % 2 ^ 32 > 0x7F80_0000 then 0 else BitVec.ofNat 32 v

/-- All updates of counter `k` that land at one beat: COUNT receives their sum, AMAX their maximum
(R96). -/
def Context.bump (x : Context) (l : List CntUpd) (k : Fin 16) : Context :=
  let u := l.filter (·.c = k)
  if u.isEmpty then x
  else
    let n := u.foldl (fun a e => a + e.count) 0
    let m := u.foldl (fun a e => max a e.amax) (x.amax.get k).toNat
    { x with
      count := x.count.set k.val (BitVec.ofNat 48 (min ((x.count.get k).toNat + n) (2 ^ 48 - 1)))
      amax := x.amax.set k.val (BitVec.ofNat 32 m) }

def Context.bumpAll (x : Context) (l : List CntUpd) : Context :=
  (List.finRange 16).foldl (fun a k => a.bump l k) x

/-- Counters that the updates take from at most LIMIT to above it (R97), as a mask. -/
def crossings (before after : Context) : Nat :=
  (List.finRange 16).foldl (fun a k =>
    if (before.count.get k).toNat ≤ (after.limit.get k).toNat &&
        (after.limit.get k).toNat < (after.count.get k).toNat
    then a + 2 ^ k.val else a) 0

/-! ### Landing of register results (02 R58, R59) -/

/-- Order of issue: the later-issued bundle, then the higher slot, takes effect later (R59). -/
def Timed.key (t : Timed) : Nat := t.issue * 8 + t.slot

/-- Registers and lanes that landings have written at this beat, and whether two of them met. -/
structure Landing where
  ctx : Context
  xs : List Nat
  vs : List (Nat × PReg)
  ps : List (Nat × PReg)
  coll : Bool

/-- Lanes already written in a register. -/
def written (l : List (Nat × PReg)) (r : Nat) : PReg :=
  l.foldl (fun a e => if e.1 = r then a ||| e.2 else a) 0

/-- One register result lands (R58); writes to `x0`, `p0` and `p1` are discarded (R57). -/
def Landing.one (l : Landing) (e : Eff) : Landing :=
  match e with
  | .xw r v =>
    if r = 0 then l
    else { l with ctx := { l.ctx with x := l.ctx.x.set r.val v }, xs := r.val :: l.xs
                  coll := l.coll || l.xs.contains r.val }
  | .vw r m v =>
    { l with
      ctx := { l.ctx with
        v := l.ctx.v.setIfInBounds r (mergeLanes m (l.ctx.v.getD r 0) v) }
      vs := (r, m) :: l.vs
      coll := l.coll || (written l.vs r &&& m) != 0 }
  | .pw r m v =>
    if r ≤ 1 then l
    else
      { l with
        ctx := { l.ctx with p := l.ctx.p.setIfInBounds r (mergeBits m (l.ctx.p.getD r 0) v) }
        ps := (r, m) :: l.ps
        coll := l.coll || (written l.ps r &&& m) != 0 }
  | .sw r v => { l with ctx := { l.ctx with s := l.ctx.s.set r.val v } }
  | _ => l

/-- The effects due at beat `b`, in issue order. -/
def dueAt (l : List Timed) (b : Nat) : List Timed :=
  sortBy Timed.key (l.filter (·.due == b))

/-- The register results that are due land, and a collision sets WCOL.C (R59, R60). -/
def Context.landRegs (c : Context) (due : List Timed) : Context :=
  let l := due.foldl (fun a t => a.one t.eff) (Landing.mk c [] [] [] false)
  { l.ctx with wcol := c.wcol || l.coll }

/-- Counter updates among effects (R96). -/
def counterUpds (due : List Timed) : List CntUpd :=
  due.filterMap fun t => match t.eff with
    | .cnt c n a => some ⟨c, n, a.toNat⟩
    | _ => none

/-- The registers as a bundle of beat `cbc` reads them: every result due at that beat has landed
(R58). Nothing really lands before the beat is taken (05 R136). -/
def Context.view (c : Context) : Context := c.landRegs (dueAt c.timed c.cbc)

end Sys2Proof.Machine
end

