-- ==== Sys2Proof/Machine/Memory.lean ====
section
/-! DEFINITION. Access to the parts of the state, scratchpad writes with table invalidation
(04 R118, 11 R251, R263), and global memory with its translation (02 R80-R83, 22 R410-R414). -/

namespace Sys2Proof.Machine

/-! ### The parts of the state -/

def State.brick (s : State) (b : Fin 8) : Brick := s.bricks.get b
def State.setBrick (s : State) (b : Fin 8) (x : Brick) : State :=
  { s with bricks := s.bricks.set b.val x }
def State.seat (s : State) (b : Fin 8) (q : Fin 4) : Seat := (s.brick b).seats.get q
def State.setSeat (s : State) (b : Fin 8) (q : Fin 4) (x : Seat) : State :=
  s.setBrick b { s.brick b with seats := (s.brick b).seats.set q.val x }
def State.ctx (s : State) (b : Fin 8) (q : Fin 4) : Context := (s.seat b q).ctx
def State.setCtx (s : State) (b : Fin 8) (q : Fin 4) (c : Context) : State :=
  s.setSeat b q { s.seat b q with ctx := c }
def State.modCtx (s : State) (b : Fin 8) (q : Fin 4) (f : Context → Context) : State :=
  s.setCtx b q (f (s.ctx b q))
def State.link (s : State) (b : Fin 8) (d : Fin 12) : Link := (s.brick b).links.get d
def State.setLink (s : State) (b : Fin 8) (d : Fin 12) (l : Link) : State :=
  s.setBrick b { s.brick b with links := (s.brick b).links.set d.val l }
def State.queue (s : State) (q : Fin 64) : Queue := s.queues.get q
def State.setQueue (s : State) (q : Fin 64) (x : Queue) : State :=
  { s with queues := s.queues.set q.val x }
def State.kernel (s : State) (id : Nat) : Option Kernel := s.kernels.find? (·.id == id)
def State.setKernel (s : State) (k : Kernel) : State :=
  { s with kernels := s.kernels.map fun x => if x.id == k.id then k else x }

/-- The steward of a brick runs: power is applied, and the boot has released its cores (23 R418). -/
def State.stewardUp (s : State) (b : Fin 8) : Bool := s.power != .off && (s.brick b).steward

/-- Every brick and seat, in order. -/
def allSeats : List (Fin 8 × Fin 4) :=
  (List.finRange 8).flatMap fun b => (List.finRange 4).map fun q => (b, q)

/-! ### Operations of a context -/

def Context.op (c : Context) (id : Nat) : Option Op := c.ops.find? (·.id == id)
def Context.setOp (c : Context) (o : Op) : Context :=
  { c with ops := c.ops.map fun x => if x.id == o.id then o else x }
/-- The token of an operation has completed: with its completion, or in error before its traffic is through
(13 R303). -/
def Op.tokenOver (o : Op) : Bool := o.tokenDone || o.spoiled
def Context.cmd (c : Context) (id : Nat) : Option Cmd := c.cmds.find? (·.id == id)
def Context.setCmd (c : Context) (m : Cmd) : Context :=
  { c with cmds := c.cmds.map fun x => if x.id == m.id then m else x }

/-! ### Tables and their spans (11 R250, R251) -/

/-- The value of an unlisted table register: all zero (01 R42). -/
def Table.zero : Table := { entries := 0, meta0 := 0, meta1 := 0, copy := 0 }

def Context.table (c : Context) (n : Nat) : Table := mapGet Table.zero c.tables n
def Context.setTable (c : Context) (n : Nat) (t : Table) : Context :=
  { c with tables := mapSet Table.zero c.tables n t }

def Table.valid (t : Table) : Bool := nbit t.meta0.toNat 0
def Table.groupSize (t : Table) : Nat := nbits t.meta0.toNat 1 2 + 1
def Table.mx (t : Table) : Bool := nbit t.meta0.toNat 3
def Table.sv (t : Table) : Bool := nbit t.meta0.toNat 4
def Table.ascale (t : Table) : Nat := nbits t.meta0.toNat 5 8
def Table.gran (t : Table) : Nat := nbits t.meta0.toNat 29 22
def Table.bmask (t : Table) : Nat := nbits t.meta1.toNat 0 32
def Table.saddr (t : Table) : Nat := nbits t.meta1.toNat 32 27

/-- V cleared, the other fields kept. -/
def Table.clearV (t : Table) : Table := { t with meta0 := t.meta0 &&& ~~~(1 : Word) }

/-- V cleared and GEN set (R252). -/
def Table.prep (t : Table) (gen : BitVec 16) : Table :=
  { t with meta0 := wd (t.clearV.meta0.toNat - nbits t.meta0.toNat 13 16 * 2 ^ 13 +
      gen.toNat * 2 ^ 13) }

/-- Whether the span of a table holds an address (R251). -/
def Table.watches (t : Table) (a : Nat) : Bool :=
  (a / 32 == t.gran && nbit t.bmask (a % 32)) || (t.sv && a == t.saddr)

/-- The bytes of the span, granule bytes ascending, then the scale byte. -/
def Table.spanAddrs (t : Table) : List Nat :=
  (setBits 32 0 t.bmask).map (t.gran * 32 + ·) ++ (if t.sv then [t.saddr] else [])

/-- Writes to these bytes make the tables that watch them invalid, and spoil those that have been
read and not landed (R118, R254, R268). -/
def Context.invalidate (c : Context) (addrs : List Nat) : Context :=
  let hit (t : Table) : Bool := t.valid && addrs.any t.watches
  { c with
    tables := c.tables.map fun e => if hit e.2 then (e.1, e.2.clearV) else e
    pendTables := c.pendTables.map fun p =>
      if addrs.any p.table.watches then { p with spoiled := true } else p }

/-- Bytes written to scratchpad outside the phases of a beat (04 R114). -/
def Context.writeSpad (c : Context) (w : List (Nat × Byte)) : Context :=
  Context.invalidate { c with spad := setAll c.spad w } (w.map Prod.fst)

/-! ### Physical memory (22 R411) -/

/-- Whether a physical address names memory of a brick that is in service (22 R411, 25 R448). -/
def State.physOk (s : State) (pa : Nat) : Bool :=
  let h := pa / 2 ^ 40
  let o := pa % 2 ^ 40
  (if hb : h < 8 then (s.brick ⟨h, hb⟩).inService else false) &&
    (o < 0x10_0000_0000 || (0x80_0000_0000 ≤ o && o < 0x80_0000_0000 + Config.ddrBytes))

/-- Home brick of a physical address. -/
def homeOf (pa : Nat) : Nat := pa / 2 ^ 40

/-- A translation: frame, page size, permissions. -/
structure Xlat where
  base : Nat
  size : Nat
  rd : Bool
  wr : Bool
  deriving DecidableEq, Repr

/-- A page-table entry whose fields obey R410 at a level where it may be a leaf or not. -/
def pteOk (e : Nat) (leaf : Bool) (align : Nat) (cAllowed : Bool) : Bool :=
  nbit e 0 && nbit e 1 == leaf && nbits e 5 7 == 0 && nbits e 52 12 == 0 &&
    (cAllowed || !nbit e 4) && (nbits e 12 40 * 4096) % align == 0

/-- PA of an entry. -/
def ptePa (e : Nat) : Nat := nbits e 12 40 * 4096

def leafOf (e size : Nat) : Xlat := ⟨ptePa e, size, nbit e 2, nbit e 3⟩

/-- The 8 bytes of a table entry, read through the home's L2; none where no memory is. -/
def State.pte (s : State) (a : Nat) : Nat := if s.physOk a then getN s.mem a 8 else 0

/-- The sixteen entries of the group at `g` agree as those of a 64 KiB page (R410). -/
def State.groupOk (s : State) (tab g : Nat) : Bool :=
  let e0 := s.pte (tab + 8 * g)
  ptePa e0 % 0x1_0000 == 0 && (List.range 16).all fun k =>
    let x := s.pte (tab + 8 * (g + k))
    pteOk x true 4096 true && nbit x 4 && nbit x 2 == nbit e0 2 && nbit x 3 == nbit e0 3 &&
      ptePa x == ptePa e0 + 4096 * k

/-- Level 0 (R410): a 4 KiB page of a group in which no entry has C set, or a 64 KiB group whose sixteen entries agree.
C counts also in an entry that is not valid (DEDUCED, assumption 31). -/
def State.walk0 (s : State) (tab va : Nat) : Option Xlat :=
  let i := nbits va 12 9
  let g := i / 16 * 16
  let e := s.pte (tab + 8 * i)
  if (List.range 16).any fun k => nbit (s.pte (tab + 8 * (g + k))) 4 then
    if s.groupOk tab g then some (leafOf (s.pte (tab + 8 * g)) 0x1_0000) else none
  else if pteOk e true 4096 true then some (leafOf e 4096)
  else none

/-- Level 1: a 2 MiB leaf, or a level-0 table. -/
def State.walk1 (s : State) (tab va : Nat) : Option Xlat :=
  let e := s.pte (tab + 8 * nbits va 21 10)
  if pteOk e true 0x20_0000 false then some (leafOf e 0x20_0000)
  else if pteOk e false 4096 false then s.walk0 (ptePa e) va else none

/-- Level 2: a 2 GiB leaf, or a level-1 table. -/
def State.walk2 (s : State) (tab va : Nat) : Option Xlat :=
  let e := s.pte (tab + 8 * nbits va 31 9)
  if pteOk e true 0x8000_0000 false then some (leafOf e 0x8000_0000)
  else if pteOk e false 8192 false then s.walk1 (ptePa e) va else none

/-- The entry of the address-space table (R410): root and generation. -/
def State.astEntry (s : State) (asid : Nat) : Option (Nat × Nat) :=
  let a := s.astbase.toNat + 16 * asid
  let lo := s.pte a
  let hi := s.pte (a + 8)
  if nbits lo 0 12 == 0 && nbits lo 52 12 == 0 && nbits hi 16 8 == 1 && nbits hi 24 40 == 0 &&
      lo % 0x8000 == 0 then some (lo, nbits hi 0 16)
  else none

/-- The hardware walk (R410, R412). -/
def State.walk (s : State) (asid va : Nat) : Option Xlat :=
  match s.astEntry asid with
  | none => none
  | some (root, _) =>
    let e := s.pte (root + 8 * nbits va 40 12)
    if pteOk e false 4096 false then s.walk2 (ptePa e) va else none

/-- The addresses of the table entries that a walk of `va` reads, down to the first that is no pointer to a next
table; at level 0 all sixteen of its group (R410). -/
def State.walkAddrs (s : State) (asid va : Nat) : List Nat :=
  match s.astEntry asid with
  | none => []
  | some (root, _) =>
    let a3 := root + 8 * nbits va 40 12
    let a2 := ptePa (s.pte a3) + 8 * nbits va 31 9
    let a1 := ptePa (s.pte a2) + 8 * nbits va 21 10
    let a0 := ptePa (s.pte a1) + 8 * (nbits va 12 9 / 16 * 16)
    a3 :: (if !pteOk (s.pte a3) false 4096 false then []
      else a2 :: if !pteOk (s.pte a2) false 8192 false then []
        else a1 :: if !pteOk (s.pte a1) false 4096 false then []
          else (List.range 16).map fun i => a0 + 8 * i)

/-- A hit in a brick's TLB: the same ASID and GEN (R412). -/
def State.tlbHit (s : State) (b : Fin 8) (asid gen va : Nat) : Option Xlat :=
  match (s.brick b).tlb.find? fun e =>
      e.asid.toNat == asid && e.gen.toNat == gen && e.va ≤ va && va < e.va + e.size with
  | some e => some ⟨e.pa, e.size, e.rd, e.wr⟩
  | none => none

/-- Physical address of an access at the requesting brick, with the permissions it needs and a page
that is not forbidden; none goes to firmware (R412). -/
def State.translate (s : State) (b : Fin 8) (asid gen va : Nat) (needRd needWr : Bool) : Option Nat :=
  match (match s.tlbHit b asid gen va with
    | some x => some x
    | none => s.walk asid va) with
  | some x =>
    let pa := x.base + va % x.size
    if (!needRd || x.rd) && (!needWr || x.wr) && s.physOk pa then some pa else none
  | none => none

/-- Current generation of an ASID at a home memory controller; 1 before any advance
(assumption 1). -/
def Brick.genOf (x : Brick) (asid : Nat) : BitVec 16 := mapGet 1 x.gens asid

/-- Whether an access carrying this generation is accepted at the home of `pa` (02 R83). -/
def State.genOk (s : State) (pa asid : Nat) (gen : Nat) : Bool :=
  if hb : homeOf pa < 8 then ((s.brick ⟨homeOf pa, hb⟩).genOf asid).toNat == gen else false

/-- Runs of at most one 4 KiB page each that cover [va, va + n): start and length. -/
def pageRuns : Nat → Nat → Nat → List (Nat × Nat)
  | 0, _, _ => []
  | _, _, 0 => []
  | f + 1, va, n =>
    let k := min n (4096 - va % 4096)
    (va, k) :: pageRuns f (va + k) (n - k)

/-- Physical runs of a virtual span under an address space and generation, as brick `b` reaches it; none
where a page is not mapped with the permissions or its home rejects the generation. -/
def State.runsAt (s : State) (b : Fin 8) (asid gen va n : Nat) (rd wr : Bool) :
    Option (List (Nat × Nat)) :=
  (pageRuns (n / 4096 + 2) va n).mapM fun r =>
    match s.translate b asid gen r.1 rd wr with
    | some pa => if r.1 + r.2 ≤ 2 ^ 52 && s.genOk pa asid gen then some (pa, r.2) else none
    | none => none

/-- The same under the generation in force, as the steward reaches it (21 R389, R394). -/
def State.vruns (s : State) (asid va n : Nat) (rd wr : Bool) : Option (List (Nat × Nat)) :=
  match s.astEntry asid with
  | none => none
  | some (_, gen) => s.runsAt 0 asid gen va n rd wr

/-- Bytes of a virtual span; none where it is not mapped and readable. -/
def State.vread (s : State) (asid va n : Nat) : Option (List Byte) :=
  match s.vruns asid va n true false with
  | some rs => some (rs.flatMap fun r => getBytes s.mem r.1 r.2)
  | none => none

/-- Bytes written along physical runs. -/
def writeRuns (m : List Host.Cell) : List (Nat × Nat) → List Byte → List Host.Cell
  | [], _ => m
  | (pa, n) :: t, l => writeRuns (setBytes m pa (l.take n)) t (l.drop n)

/-- A virtual span written; none where it is not mapped and writable. -/
def State.vwrite (s : State) (asid va : Nat) (l : List Byte) : Option State :=
  match s.vruns asid va l.length false true with
  | some rs => some { s with mem := writeRuns s.mem rs l }
  | none => none

end Sys2Proof.Machine
end

