-- ==== Sys2Proof/Machine/Report.lean ====
section
/-! DEFINITION. The audit log's append, measurement, telemetry counts, task records, the end and the
kill of a kernel with its report and completion entry (01 R43, R44, 04 R128, 05 R146, 21 R399, R400,
22 R415, 23 R419, R426, R428, R430). -/

namespace Sys2Proof.Machine

/-- Little-endian field of `n` bytes. -/
def le (n v : Nat) : List Byte := toBytes n v

/-- A list of bytes cut or filled with zeros to `n`. -/
def padTo (n : Nat) (l : List Byte) : List Byte := (l ++ List.replicate (n - l.length) 0).take n

/-! ### The audit log (23 R426-R430) -/

/-- Entries not acknowledged. -/
def State.unack (s : State) : Nat := s.logNext - s.logAcked

/-- FULL and HOLD of LOGST (R427). -/
def State.logFull (s : State) : Bool := 64512 ≤ s.unack
def State.logHold (s : State) : Bool := 65536 ≤ s.unack

/-- The 128 bytes of an entry (R426). -/
def logEntry (seq gbc type src queue : Nat) (payload : List Byte) : List Byte :=
  le 8 seq ++ le 8 gbc ++ le 2 type ++ le 2 src ++ le 2 queue ++ List.replicate 10 0 ++
    padTo 96 payload

/-- One entry appended and chained; in a full ring it takes the place of the entry 65,536 before it (R426). -/
def State.pushEntry (s : State) (gbc type src queue : Nat) (payload : List Byte) : State :=
  let e := logEntry s.logNext gbc type src queue payload
  { s with
    log := if s.logNext < 65536 then s.log ++ [e] else s.log.set (s.logNext % 65536) e
    logHash := sha384 (mrBytes s.logHash ++ e)
    logNext := s.logNext + 1
    logSinceSeal := s.logSinceSeal + 1 }

/-- A hardware event: under HOLD it is counted; after space is freed a Lost entry comes first
(R430). `src` is a brick, or none for the module. -/
def State.logEvent (s : State) (b : Fin 8) (type queue : Nat) (payload : List Byte) : State :=
  if s.logHold then { s with logLost := s.logLost + 1 }
  else
    let g := (s.brick b).gbc.toNat
    let s1 := if s.logLost = 0 then s
      else { s.pushEntry (s.brick 0).gbc.toNat 0x0044 0xFFFF 0xFFFF (le 8 s.logLost) with logLost := 0 }
    if s1.logHold then { s1 with logLost := 1 } else s1.pushEntry g type b.val queue payload

/-- MR[i] extended by the digest `d`, and the extension logged (R419, R428). -/
def State.extend (s : State) (b : Fin 8) (i : Fin 8) (d : BitVec 384) : State :=
  let s1 := { s with mr := s.mr.set i.val (sha384 (mrBytes (s.mr.get i) ++ mrBytes d)) }
  s1.logEvent b 0x0002 0xFFFF (le 8 i.val ++ mrBytes d)

/-! ### Telemetry (25 R449) -/

/-- A count of a record raised by `n`, at most 2^64 - 1. -/
def bumpTel (l : List TelCount) (id sub idx n : Nat) : List TelCount :=
  match l with
  | [] => [⟨id, sub, idx, min n (2 ^ 64 - 1)⟩]
  | t :: r =>
    if t.id == id && t.sub == sub && t.idx == idx then
      { t with value := min (t.value + n) (2 ^ 64 - 1) } :: r
    else t :: bumpTel r id sub idx n

/-- A count of a record set to `n`. -/
def putTel (l : List TelCount) (id sub idx n : Nat) : List TelCount :=
  ⟨id, sub, idx, n⟩ :: l.filter fun t => !(t.id == id && t.sub == sub && t.idx == idx)

/-- A delta's count joins a set (R450): counts add, the highest reading is the larger, and the GBC and BOOTCNT of the
last machine check are replaced. -/
def mergeOne (l : List (Nat × TelCount)) (b : Nat) (t : TelCount) : List (Nat × TelCount) :=
  match l with
  | [] => [(b, t)]
  | e :: r =>
    if e.1 == b && e.2.id == t.id && e.2.sub == t.sub && e.2.idx == t.idx then
      let v :=
        if t.id = 0x09 && t.idx ≠ 0 then t.value
        else if t.id = 0x07 && t.idx = 32 then max e.2.value t.value
        else min (e.2.value + t.value) (2 ^ 64 - 1)
      (b, { t with value := v }) :: r
    else e :: mergeOne r b t

/-- Bin of a value in a logarithmic histogram (R449). -/
def logBin (v : Nat) : Nat := if v = 0 then 0 else min (Nat.log2 v) 31

/-- A brick's delta raised (R449, R450). -/
def State.tel (s : State) (b : Fin 8) (id sub idx n : Nat) : State :=
  s.setBrick b { s.brick b with telDelta := bumpTel (s.brick b).telDelta id sub idx n }

/-- A freeze that ends is counted in record 0x01: sub-selection 0 token wait, 1 tag, 2 service. -/
def State.telFreeze (s : State) (b : Fin 8) (sub dur : Nat) : State := s.tel b 0x01 sub (logBin dur) 1

/-! ### Slip (01 R28) -/

/-- SLIP with CBC equal to `cbc`, in the cycle of `gbc`. -/
def Context.slipAt (c : Context) (gbc : Word) (cbc : Nat) : Word :=
  wd ((gbc - c.gbcs).toNat / 2 ^ c.frac) - wd cbc + c.slipOffset

/-! ### Task records (21 R400) -/

/-- What a task record says about its end. -/
structure EndInfo where
  kind : TaskEnd
  code : Nat
  cause : Nat
  slot : Nat
  prec : Nat
  taddr : Nat
  tbeat : Nat
  tinfo : Nat
  srw : Nat
  cbc : Nat
  tibeat : Nat
  deriving DecidableEq, Repr

def TaskEnd.code : TaskEnd → Nat
  | .halted => 0 | .killed => 1 | .sibling => 2 | .stall => 3 | .machineCheck => 4

/-- Mask of the tokens in a state. -/
def tokMask (c : Context) (p : Token → Bool) : Nat :=
  (List.finRange 32).foldl (fun a k => if p (c.tok.get k) then a + 2 ^ k.val else a) 0

def Token.isErr : Token → Bool
  | .error _ => true
  | _ => false

def Token.isOut : Token → Bool
  | .outstanding => true
  | _ => false

def Token.cause : Token → Nat
  | .error c => c.toNat
  | _ => 0

/-- SLIP as a task ends, with CBC equal to the beat that it takes or was about to take. A task that has not started has
slipped by nothing (01 R28), and a restored one that has not resumed as when it was saved (R55). -/
def Context.endSlip (c : Context) (gbc : Word) (kind : TaskEnd) : Word :=
  match c.run with
  | .armed _ => 0
  | .restored => (c.restoring.getD (0, none)).1
  | _ => c.slipAt gbc (if kind ≠ .halted && c.beatThisCycle then c.cbc - 1 else c.cbc)

/-- Bytes 64 to 103 of a task record: the tokens with errors, those outstanding at the kill, and the causes. -/
def Context.tokenBytes (c : Context) : List Byte :=
  le 4 (c.unconsumed.toNat ||| tokMask c Token.isErr) ++ le 4 c.outAtKill.toNat ++
    (List.finRange 32).map fun k => by8 (c.tok.get k).cause

/-- The 384-byte record of a task, as 21 R400 lays it out. TIBEAT, which 05 R146 lists among the contents of the report,
has no field there: it stands beside the record (`Kernel.tibeats`, DEDUCED, assumption 20). -/
def taskRecord (s : State) (b : Fin 8) (q : Fin 4) (c : Context) (e : EndInfo) : List Byte :=
  let slip := (c.endSlip (s.brick b).gbc e.kind).toNat
  padTo 384 <|
    le 2 c.coord ++ le 2 b.val ++ le 1 q.val ++ le 1 e.kind.code ++
    le 1 e.code ++ le 1 e.cause ++ le 1 e.slot ++ le 1 e.prec ++ le 1 (if c.wcol then 1 else 0) ++
    [0] ++ le 4 c.discarded ++
    le 8 e.taddr ++ le 8 e.tbeat ++ le 8 e.tinfo ++ le 8 e.srw ++ le 8 slip ++ le 8 e.cbc ++
    c.tokenBytes ++ le 2 c.scst.toNat ++ le 2 c.crossed.toNat ++ le 4 0 ++
    ((List.finRange 16).flatMap fun k => le 8 (c.count.get k).toNat) ++
    ((List.finRange 16).flatMap fun k => le 4 (c.amax.get k).toNat)

/-! ### Seats and quarters (01 R39, 22 R415) -/

/-- Entry `e` of a brick's seat table: the owning seat (21 R396). -/
def entryOwner (tab : BitVec 256) (e : Nat) : Option Nat :=
  let x := nbits tab.toNat (4 * e) 4
  if nbit x 3 then some (x % 4) else none

/-- The entries that a seat owns, as a list of indices. -/
def ownedEntries (tab : BitVec 256) (q : Nat) : List Nat :=
  (List.range 64).filter fun e => entryOwner tab e == some q

/-- Whether the seat owns the brick's present cycle. -/
def Brick.owns (x : Brick) (q : Fin 4) : Bool :=
  entryOwner x.seattab (x.bcyc.toNat % 64) == some q.val

/-- The quarters of a share (assumption 14): offset `a` of fraction 2^-s. -/
def quartersAt (fr a : Nat) : List Nat :=
  match fr with
  | 0 => [0, 1, 2, 3]
  | 1 => if a % 2 = 0 then [0, 1] else [2, 3]
  | _ => match a % 4 with
    | 0 => [0]
    | 1 => [2]
    | 2 => [1]
    | _ => [3]

/-- The quarters of a seat in its brick's table in force. -/
def Brick.quartersOf (x : Brick) (q : Fin 4) (fr : Nat) : List Nat :=
  match ownedEntries x.seattab q.val with
  | [] => []
  | a :: _ => quartersAt fr a

/-- The quarters that a seat's context uses become dirty: those that it was armed or restored in, whatever table is in
force now (R415). -/
def State.dirty (s : State) (b : Fin 8) (q : Fin 4) : State :=
  s.setBrick b { s.brick b with
    quarters := (s.seat b q).share.foldl (fun v i => v.setIfInBounds i .dirty) (s.brick b).quarters }

/-! ### End of a task -/

/-- Whether every access of an operation has been performed (04 R121, R128): its spans at their
homes, its granules in scratchpad, or its delivery at the partner. -/
def Op.spans (o : Op) : Nat :=
  let w := o.c.toNat
  match o.kind with
  | .cpld | .cpst | .cpfill => nbits w 0 24 / 64
  | .cpga | .cpsc => nbits w 0 12 * nbits w 12 6
  | .cpsq => 4
  | .cpat => 1
  | .xsend | .xcc | .xat => nbits o.a.toNat 32 24 / 64
  | .fence | .xbar => 0

/-- Source, destination and length of an exchange. -/
def Op.src (o : Op) : Nat := nbits o.a.toNat 0 27
def Op.dest (o : Op) : Nat := nbits o.b.toNat 0 27
def Op.len (o : Op) : Nat := nbits o.a.toNat 32 24

/-- Whether a copy lands granules in scratchpad (13 R299). -/
def Op.lands (o : Op) : Bool :=
  match o.kind with
  | .cpld | .cpga => true
  | .cpat => nbit o.c.toNat 8
  | _ => false

/-- Every access of a copy performed. -/
def Op.copyDone (o : Op) : Bool :=
  o.errs.isEmpty && (List.range o.spans).all (fun i => o.performed.contains i) &&
    (!o.lands || (List.range o.spans).all (fun i => o.landed.contains i))

/-- Every granule of an exchange applied at the partner, or every element of an `xat` performed there. -/
def Op.sendDone (o : Op) : Bool := (List.range o.spans).all fun i => o.delivered.contains i

/-- How an outstanding copy or exchange ends when its kernel is killed (04 R128): good when every access has been
performed, also before its completion was made. Those of a `cpsq` are its four spans, and its entry need not have been
queued (DESIGN CHOICE, assumption 25). -/
def Op.killToken (o : Op) : Token :=
  match o.kind with
  | .cpld | .cpst | .cpfill | .cpga | .cpsc | .cpsq | .cpat => if o.copyDone then .good else .error 4
  | .xsend | .xcc | .xat => if o.sendDone then .good else .error 4
  | _ => .error 4

/-- How an outstanding operation ends at a kill among the operations `l` of its context: a fence completes with
its covered operations, in error with them (04 R122, R128). -/
def Op.endToken (l : List Op) (o : Op) : Token :=
  if o.kind == .fence then
    if o.coveredError || l.any fun p => o.covers.contains p.id && p.killToken.isErr then .error 2 else .good
  else o.killToken

/-- A context after a kill: its operations end, and the tokens outstanding are recorded (R128). -/
def Context.endOps (c : Context) : Context :=
  let out := tokMask c Token.isOut
  let toks := (c.ops.filter fun o => !o.tokenOver).foldl (fun v o => v.set o.token.val (o.endToken c.ops)) c.tok
  { c with tok := toks, ops := [], outAtKill := BitVec.ofNat 32 out }

/-- The count since which a context has been frozen in trap service, a heavy save that drains there among it
(R31, 22 R403). -/
def Run.serviceSince : Run → Option Word
  | .service g => some g
  | .saving _ _ (some g) => some g
  | _ => none

/-- How long the trap service that a context is in, or is saved in, has lasted (01 R31). -/
def Run.serviceTime (r : Run) (gbc : Word) : Option Word :=
  match r with
  | .saved spent => some spent
  | r => r.serviceSince.map (gbc - ·)

/-- The freeze that a context is in ends now: it is counted (25 R449), but for what of it has been counted where the
context was released (22 R409). -/
def State.closeFreeze (s : State) (b : Fin 8) (c : Context) : State :=
  let g := (s.brick b).gbc
  match c.run.serviceTime g, c.frozenSince with
  | some n, _ => s.telFreeze b 2 (n - c.svcCounted).toNat
  | none, some (g0, .token) => s.telFreeze b 0 (g - g0).toNat
  | none, some (g0, .arrival) => s.telFreeze b 1 (g - g0).toNat
  | none, none => s

/-- The launch queue of a context's kernel, as the log names it (23 R426). -/
def State.queueOf (s : State) (c : Context) : Nat :=
  match s.kernel c.kernel with
  | some k => k.queue.val
  | none => 0xFFFF

/-- ASID and generation of a context (02 R83). -/
def Context.asid (c : Context) : Nat := nbits c.asgen.toNat 16 16
def Context.gen (c : Context) : Nat := nbits c.asgen.toNat 0 16

/-- The entry of a save, restore or release (23 R428). -/
def State.logContext (s : State) (b : Fin 8) (q : Fin 4) (type kind err : Nat) : State :=
  let c := s.ctx b q
  s.logEvent b type (s.queueOf c) (le 8 q.val ++ le 8 kind ++ le 8 c.asid ++ le 8 err)

/-- KIND of the save that a context drains for. -/
def Run.heavySave : Run → Bool
  | .saving heavy _ _ => heavy
  | _ => false

/-- A save that its context's end cuts off fails with ERR 0x2, and is logged (22 R417, 23 R428). -/
def State.cutSave (s : State) (b : Fin 8) (q : Fin 4) : State :=
  if (s.seat b q).busy then
    (s.setSeat b q { s.seat b q with busy := false, done := false, err := 2 }).logContext b q 0x0030
      (if (s.ctx b q).run.heavySave then 1 else 0) 2
  else s

/-- The tokens with unconsumed errors that a task held when it was released before (22 R417). -/
def Kernel.relErr (k : Kernel) (coord : Nat) : BitVec 32 :=
  (k.relErrs.filter fun r => r.1 == coord).foldl (fun a r => a ||| r.2) 0

/-- A context with the errors that its task held at earlier releases among those that nothing consumed (22 R417). -/
def State.withRelErr (s : State) (c : Context) : Context :=
  match s.kernel c.kernel with
  | some k => { c with unconsumed := c.unconsumed ||| k.relErr c.coord }
  | none => c

/-- TIBEAT of a task joins what its kernel keeps, in the place of an earlier one (05 R146). -/
def Kernel.putTibeat (k : Kernel) (coord v : Nat) : Kernel :=
  { k with tibeats := (coord, wd v) :: k.tibeats.filter fun t => t.1 != coord }

/-- A task ends: its record joins the kernel's, its quarters become dirty, its slip is counted
(R43, R400, R415, 25 R449). -/
def State.endTask (s : State) (b : Fin 8) (q : Fin 4) (c : Context) (e : EndInfo) : State :=
  let rec0 := taskRecord s b q (s.withRelErr c) e
  let run : Run := match e.kind with
    | .halted => .ended
    | _ => .killed
  let sl := (c.endSlip (s.brick b).gbc e.kind).toNat
  let s0 := (s.closeFreeze b c).cutSave b q
  let s1 := s0.setSeat b q { s0.seat b q with
    ctx := { c with run := run, phase := .entry, frozenSince := none }
    armedReg := false, runReg := false, committed := false, resumeOwed := false }
  let s2 := (s1.dirty b q).tel b 0x02 0 (logBin sl) 1
  let s3 := match s2.kernel c.kernel with
    | some k => s2.setKernel { k.putTibeat c.coord e.tibeat with reports := k.reports ++ [(c.coord, rec0)] }
    | none => s2
  { s3 with cur := if s3.cur == some ⟨b, q⟩ then none else s3.cur }

/-! ### Completion of a kernel (21 R399, R400) -/

/-- Number of slots of a queue's rings. -/
def Queue.n (q : Queue) : Nat := 2 ^ q.log2n.toNat

/-- A completion entry (R399). -/
def completionEntry (tag : Word) (seq : BitVec 16) (status reason len gbc : Nat) : List Byte :=
  padTo 32 (le 8 tag.toNat ++ le 2 seq.toNat ++ le 1 status ++ le 1 reason ++ le 4 len ++ le 8 gbc)

/-- A report header (R400). -/
def reportHeader (tag : Word) (seq : BitVec 16) (status reason ntask ndim flags gbcs gbcend pfree
    pbase first : Nat) : List Byte :=
  padTo 64 (le 8 tag.toNat ++ le 2 seq.toNat ++ le 1 status ++ le 1 reason ++ le 2 ntask ++
    le 1 ndim ++ le 1 flags ++ le 8 gbcs ++ le 8 gbcend ++ le 2 pfree ++ le 2 pbase ++ le 2 first)

/-- The report is written, the entry posted, CTAIL advanced and the vector raised, in this order
(R399); a report area that is not mapped gives REPORTLEN 0 (R402). Where the completion ring cannot be written there is
no entry, CTAIL stays and no vector is raised (DESIGN CHOICE, assumption 28). -/
def State.post (s : State) (q : Fin 64) (tag : Word) (seq : BitVec 16) (status reason gbcend : Nat)
    (reportVa : Nat) (report : List Byte) : State :=
  let qu := s.queue q
  let (s1, len) := match s.vwrite qu.asid.toNat reportVa report with
    | some s' => (s', report.length)
    | none => (s, 0)
  let s4 := match s1.vwrite qu.asid.toNat (qu.cbase.toNat + 32 * (qu.ctail.toNat % qu.n))
      (completionEntry tag seq status reason len gbcend) with
    | some s2 =>
      let s3 := s2.setQueue q { s2.queue q with ctail := qu.ctail + 1 }
      if qu.ien then { s3 with interrupts := s3.interrupts ++ [1 + q.val] } else s3
    | none => s1
  s4.logEvent 0 0x0021 q.val (le 8 tag.toNat ++ le 8 status ++ le 8 reason ++ le 8 gbcend)

/-- A kernel whose tasks have all ended completes (R44). GBCEND is the count of brick 0 at the end of the last task
(assumption 20). A kernel that a release ended without a kill is aborted with REASON 0 (assumption 30). The tasks'
TIBEAT stand beside the report (05 R146, assumption 20). -/
def State.completeKernel (s : State) (k : Kernel) : State :=
  let g := (k.endGbc.getD (s.brick 0).gbc).toNat
  let recs := sortBy Prod.fst k.reports
  let n := recs.length
  let fit := min n ((k.reportLen - 64) / 384)
  let (status, reason, first) := match k.firstKill with
    | some (c, p) => (1, c.toNat, p.toNat)
    | none => (if k.relRecs.isEmpty then 0 else 1, 0, 0)
  let hdr := reportHeader k.tag k.seq status reason (2 ^ k.ndim) k.ndim (if fit < n then 1 else 0)
    k.gbcs.toNat g k.pfree.toNat k.pbase.toNat first
  let body := ((recs.take fit).map Prod.snd).flatten
  let s1 := { s with kernels := s.kernels.filter (·.id != k.id) }
  let s2 := s1.post k.queue k.tag k.seq status reason g k.report (hdr ++ body)
  s2.setQueue k.queue { s2.queue k.queue with tibeats := sortBy Prod.fst k.tibeats }

/-- The kernel that a payload belongs to. -/
def payloadKernel : Payload → Option Nat
  | .granule k _ _ _ _ _ _ _ => some k
  | .done k _ _ _ _ _ _ => some k
  | .xat k _ _ _ _ _ _ => some k
  | .bar k _ => some k
  | _ => none

/-- Something of a kernel is still to be delivered or discarded over a link (04 R124): it waits at the receiver, or
at a sender, whose link may have failed and may yet get a detour (24 R437, R439). -/
def Link.carries (l : Link) (id : Nat) : Bool :=
  let of (p : Payload) : Bool := payloadKernel p == some id
  l.rx.any of || l.held.any of || l.unacked.any fun f => of f.payload

/-- Exchange traffic of a kernel is in flight. -/
def State.inFlight (s : State) (id : Nat) : Bool :=
  (List.finRange 8).any fun b => (List.finRange 12).any fun d => (s.link b d).carries id

/-- A task of a kernel has been released, and what it has started still drains (22 R416). -/
def Context.drains (c : Context) (id : Nat) : Bool :=
  c.kernel == id && match c.run with
    | .released _ => true
    | _ => false

/-- Some task of a kernel drains. -/
def State.draining (s : State) (id : Nat) : Bool := allSeats.any fun p => (s.ctx p.1 p.2).drains id

/-- Whether a context has ended, one way or the other. -/
def Run.over : Run → Bool
  | .ended | .killed | .empty | .released _ => true
  | _ => false

/-- A seat holds a task of a kernel that has not ended. -/
def State.holdsTask (s : State) (id : Nat) : Bool :=
  allSeats.any fun p => (s.ctx p.1 p.2).kernel == id && !(s.ctx p.1 p.2).run.over

/-- A kernel whose last task has ended: the count, and its place in the order of ends (R44, 21 R399). -/
def State.ended (s : State) (k : Kernel) : Kernel :=
  { k with
    endGbc := some (k.endGbc.getD (s.brick 0).gbc)
    endPos := if k.endPos = 0 then 1 + (s.kernels.map (·.endPos)).foldl max 0 else k.endPos }

/-- A kernel's report must wait: its exchanges are not all delivered or discarded, a released task of it still drains
(04 R124), or a kernel of its queue that ended before it is still to post (21 R399). -/
def State.postWaits (s : State) (k : Kernel) : Bool :=
  s.inFlight k.id || s.draining k.id ||
    s.kernels.any fun e => e.queue == k.queue && e.endGbc.isSome && decide (e.endPos < k.endPos)

/-- The kernel has ended when every task has reported (R44); its report is posted once all its exchanges have been
delivered or discarded and all its writes performed (04 R124), in the order of the ends (21 R399). A kernel whose
generation has passed goes without a report when no seat holds a task of it (22 R455). -/
def State.checkComplete (s : State) (id : Nat) : State :=
  match s.kernel id with
  | some k =>
    if k.lapsed then
      if s.holdsTask id || s.draining id then s else { s with kernels := s.kernels.filter (·.id != id) }
    else if k.reports.length < k.seats.length then s
    else
      let k1 := s.ended k
      if s.postWaits k1 then s.setKernel k1 else s.completeKernel k1
  | none => s

/-- Kernels that have ended post their reports as soon as they may, in the order of their ends; one whose generation
has passed goes. -/
def State.postReady (s : State) : State :=
  ((sortBy Kernel.endPos (s.kernels.filter fun k => k.endGbc.isSome || k.lapsed)).map (·.id)).foldl
    State.checkComplete s

/-! ### Kill (01 R44, 05 R146) -/

/-- First slot that a partly issued bundle has not issued (05 R142). -/
def Context.splitK (c : Context) : Nat :=
  match c.phase with
  | .issuing k => k.val
  | .split k => k.val
  | _ => 0

/-- Whether the bundle is partly issued. -/
def Context.isSplit (c : Context) : Bool :=
  match c.phase with
  | .issuing _ => true
  | .split _ => true
  | _ => false

/-- The beat of the task's `halt` has been taken, and a crossing at that beat is in service (03 R109). -/
def Context.haltTaken (c : Context) : Bool := c.halting && c.phase == .entry

/-- The number of the last beat that the task took (01 R27, 21 R400). -/
def Context.lastBeat (c : Context) : Nat := if c.haltTaken then c.cbc else c.cbc - 1

/-- End of a task killed with its kernel (R146). -/
def siblingEnd (c : Context) : EndInfo where
  kind := .sibling
  code := 0
  cause := 0
  slot := 0
  prec := 0
  taddr := c.pc
  tbeat := c.cbc
  tinfo := 0
  srw := if c.isSplit then c.splitK else 0
  cbc := c.lastBeat
  tibeat := c.cbc

/-- End of a task by an asynchronous fault that raises no trap status (R134, R142). SRW tells of a bundle that is partly
issued; with none it is 0, whatever an earlier trap left in the register (DESIGN CHOICE, assumption 20). -/
def asyncEnd (c : Context) (kind : TaskEnd) (code cause : Nat) : EndInfo where
  kind := kind
  code := code
  cause := cause
  slot := 0
  prec := 4
  taddr := c.pc
  tbeat := c.cbc
  tinfo := cause
  srw := if c.isSplit then c.splitK else 0
  cbc := c.lastBeat
  tibeat := c.cbc

/-- End of a task by its own fault, from its trap status registers (R146). -/
def ownEnd (c : Context) : EndInfo where
  kind := .killed
  code := nbits c.tstat.toNat 0 8
  cause := nbits c.tstat.toNat 8 8
  slot := nbits c.tstat.toNat 16 3
  prec := nbits c.tstat.toNat 19 3
  taddr := c.taddr.toNat
  tbeat := c.tbeat.toNat
  tinfo := c.tinfo.toNat
  srw := c.srw.toNat
  cbc := c.lastBeat
  tibeat := c.tibeat.toNat

/-- Payloads of a kernel that have not left their senders are dropped (04 R128). -/
def State.dropHeld (s : State) (id : Nat) : State :=
  { s with bricks := s.bricks.map fun x => { x with
      links := x.links.map fun l => { l with held := l.held.filter fun p => payloadKernel p != some id } } }

/-- The records of the tasks that a release ended join those of the tasks that ran (22 R417). -/
def Kernel.joinReleased (k : Kernel) : Kernel :=
  { k with reports := k.reports ++ k.relRecs.filter fun r => !k.reports.any fun e => e.1 == r.1 }

/-- The far brick of a link inside the module. -/
def farOf (b : Fin 8) (d : Fin 12) : Fin 8 := Fin.ofNat 8 (b.val ^^^ 2 ^ d.val)

/-- Whether the far end is a brick of this module. -/
def inModule (d : Fin 12) : Bool := decide (d.val < 3)

/-- A context whose traffic still runs. -/
def Run.live : Run → Bool
  | .empty => false
  | .ended => false
  | .killed => false
  | _ => true

/-- The seat of a kernel's task on a brick. -/
def State.taskOn (s : State) (b : Fin 8) (kernel : Nat) : Option (Fin 4) :=
  match s.kernel kernel with
  | some k => (k.seats.find? fun p => p.1 == b).map Prod.snd
  | none => none

/-- The task of a kernel on a brick that has not ended. -/
def State.liveTask (s : State) (b : Fin 8) (kernel : Nat) : Option (Fin 4) :=
  match s.taskOn b kernel with
  | some q => if (s.ctx b q).kernel == kernel && (s.ctx b q).run.live then some q else none
  | none => none

/-- The token fields of a task's record follow its context (R128). -/
def patchTokens (c : Context) (r : List Byte) : List Byte := r.take 64 ++ c.tokenBytes ++ r.drop 104

/-- The records that a kernel keeps of a released task follow the tokens of what it drained (R128). -/
def Kernel.patchReleased (k : Kernel) (c : Context) : Kernel :=
  let patch (r : Nat × List Byte) : Nat × List Byte := if r.1 == c.coord then (r.1, patchTokens c r.2) else r
  { k with reports := k.reports.map patch, relRecs := k.relRecs.map patch }

/-- The drain of a released task ends: what is still outstanding ends with it, and its record says how (04 R128,
22 R416). -/
def State.endDrain (s : State) (b : Fin 8) (q : Fin 4) : State :=
  let c := (s.ctx b q).endOps
  let s1 := s.setCtx b q { c with run := .ended }
  match s1.kernel c.kernel with
  | some k => s1.setKernel (k.patchReleased (s.withRelErr c))
  | none => s1

/-- The released tasks of a kernel that still drain end with it (04 R128). -/
def State.endDrains (s : State) (id : Nat) : State :=
  (allSeats.filter fun p => (s.ctx p.1 p.2).drains id).foldl (fun t p => t.endDrain p.1 p.2) s

/-- Every task of a kernel that has not ended is killed; `victim` names the tasks that an event kills
directly and how they end (R44, R146). -/
def State.killLive (s : State) (id : Nat) (code : Nat)
    (victim : Fin 8 → Fin 4 → Context → Option EndInfo) : State :=
  match s.kernel id with
  | none => s
  | some k =>
    let alive := k.seats.filter fun p => !(s.ctx p.1 p.2).run.over && (s.ctx p.1 p.2).kernel == id
    let first := alive.find? fun p => (victim p.1 p.2 (s.ctx p.1 p.2)).isSome
    let k1 := match k.firstKill, first with
      | none, some p => { k with firstKill := some (BitVec.ofNat 8 code, BitVec.ofNat 12 p.1.val) }
      | none, none => { k with firstKill := some (BitVec.ofNat 8 code, 0) }
      | _, _ => k
    let s1 := alive.foldl (fun t p =>
      let c := (t.ctx p.1 p.2).endOps
      t.endTask p.1 p.2 c ((victim p.1 p.2 (t.ctx p.1 p.2)).getD (siblingEnd c))) (s.setKernel k1)
    let s2 := match s1.kernel id with
      | some k2 => s1.setKernel k2.joinReleased
      | none => s1
    (s2.dropHeld id).checkComplete id

/-- A kernel is killed: what its released tasks still drain ends, and its other tasks are killed (04 R128). -/
def State.killKernel (s : State) (id : Nat) (code : Nat)
    (victim : Fin 8 → Fin 4 → Context → Option EndInfo) : State :=
  (s.endDrains id).killLive id code victim

/-- A context's own fault kills its kernel (R130). -/
def State.killOwn (s : State) (b : Fin 8) (q : Fin 4) : State :=
  let c := s.ctx b q
  s.killKernel c.kernel (nbits c.tstat.toNat 0 8) fun b' q' x =>
    if b' = b && q' = q then some (ownEnd x) else none

/-- A machine check on one context (R132): its kernel is killed, and the event logged and counted
(23 R428, 25 R449). -/
def State.machineCheck (s : State) (b : Fin 8) (q : Fin 4) (cause : Nat) : State :=
  s.killKernel (s.ctx b q).kernel 0x3C fun b' q' x =>
    if b' = b && q' = q then some (asyncEnd x .machineCheck 0x3C cause) else none

/-- The record of a machine check on a brick: its entry, its count, and the GBC and BOOTCNT of the last
(23 R428, 25 R449). -/
def State.logMachineCheck (s : State) (b : Fin 8) (cause : Nat) : State :=
  let s1 := (s.logEvent b 0x0042 0xFFFF (le 8 cause)).tel b 0x09 cause 0 1
  s1.setBrick b { s1.brick b with
    telDelta := putTel (putTel (s1.brick b).telDelta 0x09 cause 1 (s.brick b).gbc.toNat) 0x09 cause 2
      s.bootcnt.toNat }

def State.modLink (s : State) (b : Fin 8) (d : Fin 12) (f : Link → Link) : State :=
  s.setLink b d (f (s.link b d))

/-- A link passes to failed: unacknowledged flits stay in the replay buffer, and the steward is
interrupted. A link under a detour stays under it (R442). -/
def State.failLink (s : State) (b : Fin 8) (d : Fin 12) (why : Nat) : State :=
  let s1 := s.modLink b d fun l =>
    { l with
      state := .failed, why := BitVec.ofNat 4 why, wire := [], acks := [], downing := none, replayed := []
      askReplay := false }
  (s1.setBrick b { s1.brick b with linkIrq := d.val :: (s1.brick b).linkIrq }).tel b 0x03 d.val
    (1 + why) 1

/-- A detour of brick `i` over dimension `d` runs to or through brick `b`. -/
def Link.detoursBy (l : Link) (i : Fin 8) (d : Fin 12) (b : Fin 8) : Bool :=
  let j := Fin.ofNat 12 l.via.toNat
  l.active && inModule d && (i == b || farOf i d == b || farOf i j == b || farOf (farOf i d) j == b)

/-- A detour ends with the brick that it needs, and is logged as closed (25 R452, 24 R441): its link reads failed
unless it has trained again. -/
def State.dropDetour (s : State) (b i : Fin 8) (d : Fin 12) : State :=
  let l := s.link i d
  if l.detoursBy i d b then
    let s1 := s.setLink i d { l with
      active := false, closing := false, state := if l.state == .detour then .failed else l.state }
    let s2 := if l.state == .detour then
        s1.setBrick i { s1.brick i with linkIrq := d.val :: (s1.brick i).linkIrq } else s1
    s2.logEvent i 0x0041 0xFFFF (le 8 d.val ++ le 8 l.via.toNat)
  else s

/-- A brick leaves service (25 R448): its kernels are killed with the cause given, its links in the module read
failed at both ends, with a WHY that the spec leaves open (assumption 27), detours that need it end (R452), and it
takes nothing more. -/
def State.leaveService (s : State) (b : Fin 8) (cause : Nat) : State :=
  let s1 := (List.finRange 4).foldl (fun t q =>
    if (t.ctx b q).run.over then t
    else t.killKernel (t.ctx b q).kernel 0x3C fun b' _ x =>
      if b' = b then some (asyncEnd x .machineCheck 0x3C cause) else none) s
  let s2 := s1.setBrick b { s1.brick b with inService := false }
  let s3 := { s2 with freeCtr := s2.freeCtr + 1 }
  let why := 1 + Config.choice s1.freeCtr % 6
  let fails (t : State) (i : Fin 8) (d : Fin 12) : State :=
    if (t.link i d).state == .failed then t else t.failLink i d why
  let s4 := (List.finRange 3).foldl (fun t d =>
    fails (fails t (Fin.ofNat 8 (b.val ^^^ 2 ^ d.val)) (Fin.ofNat 12 d.val)) b (Fin.ofNat 12 d.val)) s3
  (List.finRange 8).foldl (fun t i => (List.finRange 12).foldl (fun u d => u.dropDetour b i d) t) s4

end Sys2Proof.Machine
end

