-- ==== Sys2Proof/Machine/Ops.lean ====
section
/-! DEFINITION. Taking a trap and resuming from one (05 R130-R142), and the shared course of a slot
instruction: operands, checks, landing-set entries (05 R136, R139, 18 R346, R347). -/

namespace Sys2Proof.Machine

/-! ### Taking a trap (05 R130-R137) -/

/-- Precision of a fault (05 R131). -/
inductive Prec where
  | slot | bundle | boundary | deferred
  deriving DecidableEq, Repr

def Prec.code : Prec → Nat
  | .slot => 0 | .bundle => 1 | .boundary => 2 | .deferred => 3

/-- What a fault supplies (05 R132, R134). -/
structure Trap where
  code : Nat
  cause : Nat
  info : Word
  prec : Prec
  slot : Nat
  /-- address of the bundle that issues at resume, or that issued the operation -/
  addr : Nat
  beat : Nat
  ibeat : Nat
  deriving DecidableEq, Repr

/-- The trap status registers written when a fault is raised (R134). SRW.K of a fault before slot 0 is 0, but for a
split whose slots froze (R148, assumption 20). SRW of a deferred fault, for which R131 gives none, is 0 (DESIGN CHOICE,
assumption 20). -/
def Context.setTrap (c : Context) (t : Trap) : Context :=
  { c with
    srw := BitVec.ofNat 4 ((match t.prec with
      | .slot => t.slot
      | .bundle => t.slot
      | .boundary => 8
      | .deferred => 0))
    tstat := wd (t.code + t.cause * 2 ^ 8 + (if t.prec = .slot then t.slot else 0) * 2 ^ 16 +
      t.prec.code * 2 ^ 19)
    taddr := BitVec.ofNat 21 t.addr
    tbeat := wd t.beat
    tinfo := t.info
    tibeat := wd t.ibeat }

/-- Class S or Pol: firmware services the fault and the context resumes (R130, R132). -/
def serviced (code : Nat) : Bool := code == 0x20 || code == 0x21 || code == 0x22 || code == 0x28

/-- A trap is taken: the status registers are written; a serviced fault freezes the context in
service, unless it recurs at the same slot with no beat taken in between (R138); every other fault
kills the kernel (R130). What the fetcher holds for a command that has not issued is kept for its own fault alone. -/
def State.takeTrap (s : State) (b : Fin 8) (q : Fin 4) (t : Trap) : State :=
  let c := (s.ctx b q).setTrap t
  let again := c.serviced == some (t.code, t.slot, c.pc, c.cbc) && t.prec == .slot
  if serviced t.code && !again then
    let ph : Phase := match t.prec with
      | .slot => .split (Fin.ofNat 8 t.slot)
      | _ => .entry
    let s1 := s.setCtx b q
      { c with
        run := .service (s.brick b).gbc, phase := ph, frozenSince := none, svcDone := false, svcCounted := 0
        slipHeld := c.slipAt (s.brick b).gbc c.cbc
        pre := if t.code == 0x22 then c.pre else none }
    { s1 with cur := if s1.cur == some ⟨b, q⟩ then none else s1.cur }
  else (s.setCtx b q c).killOwn b q

/-- A fault at the issue of slot `k` (R136): slots 0 to k-1 have issued, slots k to 7 are
suppressed. -/
def State.slotTrap (s : State) (b : Fin 8) (q : Fin 4) (k : Nat) (code cause : Nat) (info : Word) :
    State :=
  let c := s.ctx b q
  s.takeTrap b q ⟨code, cause, info, .slot, k, c.pc, c.cbc, c.cbc⟩

/-- A fault before slot 0 issues (R131). -/
def State.bundleTrap (s : State) (b : Fin 8) (q : Fin 4) (code cause : Nat) (info : Word) : State :=
  let c := s.ctx b q
  s.takeTrap b q ⟨code, cause, info, .bundle, 0, c.pc, c.cbc, c.cbc⟩

/-- The return from a serviced trap (R137): the context runs again, at the split bundle's slot or at
its next bundle; none of the trap status registers changes. The serviced fault is remembered until
a beat is taken (R138). -/
def Context.resume (c : Context) : Context :=
  { c with
    run := .running
    svcDone := false
    serviced := match c.phase with
      | .split k => some (nbits c.tstat.toNat 0 8, k.val, c.pc, c.cbc)
      | _ => none }

/-! ### The landing set (05 R139, 18 R346, R347) -/

/-- Entries counted at beat `x`: issue before `x`, last beat not before it. -/
def Context.counted (c : Context) (x : Nat) : Nat :=
  (c.lset.filter fun e => e.issue < x && x ≤ e.last).length

/-- Entries held at the issue of a slot of beat `x`: those counted, and those that this bundle has
added and that outlast it (R347). -/
def Context.heldAt (c : Context) (x : Nat) : Nat :=
  (c.lset.filter fun e => (e.issue < x && x ≤ e.last) || (e.issue == x && x < e.last)).length

/-! ### The course of a slot -/

/-- What a slot does when it issues: it acts on the context, or raises a fault. -/
inductive Issue where
  | act (c : Context)
  | trap (code cause : Nat) (info : Word)
  /-- a fault that follows a change, as the consumption of a token that completed with an error -/
  | trapWith (c : Context) (code cause : Nat) (info : Word)
  /-- the freeze condition of 05 R135 still holds: the bundle has not come to issue -/
  | wait
  deriving DecidableEq, Repr

/-- The phase after slot `k` (01 R23). -/
def nextPhase (k : Fin 8) : Phase :=
  if h : k.val + 1 < 8 then .issuing ⟨k.val + 1, h⟩ else .beatDue

/-- A landing-set entry of an operation that issues now in slot `k` and holds it through `last`. -/
def Context.enter (c : Context) (k last : Nat) : Context :=
  { c with lset := { issue := c.cbc, slot := k, last := last, copy := none } :: c.lset }

/-- The entry of an operation whose effects end in its own beat (R344: E = b): it is never counted, and it stands
in the landing set only while its bundle is split (R347). -/
def Context.hold (c : Context) (k : Nat) : Context := c.enter k c.cbc

/-- An effect scheduled by an operation that issues now in slot `k`. -/
def Context.sched (c : Context) (k due : Nat) (e : Eff) : Context :=
  { c with timed := { due := due, issue := c.cbc, slot := k, addr := BitVec.ofNat 21 c.pc, eff := e }
      :: c.timed }

/-- A slot has issued: a halt bundle admits no operation that would outlive the task (01 R43), and
the landing set holds at most 96 entries (R139). The operation's own checks have come first: the spec orders its faults
and these nowhere (DESIGN CHOICE, assumption 19). -/
def State.finishSlot (s : State) (b : Fin 8) (q : Fin 4) (k : Fin 8) (c c' : Context) : State :=
  let late := c.halting && c.lset.length < c'.lset.length &&
    c'.lset.head?.any (fun e => c.cbc < e.last)
  if late then s.slotTrap b q k.val 0x18 0 (wd (c.counted c.cbc))
  else if 96 < c'.heldAt c.cbc then s.slotTrap b q k.val 0x0A 3 (wd (c.heldAt c.cbc))
  else s.setCtx b q { c' with phase := nextPhase k }

/-- A slot instruction: the slot that the cursor's context is issuing makes its checks and acts.
Where no bundle is issuing the instruction does not stand, and nothing happens. -/
def State.slotStep (s : State) (f : State → Fin 8 → Fin 8 → Context → Issue) : State :=
  match s.cur with
  | none => s
  | some cu =>
    let c := s.ctx cu.brick cu.seat
    match c.phase with
    | .issuing k =>
      match f s cu.brick k c with
      | .act c' => s.finishSlot cu.brick cu.seat k c c'
      | .trap code cause info => s.slotTrap cu.brick cu.seat k.val code cause info
      | .trapWith c' code cause info =>
        (s.setCtx cu.brick cu.seat c').slotTrap cu.brick cu.seat k.val code cause info
      | .wait =>
        { s.setCtx cu.brick cu.seat { c with phase := .split k } with cur := none }
    | _ => s

/-- The outcome of a slot instruction. -/
def slotOut (s : State) (f : State → Fin 8 → Fin 8 → Context → Issue) :
    Host.Outcome State Fault Refusal :=
  .next (s.slotStep f)

/-- An operation that acts when bit 0 of its guard is 1 (07 R168): `f` is given the context, the
registers as the bundle reads them, and the slot. -/
def guarded (g : Fin 16) (f : Context → Context → Nat → Issue) :
    State → Fin 8 → Fin 8 → Context → Issue :=
  fun _ _ k c => if c.view.guard g then f c c.view k.val else .act c

/-- A slot-7 operation other than `fencw`: none may act in a halt bundle (01 R43). -/
def guarded7 (g : Fin 16) (f : State → Fin 8 → Context → Context → Issue) :
    State → Fin 8 → Fin 8 → Context → Issue :=
  fun s b _ c =>
    if c.view.guard g then
      if c.halting then .trap 0x18 0 (wd (c.counted c.cbc)) else f s b c c.view
    else .act c

/-- A scalar result that lands `n` beats after issue, with its landing-set entry (18 R344, R346). -/
def Context.result (c : Context) (k : Nat) (d : Fin 32) (n : Nat) (v : Word) : Context :=
  (c.sched k (c.cbc + n) (.xw d v)).enter k (c.cbc + n - 1)

/-- A scalar operation of latency `n` (08 R177, R188). -/
def scalarOp (g : Fin 16) (d : Fin 32) (n : Nat) (f : Context → Word) (s : State) :
    Host.Outcome State Fault Refusal :=
  slotOut s (guarded g fun c v k => .act (c.result k d n (f v)))

/-! ### Instruction memory (07 R163-R167) -/

/-- Bit 0 up of the bundle at the program counter. -/
def Context.bundle (c : Context) : Nat := getN c.imem c.pc 48

/-- Its header. -/
def Context.header (c : Context) : Nat := c.bundle % 2 ^ 32

/-- Slot `k` of a bundle. -/
def slotOf (bun k : Nat) : Nat := nbits bun (32 + 44 * k) 44

/-- What slot `k` of a bundle holds: nothing for a carrier, or its decoding. -/
def slotInstr (bun : Nat) (k : Fin 8) : Option (Except Nat Instr) :=
  let h := bun % 2 ^ 32
  if isCarrier h k.val then none
  else some (decodeSlot k (slotOf bun k.val) (longFor h (slotOf bun) k.val))

end Sys2Proof.Machine
end

