-- ==== Sys2Proof/Machine/Accum.lean ====
section
/-! DEFINITION. The accumulator at one beat (10 R241), and the registers as `csrr` reads them
(08 R186, R187). -/

namespace Sys2Proof.Machine

/-- A vector with one lane replaced. -/
def setLane (v : VReg) (i : Nat) (x : BitVec 32) : VReg :=
  (v &&& ~~~((BitVec.allOnes 32).zeroExtend 16384 <<< (32 * i))) |||
    (x.zeroExtend 16384 <<< (32 * i))

/-- A bank; zero where nothing is listed (02 R75). -/
def bankOf (banks : List (Nat × VReg)) (n : Nat) : VReg := mapGet 0 banks n

/-- Banks `first` to `first + n - 1` zeroed. -/
def zeroBanks (banks : List (Nat × VReg)) (first n : Nat) : List (Nat × VReg) :=
  banks.filter fun e => !(first ≤ e.1 && e.1 < first + n)

/-- An accumulation in INT32 mode: the clipped sum, and the update when it clips (03 R100). -/
def addClip (old : BitVec 32) (d : Int) (k : Fin 16) : BitVec 32 × List CntUpd :=
  let t := old.toInt + d
  if t > 2 ^ 31 - 1 then
    (0x7FFF_FFFF#32, [⟨k, 1, roundMag fp32 .up t.natAbs 0⟩])
  else if t < -(2 ^ 31) then
    (0x8000_0000#32, [⟨k, 1, roundMag fp32 .up t.natAbs 0⟩])
  else (BitVec.ofInt 32 t, [])

/-- An accumulator element after a contribution, and the update of a clip (03 R100, 10 R231). -/
def addContrib (old : BitVec 32) (x : Contrib) : BitVec 32 × List CntUpd :=
  let z := if x.init then 0 else old
  match x.val with
  | .fp bits => (f32Add z bits, [])
  | .int d k => addClip z d k

/-- The banks, the counter updates of clips, and the contributions that came before those of earlier-issued
commands. -/
structure Acc where
  banks : List (Nat × VReg)
  clips : List CntUpd
  late : List LateSum
  deriving DecidableEq, Repr

/-- Contributions of later-issued commands made again, in their order, on the element `v`. -/
def redo (v : BitVec 32) : List LateSum → BitVec 32 × List LateSum
  | [] => (v, [])
  | e :: t =>
    let r := redo (addContrib v e.x).1 t
    (r.1, { e with base := v } :: r.2)

/-- The update of the clip that a kept contribution makes on its element as it stands before it. -/
def LateSum.clips (e : LateSum) : List CntUpd := (addContrib e.base e.x).2

/-- One contribution of a command that issued at beat `i`, before those that later-issued commands have made to its
element (03 R100). It is itself kept while `keep` says that an earlier-issued command still owes its bank: its place in
the order of issue, and with it its clip, is then not yet known, and the clip is counted when it is (assumption 24). -/
def contribute (i : Nat) (keep : Bool) (a : Acc) (x : Contrib) : Acc :=
  let after := a.late.filter fun e => e.x.bank == x.bank && e.x.elem == x.elem && decide (i < e.issue)
  let rest := a.late.filter fun e => !(e.x.bank == x.bank && e.x.elem == x.elem && decide (i < e.issue))
  let bank := bankOf a.banks x.bank
  let old := match after with
    | [] => lane bank x.elem
    | e :: _ => e.base
  let s := addContrib old x
  let r := redo s.1 after
  { banks := mapSet 0 a.banks x.bank (setLane bank x.elem r.1)
    clips := if keep then a.clips else a.clips ++ s.2
    late := rest ++ (if keep then [⟨i, old, x⟩] else []) ++ r.2 }

/-- Lines of the stream whose lines are the rows of the accumulator: P of an `mxmm`, T of an `ltlook` (10 R231,
11 R260). -/
def Cmd.accRows (m : Cmd) : Nat :=
  let w := (if m.kind == .ltlook then m.q else m.p).toNat
  nbits w (if nbit w 59 then 80 else 64) 16

/-- A command that accumulates, issued before beat `i`, has contributions to make to a bank after beat `b`. -/
def Cmd.owes (m : Cmd) (i b bank : Nat) : Bool :=
  (m.kind == .mxmm || m.kind == .ltlook) && decide (m.issue < i) && decide (b < m.complete) &&
    decide (m.bank ≤ bank) && decide (bank < m.bank + cdiv m.accRows 16)

/-- Banks zeroed by an effect at its beat: their number from the first (10 R241). -/
def Eff.zeroes : Eff → Option (Nat × Nat)
  | .zeroBanks f n => some (f, n)
  | .freeBanks f n => some (f, n)
  | .readBank _ bk true => some (bk, 1)
  | _ => none

/-- Kept contributions that `p` names stand as they have come: their clips are counted, and they are kept no more. -/
def Acc.settle (a : Acc) (p : LateSum → Bool) : Acc :=
  { a with
    clips := a.clips ++ (a.late.filter p).flatMap LateSum.clips
    late := a.late.filter fun e => !p e }

/-- The zeroing of a beat: what was kept of contributions to the banks goes with them. -/
def Acc.zero (a : Acc) (t : Timed) : Acc :=
  match t.eff.zeroes with
  | some (f, n) =>
    { a.settle fun e => decide (f ≤ e.x.bank) && decide (e.x.bank < f + n) with banks := zeroBanks a.banks f n }
  | none => a

/-- The accumulator at one beat: zeroing first, then contributions in the issue order of their commands (R241), with
the counter updates of its clips. Across beats too the sums are those of the order of issue (03 R100): a contribution
of an earlier-issued command goes before those that have come. Each clip of these sums counts, once (R100). -/
def Context.accumulate (c : Context) (due : List Timed) : Acc :=
  let keep (i bank : Nat) : Bool := c.cmds.any fun m => m.owes i c.cbc bank
  let z := due.foldl Acc.zero ⟨c.banks, [], c.late⟩
  let a := due.foldl (fun a t => match t.eff with
    | .contribs l => l.foldl (fun a x => contribute t.issue (keep t.issue x.bank) a x) a
    | _ => a) z
  a.settle fun e => !keep e.issue e.x.bank

/-- Pushes less pops that an effect makes, in records (12 R278). -/
def Eff.tapeMove : Eff → Int
  | .store _ push => push.length
  | .revStore l _ _ _ => -(l.length : Int)
  | .markPush _ => 1
  | .markPop _ => -1
  | _ => 0

/-- Net movement of the cursor, in bytes, of a list of effects. -/
def tapeMoves (l : List Timed) : Int := l.foldl (fun a t => a + 8 * t.eff.tapeMove) 0

/-- The context with every register update of its present beat landed, counters and TAPEC included
(08 R186). QCNT is not among them: a `csrr` in a Q bundle reads the count without that bundle, which raises it when it
takes its beat (01 R47; DEDUCED, assumption 19). -/
def Context.csrView (c : Context) : Context :=
  let due := dueAt c.timed c.cbc
  let v := c.landRegs due
  let upd := counterUpds due ++ (c.accumulate due).clips
  let w := v.bumpAll upd
  { w with tapec := BitVec.ofInt 27 (c.tapec.toNat + tapeMoves due) }

/-- Value of a control and status register (R187); reserved fields read 0. -/
def csrRead (gbc : Word) (c : Context) (n : Nat) : Word :=
  match n with
  | 0x000 => c.crd
  | 0x001 => c.scmask
  | 0x002 => c.dimmap
  | 0x003 => c.seatf
  | 0x004 => c.asgen
  | 0x010 => gbc
  | 0x011 => c.gbcs
  | 0x012 => wd c.cbc
  | 0x013 => c.slipAt gbc c.cbc
  | 0x014 => c.fbud.zeroExtend 64
  | 0x015 => c.qcnt.zeroExtend 64
  | 0x020 => c.rrb.zeroExtend 64
  | 0x021 => c.lc.zeroExtend 64
  | 0x022 => if c.wcol then 1 else 0
  | 0x030 => c.srw.zeroExtend 64
  | 0x031 => c.tstat
  | 0x032 => c.taddr.zeroExtend 64
  | 0x033 => c.tbeat
  | 0x034 => c.tinfo
  | 0x035 => c.tibeat
  | 0x040 => wd c.dmode.code
  | 0x041 => c.tapeb.zeroExtend 64
  | 0x042 => c.tapel.zeroExtend 64
  | 0x043 => c.tapec.zeroExtend 64
  | 0x044 => c.tapes.zeroExtend 64
  | 0x045 => c.tapesa.zeroExtend 64
  | 0x050 => c.scst.zeroExtend 64
  | n =>
    let k : Fin 16 := Fin.ofNat 16 n
    if 0x100 ≤ n && n ≤ 0x10F then (c.count.get k).zeroExtend 64
    else if 0x110 ≤ n && n ≤ 0x11F then (c.amax.get k).zeroExtend 64
    else if 0x120 ≤ n && n ≤ 0x12F then (c.limit.get k).zeroExtend 64
    else 0

/-- Registers that no `csrw` may name (R186, R187). -/
def csrReadOnly (n : Nat) : Bool :=
  n ≤ 0x004 || n == 0x010 || n == 0x011 || n == 0x012 || n == 0x014 || n == 0x015 ||
    (0x030 ≤ n && n ≤ 0x035) || n == 0x040 || n == 0x044

/-- The tape registers that are closed while `DMODE` is not off (02 R78). -/
def csrTape (n : Nat) : Bool := n == 0x041 || n == 0x042 || n == 0x043 || n == 0x045

/-- The effect of a `csrw` at its beat (R186): RW fields take the value, W1C fields clear the bits
written as 1, reserved fields ignore it. -/
def csrWrite (gbc : Word) (c : Context) (n : Nat) (v : Word) : Context :=
  match n with
  | 0x013 => { c with slipOffset := c.slipOffset + v - c.slipAt gbc c.cbc }
  | 0x020 => { c with rrb := v.truncate 5 }
  | 0x021 => { c with lc := v.truncate 32 }
  | 0x022 => { c with wcol := c.wcol && !v.getLsbD 0 }
  | 0x041 => { c with tapeb := BitVec.ofNat 27 (nbits v.toNat 6 21 * 64) }
  | 0x042 => { c with tapel := BitVec.ofNat 27 (nbits v.toNat 6 21 * 64) }
  | 0x043 => { c with tapec := v.truncate 27 }
  | 0x045 => { c with tapesa := BitVec.ofNat 52 (nbits v.toNat 12 40 * 4096) }
  | 0x050 => { c with scst := c.scst &&& ~~~(v.truncate 16) }
  | n =>
    let k : Fin 16 := Fin.ofNat 16 n
    if 0x100 ≤ n && n ≤ 0x10F then { c with count := c.count.set k.val (v.truncate 48) }
    else if 0x110 ≤ n && n ≤ 0x11F then { c with amax := c.amax.set k.val (amaxWrite v.toNat) }
    else if 0x120 ≤ n && n ≤ 0x12F then { c with limit := c.limit.set k.val (v.truncate 48) }
    else c

end Sys2Proof.Machine
end

