-- ==== Sys2Proof/Machine/Access.lean ====
section
/-! DEFINITION. Scalar and vector scratchpad access in every differentiable mode: `lds`, `sts` and
slot 3 (08 R193-R195, 09 R211-R221, 12 R277-R281, 02 R63, R72, R79). An access is a list of lanes
with their addresses; a scalar access has the one lane 0. -/

namespace Sys2Proof.Machine

/-! ### Addresses and their checks -/

/-- The active lanes with their addresses, ascending. -/
def laneList (m : PReg) (la : LaneAddrs) (w : Nat) : List (Nat × Nat) :=
  (activeLanes m).map fun i => (i, la.at w i)

/-- Whether a byte displacement is a multiple of the access size: a long one need not be, and the access then
raises the alignment fault wherever its address lies (07 R166). -/
def dispAligned (w : Nat) (d : Disp) : Bool := (dispVal w d).toInt % w == 0

/-- The checks of R211 and R215 over active lanes: range at the lowest lane that passes the share, then
alignment of the base and, where the form has one, of the byte displacement (07 R166). -/
def checkLanes (c : Context) (l : List (Nat × Nat)) (w : Nat) (base : Word) (stepped : Bool) (k : Issue) :
    Issue :=
  match l.find? fun p => c.spadShare < p.2 + w with
  | some p => .trap 0x02 0 (wd p.2)
  | none => if base.toNat % w ≠ 0 ∨ stepped = false then .trap 0x03 0 base else k

/-- The checks of R193: ADDR against the share, then its alignment and that of the byte displacement
(07 R166). -/
def checkScalar (c : Context) (addr : Word) (w : Nat) (stepped : Bool) (k : Issue) : Issue :=
  if c.spadShare ≤ addr.toNat then .trap 0x02 0 addr
  else if addr.toNat % w ≠ 0 ∨ stepped = false then .trap 0x03 0 addr
  else k

/-! ### Loads (08 R193-R195, 09 R212, R218, R219) -/

/-- A lane of an access with the region elements that it covers. -/
structure Cover where
  lane : Nat
  addr : Nat
  elems : List Elem
  deriving DecidableEq, Repr

/-- The lanes of an access with what they cover; nothing while the access is not taped. -/
def Context.covers (c : Context) (taped : Bool) (l : List (Nat × Nat)) (w : Nat) : List Cover :=
  l.map fun p => ⟨p.1, p.2, if taped then c.covered p.2 w else []⟩

/-- Bits of a covered element in the register value of its lane (08, "Scalar access in differentiable
modes"). -/
def elemBits (val addr : Nat) (e : Elem) : BitVec 32 :=
  BitVec.ofNat 32 (nbits val (8 * (e.addr - addr)) (8 * e.width))

/-- A load of element width `w` that performs at `off` and lands at `lat` (R195, R219): in reverse mode the lanes that
cover a region element accumulate, when the access is whole, and read nothing. Those that cover none read and write
their lanes as with `DMODE` off (DEDUCED, assumption 21). `read` gives the ordinary load without the lanes it is told.
-/
def Context.load (c : Context) (k w off lat : Nat) (taped : Bool) (l : List (Nat × Nat))
    (val : Nat → Nat) (read : List Nat → Eff) : Context :=
  let cov := c.covers (taped && c.dmode == .rev) l w
  let cut := (cov.filter fun x => !x.elems.isEmpty).map Cover.lane
  let acc := cov.flatMap fun x => (x.elems.filter fun e => e.width ≤ w).map fun e =>
    { cell := e.cell, abf16 := e.abf16, pbf16 := e.width == 2
      value := elemBits (val x.lane) x.addr e : Accum }
  let c1 := if acc.isEmpty then c else c.sched k (c.cbc + off) (.accum acc)
  if cut.length = l.length then c1.enter k (c.cbc + off)
  else (c1.sched k (c.cbc + off) (read cut)).enter k (c.cbc + lat - 1)

/-! ### Stores (08 R193-R195, 09 R213, R218, R220) -/

/-- The projected cursor of 12 R278. -/
def Context.projected (c : Context) : Int := c.tapec.toNat + tapeMoves c.timed

/-- A store into the tape window while `DMODE` is not off: the lowest address of the window that its active lanes would
reach (02 R79). Of which lane 05 R132 does not say (DESIGN CHOICE, assumption 21). -/
def Context.storeWindow (c : Context) (l : List (Nat × Nat)) (w : Nat) : Option Nat :=
  (l.filterMap fun p => c.windowHit p.2 w).min?

/-- Records of a store, ascending: all pairs of lane and element, or one for each element
(09 R218). -/
def pushList (every : Bool) : Option Nat → List (Nat × Nat × Elem) → List (Nat × Nat × Elem)
  | _, [] => []
  | prev, r :: t =>
    if !every && prev == some r.2.2.addr then pushList every prev t
    else r :: pushList every (some r.2.2.addr) t

/-- The byte writes of the lanes of a store. -/
def storeBytes (l : List (Nat × Nat)) (w : Nat) (val : Nat → Nat) : List (Nat × Byte) :=
  l.flatMap fun p => bytesAt p.2 (toBytes w (val p.1))

/-- One popped element of a reverse-mode store. -/
def revElem (w : Nat) (r : Nat × Nat × Elem) : RevElem where
  elem := r.2.2
  whole := r.2.2.width ≤ w
  lane := r.1
  shift := 8 * (r.2.2.addr - r.2.1)

/-- The records that a taped store of these lanes pushes or pops, in push order, with the lane and address
of each (08 R194, 09 R218). -/
def storeRecs (cov : List Cover) (scatter : Bool) : List (Nat × Nat × Elem) :=
  pushList scatter none (cov.flatMap fun x => x.elems.map fun e => (x.lane, x.addr, e))

/-- A store of element width `w` that performs at `off`, and in reverse mode lands at `lat`, if a whole access gives
it a register result (R194, R195, R218, R220, 12 R278, 18 R346). `dest` gives the register without the lanes it is
told. -/
def Context.store (c : Context) (k w off lat : Nat) (scatter : Bool) (l : List (Nat × Nat))
    (val : Nat → Nat) (dest : List Nat → RevDest) : Issue :=
  match c.storeWindow l w with
  | some a => .trap 0x0C 1 (wd a)
  | none =>
    let cov := c.covers (c.dmode != .off) l w
    let recs := storeRecs cov scatter
    let moved : Int := 8 * recs.length
    let ordinary (push : List Elem) : Issue :=
      .act ((c.sched k (c.cbc + off) (.store (storeBytes l w val) push)).enter k (c.cbc + off))
    if recs.isEmpty then ordinary []
    else if c.dmode != .rev then
      if (c.tapel.toNat : Int) < c.projected + moved then .trap 0x20 0 (c.tapec.zeroExtend 64)
      else ordinary (recs.map fun r => r.2.2)
    else if c.projected - moved < c.tapeb.toNat then .trap 0x21 0 (c.tapec.zeroExtend 64)
    else
      let plain := (cov.filter fun x => x.elems.isEmpty).map fun x => (x.lane, x.addr)
      let narrow := (cov.filter fun x => !x.elems.isEmpty && x.elems.all fun e => w < e.width).map
        Cover.lane
      let anyWhole := recs.any fun r => r.2.2.width ≤ w
      .act ((c.sched k (c.cbc + off) (.revStore (recs.reverse.map (revElem w))
        (storeBytes plain w val) (if anyWhole then some (dest narrow) else none)
        (c.cbc + lat))).enter k (if anyWhole then c.cbc + lat - 1 else c.cbc + off))

/-! ### `lds` and `sts` -/

/-- `lds` (08 R193-R195). -/
def execLds (g : Fin 16) (d a : Fin 32) (disp : Disp) (ty : Ty) (s : State) :
    Host.Outcome State Fault Refusal :=
  slotOut s (guarded g fun c v k =>
    let w := scalarBytes ty
    let addr := v.xr a + dispVal w disp
    checkScalar c addr w (dispAligned w disp)
      (.act (c.load k w 2 4 true [(0, addr.toNat)] (fun _ => (v.xr d).toNat)
        fun _ => .ldx d addr.toNat w (signExt ty))))

/-- `sts` (08 R193-R195). -/
def execSts (g : Fin 16) (a : Fin 32) (disp : Disp) (d : Fin 32) (ty : Ty) (s : State) :
    Host.Outcome State Fault Refusal :=
  slotOut s (guarded g fun c v k =>
    let w := scalarBytes ty
    let addr := v.xr a + dispVal w disp
    checkScalar c addr w (dispAligned w disp)
      (c.store k w 2 4 false [(0, addr.toNat)] (fun _ => (v.xr d).toNat) fun _ => .x d))

/-! ### Slot 3 -/

/-- An operation with at least one active lane; with none it does not act (07 R168, 09 R199). -/
def lanewise (g : Fin 16) (f : PReg → Context → Context → Nat → Issue) :
    State → Fin 8 → Fin 8 → Context → Issue :=
  fun _ _ k c =>
    let v := c.view
    let m := v.pr g
    if m = 0 then .act c else f m c v k.val

/-- A mask without the lanes listed. -/
def maskWithout (m : PReg) (cut : List Nat) : PReg :=
  if cut.isEmpty then m else m &&& ~~~(ofPred cut.contains)

/-- The contiguous addresses of R211. -/
def contigAddr (v : Context) (a : Fin 32) (disp : Word) : LaneAddrs := .contig (v.xr a + disp).toNat

/-- The indexed addresses of R215. -/
def indexedAddr (v : Context) (a : Fin 32) (b : Fin 64) : LaneAddrs := .indexed (v.xr a).toNat (v.vr b)

/-- A vector load of the kinds of R212 and R215. -/
def vectorLoad (c v : Context) (k : Nat) (m : PReg) (d : Fin 64) (la : LaneAddrs) (ty : Ty)
    (off lat : Nat) (taped : Bool) : Issue :=
  let w := (vecBytes ty)
  .act (c.load k w off lat taped (laneList m la w) (fun i => (lane (v.vr d) i).toNat)
    fun cut => .ldv (c.physV d).val (maskWithout m cut) la w (signExt ty) (c.cbc + lat))

/-- A vector store of the kinds of R213 and R215. -/
def vectorStore (c v : Context) (k : Nat) (m : PReg) (d : Fin 64) (la : LaneAddrs) (ty : Ty)
    (off lat : Nat) (scatter : Bool) : Issue :=
  let w := (vecBytes ty)
  c.store k w off lat scatter (laneList m la w) (fun i => (lane (v.vr d) i).toNat)
    fun cut => .v (c.physV d).val (maskWithout m cut)

/-- `vld` (R212). -/
def execVld (g : Fin 16) (d : Fin 64) (a : Fin 32) (disp : Disp) (ty : Ty) (s : State) :
    Host.Outcome State Fault Refusal :=
  slotOut s (lanewise g fun m c v k =>
    let addr := v.xr a + dispVal (vecBytes ty) disp
    let la := LaneAddrs.contig addr.toNat
    checkLanes c (laneList m la (vecBytes ty)) (vecBytes ty) addr (dispAligned (vecBytes ty) disp)
      (vectorLoad c v k m d la ty 2 5 true))

/-- `vst` (R213). -/
def execVst (g : Fin 16) (a : Fin 32) (disp : Disp) (d : Fin 64) (ty : Ty) (s : State) :
    Host.Outcome State Fault Refusal :=
  slotOut s (lanewise g fun m c v k =>
    let addr := v.xr a + dispVal (vecBytes ty) disp
    let la := LaneAddrs.contig addr.toNat
    checkLanes c (laneList m la (vecBytes ty)) (vecBytes ty) addr (dispAligned (vecBytes ty) disp)
      (vectorStore c v k m d la ty 2 5 false))

/-- What the comparison of 02 R72 finds: the tag expected, an older one, or a newer one. -/
inductive TagCmp where
  | same | older | newer
  deriving DecidableEq, Repr

/-- The comparison of R72 on a tile. -/
def Context.tagCmp (c : Context) (tile : Nat) (e : BitVec 32) : TagCmp :=
  let d := (e - mapGet 0 c.tags tile).toNat
  if d = 0 then .same else if d < 0x8000_0000 then .older else .newer

/-- The byte at which a contiguous access of `w` bytes a lane first leaves a tile: the lowest active
byte outside it. -/
def outside (l : List (Nat × Nat)) (w base : Nat) : Option Nat :=
  l.findSome? fun p =>
    if p.2 < base then some p.2
    else if base + 4096 < p.2 + w then some (max p.2 (base + 4096)) else none

/-- `vldt`: the tag check at slot 3 (R214). An older tag here means that the freeze condition of 05 R135 holds at a
resumed split, and the bundle waits (05 R137). A byte outside the tile is found before a newer tag: R214 orders the
two causes nowhere (DESIGN CHOICE, assumption 19). -/
def issueVldt (g : Fin 16) (d : Fin 64) (a : Fin 32) (disp : BitVec 8) (b : Fin 32) (ty : Ty) :
    State → Fin 8 → Fin 8 → Context → Issue :=
  lanewise g fun m c v k =>
    let w := (vecBytes ty)
    let addr := v.xr a + disp.signExtend 64 * wd w
    let la := LaneAddrs.contig addr.toNat
    let l := laneList m la w
    checkLanes c l w addr true <|
      match l with
      | [] => .act c
      | (_, first) :: _ =>
        match c.tileOf first with
        | none => .trap 0x0A 2 (wd first)
        | some t =>
          match outside l w (c.tiles.getD t 0) with
          | some x => .trap 0x0A 2 (wd x)
          | none =>
            match c.tagCmp t ((v.xr b).truncate 32) with
            | .newer => .trap 0x0A 1 (wd ((mapGet 0 c.tags t).toNat + t * 2 ^ 32))
            | .older => .wait
            | .same => vectorLoad c v k m d la ty 2 5 false

/-- `vldt` (R214). -/
def execVldt (g : Fin 16) (d : Fin 64) (a : Fin 32) (disp : BitVec 8) (b : Fin 32) (ty : Ty) (s : State) :
    Host.Outcome State Fault Refusal :=
  slotOut s (issueVldt g d a disp b ty)

/-- `vgath` (R215). -/
def execVgath (g : Fin 16) (d : Fin 64) (a : Fin 32) (b : Fin 64) (ty : Ty) (s : State) :
    Host.Outcome State Fault Refusal :=
  slotOut s (lanewise g fun m c v k =>
    let la := LaneAddrs.indexed (v.xr a).toNat (v.vr b)
    checkLanes c (laneList m la (vecBytes ty)) (vecBytes ty) (v.xr a) true
      (vectorLoad c v k m d la ty 3 7 true))

/-- `vscat` (R215). -/
def execVscat (g : Fin 16) (a : Fin 32) (b : Fin 64) (d : Fin 64) (ty : Ty) (s : State) :
    Host.Outcome State Fault Refusal :=
  slotOut s (lanewise g fun m c v k =>
    let la := LaneAddrs.indexed (v.xr a).toNat (v.vr b)
    checkLanes c (laneList m la (vecBytes ty)) (vecBytes ty) (v.xr a) true
      (vectorStore c v k m d la ty 3 7 true))

/-- Element width of `vatom` (R211). -/
def atomBytes : Ty → Nat
  | .bf16 => 2
  | _ => 4

/-- The new element of a read-modify-write (R216, 13 R304). -/
def atomNew (ty : Ty) (op : AtomOp) (old x : BitVec 32) : BitVec 32 :=
  match op with
  | .swap => x
  | .and => old &&& x
  | .or => old ||| x
  | .xor => old ^^^ x
  | .add =>
    match ty with
    | .f32 => f32Add old x
    | .bf16 => BitVec.ofNat 32 (bf16.encode ((b16v old.toNat).add (b16v x.toNat)))
    | _ => old + x
  | .min =>
    match ty with
    | .f32 => toF32 ((f32v old).min (f32v x))
    | .bf16 => BitVec.ofNat 32 (bf16.encode ((b16v old.toNat).min (b16v x.toNat)))
    | .n32 => if x.ult old then x else old
    | _ => if x.slt old then x else old
  | .max =>
    match ty with
    | .f32 => toF32 ((f32v old).max (f32v x))
    | .bf16 => BitVec.ofNat 32 (bf16.encode ((b16v old.toNat).max (b16v x.toNat)))
    | .n32 => if old.ult x then x else old
    | _ => if old.slt x then x else old

/-- `vatom` (R216, R221): the bank unit acts in phase 3 of b + 3; old elements land at b + 7. -/
def execVatom (g : Fin 16) (d : Fin 64) (a : Fin 32) (b : Fin 64) (ty : Ty) (op : AtomOp)
    (noret : Bool) (s : State) : Host.Outcome State Fault Refusal :=
  slotOut s (lanewise g fun m c v k =>
    let w := atomBytes ty
    let la := LaneAddrs.indexed (v.xr a).toNat (v.vr b)
    let l := laneList m la w
    checkLanes c l w (v.xr a) true <|
      match c.storeWindow l w with
      | some x => .trap 0x0C 1 (wd x)
      | none => .act ((c.sched k (c.cbc + 3) (.atom m la ty op (v.vr d)
          (if noret then none else some (c.physV d).val))).enter k
            (if noret then c.cbc + 3 else c.cbc + 6)))

end Sys2Proof.Machine
end

