-- ==== Sys2Proof/Machine/Stream.lean ====
section
/-! DEFINITION. Stream registers (10 R223-R227, R230, R234, R237; 02 R68-R70): their fields, the checks of
`sarm`, the address and the value of each element, and the bytes that a stream reaches. -/

namespace Sys2Proof.Machine

/-- A stream register by its fields (R223). -/
structure Strm where
  base : Nat
  global : Bool
  layout : Nat
  fmt : Nat
  tr : Bool
  raw : Bool
  prec : Nat
  rows : Nat
  cols : Nat
  stride : Nat
  scsrc : Nat
  scbase : Nat
  stage : Nat
  nst : Nat
  armed : Bool
  deriving DecidableEq, Repr

def strm (w : BitVec 192) : Strm where
  base := nbits w.toNat 0 52
  global := nbit w.toNat 52
  layout := nbits w.toNat 53 2
  fmt := nbits w.toNat 55 4
  tr := nbit w.toNat 59
  raw := nbit w.toNat 60
  prec := nbits w.toNat 61 2
  rows := nbits w.toNat 64 16
  cols := nbits w.toNat 80 16
  stride := nbits w.toNat 96 32
  scsrc := nbits w.toNat 128 2
  scbase := nbits w.toNat 132 27
  stage := nbits w.toNat 160 11
  nst := nbits w.toNat 171 5
  armed := nbit w.toNat 191

/-- Bits of a descriptor that are reserved, ARMED among them (R223, 20 R379). -/
def strmReserved (w : BitVec 192) : Bool :=
  nbit w.toNat 63 || nbits w.toNat 130 2 != 0 || nbit w.toNat 159 || nbits w.toNat 176 16 != 0

namespace Strm

/-- Element format. -/
def ty (d : Strm) : Ty := (tyOfCode d.fmt).getD .none

/-- Number of 2-bit planes that an MXINT format stores (02 R69); none of another format. -/
def stored2 (d : Strm) : Nat :=
  match d.ty with
  | .mx4 => 2 | .mx6 => 3 | .mx8 => 4 | _ => 0

def isMx (d : Strm) : Bool := d.stored2 != 0
def isFp8 (d : Strm) : Bool := d.fmt == 9 || d.fmt == 10

/-- Planes read: those of PREC where it selects fewer (R230). -/
def digits (d : Strm) : Nat :=
  match d.prec with
  | 1 => 2
  | 2 => 3
  | _ => d.stored2

/-- Bits of a stored element in row and column layout. -/
def bits (d : Strm) : Nat := tyBits d.ty

def lines (d : Strm) : Nat := if d.tr then d.cols else d.rows
def len (d : Strm) : Nat := if d.tr then d.rows else d.cols
def blocks (d : Strm) : Nat := cdiv d.len 32

/-- Stored lines, and the elements along one (R224). -/
def storedLines (d : Strm) : Nat := if d.layout = 1 then d.cols else d.rows
def along (d : Strm) : Nat := if d.layout = 1 then d.rows else d.cols

/-- Whether a line is read across stored lines. -/
def cross (d : Strm) : Bool := (d.layout == 1) != d.tr

/-- Line bytes LB. -/
def lineBytes (d : Strm) : Nat :=
  if d.layout = 2 then
    match d.ty with
    | .mx4 => 32 * cdiv (cdiv d.cols 32) 2
    | .mx6 => 96 * cdiv (cdiv d.cols 32) 4
    | _ => 32 * cdiv d.cols 32
  else cdiv (d.along * d.bits) 8

/-- One past the last byte of the span of R226 cause 0x07. -/
def top (d : Strm) : Nat := d.base + (d.storedLines - 1) * d.stride + d.lineBytes

/-- Whether layout and format pair (02 R68). -/
def pairs (d : Strm) : Bool :=
  if d.layout = 2 then d.isMx && !d.global
  else d.ty != .mx6

/-- The first contradiction of R226 among causes 0x0D and 0x01 to 0x0C. -/
def cause (d : Strm) (reserved : Bool) (share tiles : Nat) : Option Nat :=
  let unit := if d.global then 64 else 32
  let scales := d.lines * d.blocks
  if reserved || d.layout = 3 || d.prec = 3 || d.scsrc = 3 || d.fmt = 0 || 14 ≤ d.fmt then some 0x0D
  else if !d.pairs then some 0x01
  else if d.rows = 0 || d.cols = 0 then some 0x02
  else if 1 < d.storedLines && d.stride < d.lineBytes then some 0x03
  else if d.base % unit ≠ 0 then some 0x04
  else if d.stride % unit ≠ 0 then some 0x05
  else if !d.global && d.cross && 1 < d.storedLines && d.stride % 1024 ≠ 512 then some 0x06
  else if (if d.global then 2 ^ 52 else share) < d.top then some 0x07
  else if d.prec ≠ 0 && (d.layout ≠ 2 || d.stored2 < d.digits) then some 0x08
  else if d.tr && d.layout = 2 then some 0x09
  else if (d.isMx && d.scsrc = 0) || (!d.isMx && !d.isFp8 && d.scsrc ≠ 0) ||
      (d.scsrc = 1 && share < d.scbase + scales) then some 0x0A
  else if d.scsrc = 2 && 128 < scales then some 0x0B
  else if (if d.global then d.nst < 2 || tiles < d.stage + d.nst else d.nst ≠ 0 || d.stage ≠ 0) then
    some 0x0C
  else none

/-! ### Elements (R224, R230) -/

/-- Where element `j` of line `l` lies in row or column layout: its stored line and its place along
it. -/
def place (d : Strm) (l j : Nat) : Nat × Nat := if d.cross then (j, l) else (l, j)

/-- Address of the byte that holds the start of an element in row or column layout. -/
def addr (d : Strm) (l j : Nat) : Nat :=
  let p := d.place l j
  d.base + p.1 * d.stride + p.2 * d.bits / 8

/-- Address of plane `pl` of block `k` of row `r` in digit-plane layout (02 R69). -/
def planeAddr (d : Strm) (r k pl : Nat) : Nat := d.base + r * d.stride + 8 * d.stored2 * k + 8 * pl

/-- The number whose 2-bit digits are given, lowest first. -/
def ofDigits (f : Nat → Nat) : Nat → Nat → Nat
  | 0, _ => 0
  | n + 1, p => f p + 4 * ofDigits f n (p + 1)

/-- The bits of element `j` of line `l`, through a reader of bytes. -/
def code (d : Strm) (rd : Nat → Byte) (l j : Nat) : Nat :=
  if d.layout = 2 then
    ofDigits (fun p => nbits (rd (d.planeAddr l (j / 32) p + j % 32 / 4)).toNat (2 * (j % 4)) 2) d.digits 0
  else if d.bits = 4 then
    nbits (rd (d.addr l j)).toNat (4 * ((d.place l j).2 % 2)) 4
  else ofBytes ((List.range (d.bits / 8)).map fun i => rd (d.addr l j + i))

/-- The value of an MXINT element's bits (03 R89, R230). -/
def mxVal (d : Strm) (c : Nat) : Int :=
  signed (if d.layout = 2 then 2 * d.digits else d.bits) c

/-- Byte addresses that elements `lo` to `hi - 1` of line `l` occupy in row or column layout. -/
def lineSpan (d : Strm) (l lo hi : Nat) : List Nat :=
  (List.range (hi - lo)).flatMap fun i =>
    (List.range (cdiv d.bits 8)).map fun b => d.addr l (lo + i) + b

/-! ### Spans -/

/-- The spans of a stream's stored lines and of its scale area, as address and length. The bytes between two
stored lines are none of the stream's; its scale area is (assumption 23). -/
def spans (d : Strm) : List (Nat × Nat) :=
  ((List.range d.storedLines).map fun i => (d.base + i * d.stride, d.lineBytes)) ++
    (if d.scsrc = 1 then [(d.scbase, d.lines * d.blocks)] else [])

/-- Logical columns that `acvt` writes: those of whole blocks for an MXINT destination (R246, R247). -/
def destCols (d : Strm) : Nat := if d.isMx then 32 * cdiv d.cols 32 else d.cols

/-- The spans that `acvt` writes: a partial last MXINT block is whole in every layout, and the scale area has a
byte for each block of each row (R246, R247). -/
def destSpans (d : Strm) : List (Nat × Nat) :=
  let line (n i : Nat) : Nat × Nat := (d.base + i * d.stride, n)
  (if d.layout = 2 then (List.range d.rows).map (line d.lineBytes)
    else if d.layout = 1 then (List.range d.destCols).map (line d.lineBytes)
    else (List.range d.rows).map (line (cdiv (d.destCols * d.bits) 8))) ++
    if d.isMx then [(d.scbase, d.rows * cdiv d.cols 32)] else []

end Strm

/-- The lowest enabled region that spans without RAW overlap (R234). -/
def Context.streamRegion (c : Context) (l : List (Nat × Nat)) : Option Nat :=
  (l.filterMap fun p => c.regionHit p.1 p.2).min?

/-- The first address of spans in the closed tape window (02 R79). -/
def Context.spanWindow (c : Context) (l : List (Nat × Nat)) : Option Nat :=
  (l.filterMap fun p => c.windowHit p.1 p.2).min?

/-! ### The scale queue (R236, R237) -/

/-- Whether a `cpsq` is outstanding. -/
def Context.sqPending (c : Context) : Bool := c.ops.any (·.kind == .cpsq)

/-- The pop of a command that names the queue. -/
def popSq (c : Context) (uses : Bool) (k : Context → BitVec 2048 → Issue) : Issue :=
  if !uses then k c 0
  else match c.sq with
    | e :: t => k { c with sq := t } e
    | [] => if c.sqPending then .wait else .trap 0x0B 0 0

/-- Byte `i` of a scale-queue entry. -/
def sqByte (e : BitVec 2048) (i : Nat) : Nat := nbits e.toNat (8 * i) 8

/-- The scale byte of block `k` of line `l`; side 1 takes bytes 128 to 255 of a popped entry (R224,
R231, R237). -/
def Strm.scale (d : Strm) (spad : List Host.Cell) (e : BitVec 2048) (side l k : Nat) : Nat :=
  match d.scsrc with
  | 1 => (getB spad (d.scbase + l * d.blocks + k)).toNat
  | 2 => sqByte e (128 * side + l * d.blocks + k)
  | _ => 127

/-! ### Banks (02 R75, R76) -/

/-- Whether the context holds a bank. -/
def Context.holds (c : Context) (b : Nat) : Bool := c.held.any fun g => g.1 ≤ b && b < g.1 + g.2

/-- The checks of R233 on `n` banks from `first`: the share, then held; the lowest bank is named. -/
def checkBanks (c : Context) (first : Word) (n : Nat) (k : Issue) : Issue :=
  let f := first.toNat
  if c.bankShare < f + n then .trap 0x04 0 (wd (max f c.bankShare))
  else match (List.range n).find? fun i => !c.holds (f + i) with
    | some i => .trap 0x08 0 (wd (f + i))
    | none => k

end Sys2Proof.Machine
end

