-- ==== Sys2Proof/Machine/Matrix.lean ====
section
/-! DEFINITION. The matrix engine, the accumulator instructions and the write-back path
(10 R225-R249, 02 R75, R76): the instructions at their issue, and what their commands do at their
steps. -/

namespace Sys2Proof.Machine

/-! ### Engine commands -/

/-- A command as it issues, with everything that its kind does not use left empty. -/
def Cmd.blank (id : Nat) (kind : CmdKind) (issue start steps complete : Nat) : Cmd where
  id := id
  kind := kind
  issue := issue
  start := start
  steps := steps
  complete := complete
  p := 0
  q := 0
  pnum := 0
  qnum := 0
  bank := 0
  t0 := 0
  int := false
  init := false
  ftz := false
  wb := .b1
  scale := .noscale
  useSq := false
  sc := 0
  sq := 0
  scales := []
  gen := 0
  buf := []
  staged := []
  stagedP := 0
  stagedQ := 0
  failed := none

/-- A command enters: it takes the next number, a landing-set entry through COMPLETE, and its steps
`0` to `n - 1` are scheduled from its start. -/
def Context.command (c : Context) (k : Nat) (m : Cmd) (n : Nat) (step : Nat → Eff) : Context :=
  let c1 := (List.range n).foldl (fun a j => a.sched k (m.start + j) (step j)) c
  { c1.enter k m.complete with cmds := m :: c1.cmds, nextId := c1.nextId + 1 }

/-- A deferred fault found at a perform beat (05 R141). -/
structure DFault where
  issue : Nat
  addr : BitVec 21
  code : Nat
  cause : Nat
  info : Word
  deriving DecidableEq, Repr

/-- The context at the reads of a beat: what has been scheduled, and the deferred faults found. -/
structure Work where
  ctx : Context
  faults : List DFault

/-- An effect that follows from another of the same operation. -/
def Work.add (w : Work) (t : Timed) (due : Nat) (e : Eff) : Work :=
  { w with ctx := { w.ctx with timed := { t with due := due, eff := e } :: w.ctx.timed } }

/-- A deferred fault of the operation that issued `t`. -/
def Work.fail (w : Work) (t : Timed) (code cause : Nat) (info : Word) : Work :=
  { w with faults := w.faults ++ [⟨t.issue, t.addr, code, cause, info⟩] }

/-! ### `sarm` (R225, R226) -/

/-- `sarm`: the descriptor with BASE moved by X[A], after the checks of R226. -/
def execSarm (g : Fin 16) (sn : Fin 16) (idx : BitVec 12) (a : Fin 32) (s : State) :
    Host.Outcome State Fault Refusal :=
  slotOut s (guarded g fun c v k =>
    match c.streams[idx.toNat]? with
    | none => .trap 0x06 0x0E (wd sn.val)
    | some w =>
      let base := (nbits w.toNat 0 52 + (v.xr a).toNat) % 2 ^ 52
      let d := { strm w with base := base }
      match d.cause (strmReserved w) c.spadShare c.tiles.length with
      | some e => .trap 0x06 e (wd sn.val)
      | none =>
        let x := BitVec.ofNat 192 (w.toNat / 2 ^ 52 * 2 ^ 52 + base + 2 ^ 191)
        .act ((c.sched k (c.cbc + 1) (.sw sn x)).enter k c.cbc))

/-! ### `mxmm` (R227-R235) -/

/-- Kbeat of the gang that a pair of formats chooses (R229). -/
def kbeat (p q : Strm) : Option Nat :=
  if p.isMx && q.isMx then some (4608 / (p.digits * q.digits))
  else if p.isFp8 && q.isFp8 then some 512
  else if p.ty == .bf16 && q.ty == .bf16 then some 144
  else none

/-- Whether the staging tiles of a global stream hold too little (R227 cause 0x16, R238). -/
def Strm.stageShort (d : Strm) (kb : Nat) : Bool :=
  d.global && d.nst * 4096 * 8 < 2 * kb * d.lines * d.bits

/-- The stream checks of R227 on the two streams of `mxmm`: cause and stream number, or Kbeat. R227 gives its
causes no order: they are taken here in ascending order, but for 0x16 last; where both streams break 0x10 the lower
number is named, and where both break 0x13 or 0x16 that of SA (DESIGN CHOICE, assumption 23). -/
def mxCheck (p q : Strm) (pn qn : Nat) (int : Bool) : Except (Nat × Nat) Nat :=
  let low := min pn qn
  if !p.armed || !q.armed then
    .error (0x10, if p.armed then qn else if q.armed then pn else low)
  else match kbeat p q with
    | none => .error (0x11, low)
    | some kb =>
      if int && !(p.isMx && q.isMx) then .error (0x11, low)
      else if p.len ≠ q.len then .error (0x12, low)
      else if 64 < p.lines then .error (0x13, pn)
      else if 32 < q.lines then .error (0x13, qn)
      else if p.stageShort kb then .error (0x16, pn)
      else if q.stageShort kb then .error (0x16, qn)
      else .ok kb

/-- The mode check of R234 on streams that an engine reads, in reverse mode. -/
def checkReads (c : Context) (l : List Strm) (k : Issue) : Issue :=
  if c.dmode != .rev then k
  else match c.streamRegion (l.flatMap fun d => if d.raw || d.global then [] else d.spans) with
    | some n => .trap 0x0C 2 (wd n)
    | none => k

/-- The mode checks of R234 and R270 on spans that an engine writes. Where they overlap both a region and the tape
window the region's fault is taken, as the first that R234 states (DEDUCED, assumption 23). -/
def checkWrites (c : Context) (raw : Bool) (l : List (Nat × Nat)) (k : Issue) : Issue :=
  if c.dmode == .off then k
  else match (if raw then none else c.streamRegion l) with
    | some n => .trap 0x0C 2 (wd n)
    | none =>
      match c.spanWindow l with
      | some a => .trap 0x0C 1 (wd a)
      | none => k

/-- A command with what the fetcher has staged for it before it issued (R238). -/
def Cmd.withStaged (m : Cmd) (pre : Option Cmd) : Cmd :=
  match pre with
  | some z =>
    if z.id = m.id && z.p = m.p && z.q = m.q then
      { m with staged := z.staged, stagedP := z.stagedP, stagedQ := z.stagedQ, failed := z.failed }
    else m
  | none => m

/-- An `mxmm` that acts: its checks, and the command that enters (R228-R235). -/
def actMxmm (a : Fin 32) (sa sb sc : Fin 16) (defer : Fin 64) (int init : Bool) (c v : Context) (k : Nat) :
    Issue :=
    let p := strm (v.s.get sa)
    let q := strm (v.s.get sb)
    match mxCheck p q sa.val sb.val int with
    | .error (cause, n) => .trap 0x06 cause (wd n)
    | .ok kb =>
      checkBanks c (v.xr a) (cdiv p.lines 16) <|
      checkReads c [p, q] <|
      popSq c (p.scsrc == 2 || q.scsrc == 2) fun c e =>
        let start := max (c.cbc + defer.val) c.mxFree
        let ns := cdiv p.len kb
        let m := { Cmd.blank c.nextId .mxmm c.cbc start ns (start + 14 + ns) with
          p := v.s.get sa, q := v.s.get sb, pnum := sa.val, qnum := sb.val
          bank := (v.xr a).toNat, int := int, init := init, sc := sc, sq := e }
        .act ({ c with mxFree := start + ns }.command k (m.withStaged c.pre) ns (.mxStep m.id))

/-- The issue of `mxmm`. -/
def issueMxmm (g : Fin 16) (a : Fin 32) (sa sb sc : Fin 16) (defer : Fin 64) (int init : Bool) :
    State → Fin 8 → Fin 8 → Context → Issue :=
  guarded g (actMxmm a sa sb sc defer int init)

/-- `mxmm` (R228-R235). -/
def execMxmm (g : Fin 16) (a : Fin 32) (sa sb sc : Fin 16) (defer : Fin 64) (int init : Bool) (s : State) :
    Host.Outcome State Fault Refusal :=
  slotOut s (issueMxmm g a sa sb sc defer int init)

/-- A reader of the bytes of one side of a command: scratchpad, or what has been staged (R238). -/
def Cmd.reader (m : Cmd) (c : Context) (side : Nat) (d : Strm) : Nat → Byte :=
  if d.global then fun a => mapGet 0 m.staged (side * 2 ^ 53 + a) else getB c.spad

/-- Key of an element in the buffer of a block that straddles two steps. -/
def bufKey (side l j : Nat) : Nat := (side * 2 ^ 16 + l) * 2 ^ 17 + j

/-- The bits of the elements of block `k` of a line up to position `hi - 1`; those before `lo` were
read in the step before (R232). -/
def blockCodes (m : Cmd) (d : Strm) (rd : Nat → Byte) (side l k lo hi : Nat) : List Nat :=
  (List.range (min (32 * k + 32) hi - 32 * k)).map fun i =>
    let j := 32 * k + i
    if j < lo then (mapGet 0 m.buf (bufKey side l j)).toNat else d.code rd l j

/-- The contribution of a block pair (03 R98, R99). -/
def blockPair (m : Cmd) (p q : Strm) (a b : List Nat) (sa sb : Nat) : ContribVal :=
  if p.isMx then
    let d := (List.zipWith (fun x y => p.mxVal x * q.mxVal y) a b).foldl (· + ·) 0
    if m.int then .int d m.sc else .fp (blockInt d sa sb)
  else .fp (blockFloat (List.zipWith (fun x y => (elemVal p.ty x).mul (elemVal q.ty y)) a b) sa sb)

/-- Contributions of block `k`, which ends in the step that starts at position `lo` (R231). -/
def mxBlock (old : Context) (m : Cmd) (p q : Strm) (k lo hi : Nat) : List Contrib :=
  let as := (List.range p.lines).map fun l => blockCodes m p (m.reader old 0 p) 0 l k lo hi
  let bs := (List.range q.lines).map fun l => blockCodes m q (m.reader old 1 q) 1 l k lo hi
  let sas := (List.range p.lines).map fun l => if m.int then 0 else p.scale old.spad m.sq 0 l k
  let sbs := (List.range q.lines).map fun l => if m.int then 0 else q.scale old.spad m.sq 1 l k
  (List.range p.lines).flatMap fun r =>
    (List.range q.lines).map fun n =>
      { bank := m.bank + (32 * r + n) / 512, elem := (32 * r + n) % 512, init := m.init && k == 0
        val := blockPair m p q (as.getD r []) (bs.getD n []) (sas.getD r 0) (sbs.getD n 0) }

/-- The elements of a block that goes on into the next step. -/
def mxKeep (old : Context) (m : Cmd) (d : Strm) (side k lo hi : Nat) : List (Nat × BitVec 32) :=
  (List.range d.lines).flatMap fun l =>
    (blockCodes m d (m.reader old side d) side l k lo hi).zipIdx.map fun e =>
      (bufKey side l (32 * k + e.2), BitVec.ofNat 32 e.1)

/-- K-step `j` of an `mxmm` (R232). -/
def mxStep (old : Context) (w : Work) (t : Timed) (id j : Nat) : Work :=
  match w.ctx.cmd id with
  | none => w
  | some m =>
    let p := strm m.p
    let q := strm m.q
    let kb := (kbeat p q).getD 1
    let lo := j * kb
    let hi := min ((j + 1) * kb) p.len
    let last := if hi = p.len then cdiv hi 32 else hi / 32
    let contribs := (List.range (last - lo / 32)).flatMap fun i => mxBlock old m p q (lo / 32 + i) lo hi
    let keep := if last * 32 < hi then
        mxKeep old m p 0 last lo hi ++ mxKeep old m q 1 last lo hi else []
    let w1 := if contribs.isEmpty then w else w.add t (t.due + 15) (.contribs contribs)
    { w1 with ctx := w1.ctx.setCmd { m with buf := keep } }

/-! ### Accumulator instructions (R241-R244, 02 R75, R76) -/

/-- A bank that `arls` has released and that is not yet free at this beat (02 R76). -/
def Context.freeing (c : Context) (b : Nat) : Bool :=
  c.timed.any fun t => match t.eff with
    | .freeBanks f n => c.cbc < t.due && f ≤ b && b < f + n
    | _ => false

/-- The lowest free group of `n` banks (02 R75). -/
def Context.freeGroup (c : Context) (n : Nat) : Option Nat :=
  ((List.range (c.bankShare / n)).find? fun i =>
    (List.range n).all fun j => !c.holds (i * n + j) && !c.freeing (i * n + j)).map (· * n)

/-- `acq` (R242). -/
def execAcq (g : Fin 16) (d : Fin 32) (n : Nat) (s : State) : Host.Outcome State Fault Refusal :=
  slotOut s (guarded g fun c _ k =>
    match c.freeGroup n with
    | none => .trap 0x07 0 (wd n)
    | some first =>
      let c1 := { c with held := mapSet 0 c.held first n }
      .act (((c1.sched k (c.cbc + 1) (.xw d (wd first))).sched k (c.cbc + 1)
        (.zeroBanks first n)).enter k (c.cbc + 1)))

/-- The group whose first bank is a register's value (R242). -/
def groupOf (c : Context) (x : Word) (k : Nat → Nat → Issue) : Issue :=
  if c.bankShare ≤ x.toNat then .trap 0x04 0 x
  else match mapGet 0 c.held x.toNat with
    | 0 => .trap 0x08 0 x
    | n => k x.toNat n

/-- Whether a command still writes into banks after beat `b` (02 R76). -/
def Context.engineWrites (c : Context) (b first n : Nat) : Bool :=
  c.cmds.any fun m =>
    match m.kind with
    | .mxmm => b < m.complete && overlaps m.bank (cdiv (strm m.p).lines 16) first n
    | .ltlook => b < m.complete && overlaps m.bank (cdiv (strm m.q).lines 16) first n
    | _ => false

/-- `arls` (R242, 02 R76). For engine writes that are still to come TINFO names the group's first bank, X[A], and not
the lowest that they reach: the spec says "bank number" alone (DESIGN CHOICE, assumption 23). -/
def execArls (g : Fin 16) (a : Fin 32) (s : State) : Host.Outcome State Fault Refusal :=
  slotOut s (guarded g fun c v k =>
    groupOf c (v.xr a) fun first n =>
      if c.engineWrites c.cbc first n then .trap 0x08 0 (wd first)
      else .act (({ c with held := mapSet 0 c.held first 0 }.sched k (c.cbc + 4)
        (.freeBanks first n)).enter k (c.cbc + 4)))

/-- `azero` (R243). -/
def execAzero (g : Fin 16) (a : Fin 32) (s : State) : Host.Outcome State Fault Refusal :=
  slotOut s (guarded g fun c v k =>
    groupOf c (v.xr a) fun first n =>
      .act ((c.sched k (c.cbc + 1) (.zeroBanks first n)).enter k (c.cbc + 1)))

/-- `ard`: it acts as a whole, and lanes do not split it (R244). -/
def execArd (g : Fin 16) (d : Fin 64) (a : Fin 32) (clr : Bool) (s : State) :
    Host.Outcome State Fault Refusal :=
  slotOut s (guarded g fun c v k =>
    checkBanks c (v.xr a) 1 <|
      .act ((c.sched k (c.cbc + 1) (.readBank (c.physV d).val (v.xr a).toNat clr)).enter k
        (c.cbc + 2)))

/-! ### `acvt` (R245-R248) -/

/-- Output rows m of the tile that a destination reads (R246). -/
def Strm.tileRows (d : Strm) : Nat := if d.tr then d.cols else d.rows

/-- The stream checks of `acvt` (R227, R245-R247). -/
def acvtCheck (d : Strm) (sc : AcvtScale) : Option Nat :=
  if !d.armed then some 0x10
  else if d.global then some 0x14
  else if (if d.tr then 32 else 64) < d.rows || (if d.tr then 64 else 32) < d.cols then some 0x15
  else if (d.isMx && d.scsrc ≠ 1) || (sc == .derive && !d.isMx) then some 0x15
  else none

/-- The issue of `acvt` (R245-R248). -/
def issueAcvt (g : Fin 16) (a : Fin 32) (sn : Fin 16) (sc : AcvtScale) (cn : Fin 16)
    (defer : Fin 64) (ftz int : Bool) :
    State → Fin 8 → Fin 8 → Context → Issue :=
  guarded g fun c v k =>
    let d := strm (v.s.get sn)
    match acvtCheck d sc with
    | some e => .trap 0x06 e (wd sn.val)
    | none =>
      checkBanks c (v.xr a) (cdiv d.tileRows 16) <|
      checkWrites c d.raw d.destSpans <|
      popSq c (sc == .sq) fun c e =>
        let start := max (c.cbc + defer.val) c.wbFree
        let m := { Cmd.blank c.nextId .acvt c.cbc start 1 (start + 6) with
          p := v.s.get sn, pnum := sn.val, bank := (v.xr a).toNat, int := int, ftz := ftz
          scale := sc, sc := cn, sq := e }
        .act ({ c with wbFree := start + 1 }.command k m 1 fun _ => .writeBack m.id)

/-- `acvt` (R245-R248). -/
def execAcvt (g : Fin 16) (a : Fin 32) (sn : Fin 16) (sc : AcvtScale) (cn : Fin 16)
    (defer : Fin 64) (ftz int : Bool) (s : State) :
    Host.Outcome State Fault Refusal :=
  slotOut s (issueAcvt g a sn sc cn defer ftz int)

/-- The exact value of an accumulator element (R246, R248). -/
def accVal (int : Bool) (x : BitVec 32) : FV :=
  if int then .fin (decide (x.toInt < 0)) x.toInt.natAbs 0 else f32v x

/-- One converted block: its elements, and the scale byte that is stored (R247). -/
def cvtBlock (m : Cmd) (d : Strm) (xs : List FV) : List Conv × Nat :=
  let e : Nat := match m.scale with
    | .noscale => 127
    | .sq => sqByte m.sq 0
    | .derive => deriveScale d.bits xs
  let exp : Option Int := if e = 0xFF then none
    else some (if m.scale == .derive then 127 - (e : Int) else (e : Int) - 127)
  let stored : Nat := match m.scale with
    | .derive => e
    | _ => if e = 0xFF then 0xFF else 254 - e
  (xs.map fun x => convert x exp (dstOf d.ty) m.ftz, stored)

/-- Pairs of 4-bit elements as bytes (02 R68). The spare high half of a line's last byte, for which 10 R246 gives no
value, is 0 (DESIGN CHOICE, assumption 23). -/
def packNibbles : List Nat → List Byte
  | [] => []
  | [a] => [by8 (a % 16)]
  | a :: b :: t => by8 (a % 16 + b % 16 * 16) :: packNibbles t

/-- The bytes of a stored line in row or column layout. -/
def packLine (bits : Nat) (l : List Nat) : List Byte :=
  if bits = 4 then packNibbles l else l.flatMap (toBytes (bits / 8))

/-- The planes of one block (02 R69). -/
def packPlanes (planes : Nat) (blk : List Nat) : List Byte :=
  (List.range planes).flatMap fun p =>
    (List.range 8).map fun i =>
      by8 ((List.range 4).foldl (fun a e => a + nbits (blk.getD (4 * i + e) 0) (2 * p) 2 * 4 ^ e) 0)

/-- The element writes of an `acvt` in row or column layout, given the codes of each stored line. -/
def lineWrites (d : Strm) (first : Nat) (lines : List (List Nat)) : List (Nat × Byte) :=
  (lines.zipIdx first).flatMap fun l => bytesAt (d.base + l.2 * d.stride) (packLine d.bits l.1)

/-- The byte writes of an `acvt`, given the converted blocks of each row (R246, R247). The elements of a partial last
MXINT block beyond COLS are 0; in column layout they are stored lines of their own, and an element that shares their
address comes after them. -/
def acvtBytes (d : Strm) (rows : List (List (List Conv × Nat))) : List (Nat × Byte) :=
  let codes := rows.map fun r => r.flatMap fun b => b.1.map Conv.out
  let elems :=
    if d.layout = 2 then
      (rows.zipIdx).flatMap fun r => (r.1.zipIdx).flatMap fun b =>
        bytesAt (d.planeAddr r.2 b.2 0) (packPlanes d.stored2 (b.1.1.map Conv.out))
    else if d.layout = 1 then
      lineWrites d d.cols (List.replicate (d.destCols - d.cols) (List.replicate d.rows 0)) ++
        lineWrites d 0 ((List.range d.cols).map fun c => codes.map fun r => r.getD c 0)
    else lineWrites d 0 (codes.map fun r => r ++ List.replicate (d.destCols - d.cols) 0)
  let scales := if d.isMx then
      bytesAt d.scbase (rows.flatMap fun r => r.map fun b => by8 b.2) else []
  elems ++ scales

/-- The conversions of an `acvt`, by row and block (R246). -/
def acvtRows (old : Context) (m : Cmd) (d : Strm) : List (List (List Conv × Nat)) :=
  (List.range d.rows).map fun r =>
    (List.range (cdiv d.cols 32)).map fun k =>
      cvtBlock m d ((List.range (min 32 (d.cols - 32 * k))).map fun i =>
        let c := 32 * k + i
        let x := if d.tr then 32 * c + r else 32 * r + c
        accVal m.int (lane (bankOf old.banks (m.bank + x / 512)) (x % 512)))

/-- The read of an `acvt` at its start; its writes and counter update perform six beats later
(R248). Bytes of a completed block or of its scales beyond the share do not exist, and are not written (02 R63,
assumption 23). -/
def writeBack (old : Context) (w : Work) (t : Timed) (id : Nat) : Work :=
  match w.ctx.cmd id with
  | none => w
  | some m =>
    let d := strm m.p
    let rows := acvtRows old m d
    let n := convSums (rows.flatMap fun r => r.flatMap Prod.fst)
    let bytes := (acvtBytes d rows).filter fun e => e.1 < old.spadShare
    (w.add t (t.due + 6) (.store bytes [])).add t (t.due + 6)
      (.cnt m.sc n.1 (BitVec.ofNat 32 n.2))

end Sys2Proof.Machine
end

