-- ==== Sys2Proof/Machine/Lookup.lean ====
section
/-! DEFINITION. Table registers, the table unit and the lookup engine (11 R250-R270): the instructions at
their issue, and what their commands do at their steps. -/

namespace Sys2Proof.Machine

/-- The checks on an activation stream (R254, R256 cause 0x17). -/
def Strm.isActivation (d : Strm) : Bool :=
  !d.global && decide (d.lines ≤ 64) &&
    ((d.layout == 0 && d.ty == .s8 && !d.tr) ||
      (d.layout == 2 && d.ty == .mx8 && d.prec == 0 && d.scsrc == 1))

/-- Groups of four activations in a line (R254). -/
def Strm.groups (d : Strm) : Nat := cdiv d.len 4

/-- Activations of group `q` of a line. -/
def Strm.groupLen (d : Strm) (q : Nat) : Nat := min 4 (d.len - 4 * q)

/-- The span of group `q` of line `l`: granule, byte mask, and scale byte address (R251). -/
def Strm.span (d : Strm) (l q : Nat) : Nat × Nat × Nat :=
  let line := d.base + l * d.stride
  if d.ty == .s8 then
    let a := line + 4 * q
    (a / 32, (2 ^ d.groupLen q - 1) * 2 ^ (a % 32), 0)
  else
    ((line + 32 * (q / 8)) / 32, 0x0101_0101 * 2 ^ (q % 8), d.scbase + l * d.blocks + q / 8)

/-- Table registers `first` to `first + n - 1` against the share; the lowest beyond it is named
(R255). -/
def checkTables (c : Context) (first n : Nat) (k : Issue) : Issue :=
  if n ≠ 0 && c.tableShare < first + n then .trap 0x04 0 (wd (max first c.tableShare)) else k

/-! ### `ltbuild` (R252-R255) -/

/-- `ltbuild` (R254). -/
def execLtbuild (g : Fin 16) (a : Fin 32) (sn : Fin 16) (defer : Fin 64) (s : State) :
    Host.Outcome State Fault Refusal :=
  slotOut s (guarded g fun c v k =>
    let d := strm (v.s.get sn)
    let t0 := (v.xr a).toNat
    let nt := d.lines * d.groups
    if !d.armed then .trap 0x06 0x10 (wd sn.val)
    else if !d.isActivation then .trap 0x06 0x17 (wd sn.val)
    else checkTables c t0 nt <| checkReads c [d] <|
      let start := max (c.cbc + defer.val) c.tabFree
      let nb := cdiv nt 1024
      let gen := c.ltgen + 1
      let m := { Cmd.blank c.nextId .ltbuild c.cbc start nb (start + nb + 2) with
        p := v.s.get sn, pnum := sn.val, t0 := t0, gen := gen }
      .act (({ c with tabFree := start + nb, ltgen := gen }.sched k c.cbc
        (.prepTables t0 nt (some gen))).command k m nb (.buildStep m.id)))

/-- Sum of the activations whose bit is set in `t` (03 R90). -/
def subsetSum : List Int → Nat → Int
  | [], _ => 0
  | a :: r, t => (if t % 2 = 1 then a else 0) + subsetSum r (t / 2)

/-- The 16 entries of a table of a group (R254). -/
def tableEntries (a : List Int) : BitVec 256 :=
  BitVec.ofNat 256 ((List.range 16).foldl (fun n t =>
    n + (if t < 2 ^ a.length then unsignedOf 16 (subsetSum a t) else 0) * 2 ^ (16 * t)) 0)

/-- META0 of a build (R250). -/
def buildMeta0 (g : Nat) (mx : Bool) (ascale gen gran : Nat) : Word :=
  wd (1 + (g - 1) * 2 + (if mx then 24 else 0) + ascale * 2 ^ 5 + gen * 2 ^ 13 + gran * 2 ^ 29)

/-- The build copy: the watched granule bytes ascending, then the scale byte (R266). -/
def buildCopy (spad : List Host.Cell) (gran bmask : Nat) (scale : Nat) : BitVec 40 :=
  let bytes := (setBits 32 0 bmask).map fun i => getB spad (gran * 32 + i)
  BitVec.ofNat 40 (ofBytes (padTo 4 bytes) + scale * 2 ^ 32)

/-- The table of group `q` of line `l`, from the activations as they stand (R254). -/
def buildTable (spad : List Host.Cell) (d : Strm) (gen : BitVec 16) (l q : Nat) : Table :=
  let mx := d.ty == .mx8
  let n := d.groupLen q
  let acts := (List.range n).map fun e => signed 8 (d.code (getB spad) l (4 * q + e))
  let (gran, bmask, saddr) := d.span l q
  let asc := if mx then (getB spad saddr).toNat else 127
  { entries := tableEntries acts
    meta0 := buildMeta0 n mx asc gen.toNat gran
    meta1 := wd (bmask + saddr * 2 ^ 32)
    copy := buildCopy spad gran bmask (if mx then asc else 0) }

/-- Step `j` of an `ltbuild`: up to 1,024 tables are read now and land three beats later (R253). -/
def buildStep (old : Context) (w : Work) (t : Timed) (id j : Nat) : Work :=
  match w.ctx.cmd id with
  | none => w
  | some m =>
    let d := strm m.p
    let nt := d.lines * d.groups
    let new := (List.range (min 1024 (nt - 1024 * j))).map fun i =>
      let n := 1024 * j + i
      { due := t.due + 3, reg := m.t0 + n
        table := buildTable old.spad d m.gen (n / d.groups) (n % d.groups)
        spoiled := false : PendTable }
    { w with ctx := { w.ctx with pendTables := w.ctx.pendTables ++ new } }

/-! ### `ltlook` (R257-R262) -/

/-- Weight bits b (R258). -/
def wbitsNat : WBits → Nat
  | .b1 => 1 | .b2 => 2 | .b4 => 4

/-- The stream checks of `ltlook` (R256): cause and stream number. Cause 0x19, which holds N of stream W against NBLK of
stream T, names W (DESIGN CHOICE, assumption 24). -/
def lookCheck (w t : Strm) (wn tn : Nat) (b : Nat) (int sq : Bool) : Option (Nat × Nat) :=
  if !w.armed || !t.armed then
    some (0x10, if w.armed then tn else if t.armed then wn else min wn tn)
  else if !t.isActivation then some (0x17, tn)
  else if w.global || w.layout ≠ 0 || w.ty != .n8 || w.tr || w.scsrc ≠ 0 || 32 < w.lines ||
      w.len ≠ 4 * b * t.blocks then some (0x18, wn)
  else if !int && (if sq then 256 else 8192) < w.lines * t.blocks then some (0x19, wn)
  else none

/-- The issue of `ltlook` (R258, R259). -/
def issueLtlook (g : Fin 16) (a : Fin 32) (wn tn sel : Fin 16) (defer : Fin 64) (int init : Bool)
    (wb : WBits) (sq : Bool) :
    State → Fin 8 → Fin 8 → Context → Issue :=
  guarded g fun c v k =>
    let dw := strm (v.s.get wn)
    let dt := strm (v.s.get tn)
    let b := wbitsNat wb
    match lookCheck dw dt wn.val tn.val b int sq with
    | some (e, n) => .trap 0x06 e (wd n)
    | none =>
      let x := (v.xr a).toNat
      let bk := nbits x 0 13
      let t0 := nbits x 32 13
      let nbk := cdiv dt.lines 16
      if x ≠ bk + t0 * 2 ^ 32 then .trap 0x04 0 (v.xr a)
      else if c.bankShare < bk + nbk then .trap 0x04 0 (wd (max bk c.bankShare))
      else checkTables c t0 (dt.lines * dt.groups) <|
        checkBanks c (wd bk) nbk <|
        checkReads c [dw, dt] <|
        popSq c sq fun c e =>
          let start := max (c.cbc + defer.val) c.lookFree
          let ns := cdiv dt.len (2048 / b)
          let m := { Cmd.blank c.nextId .ltlook c.cbc start ns (start + ns + 10) with
            p := v.s.get wn, q := v.s.get tn, pnum := wn.val, qnum := tn.val, bank := bk, t0 := t0
            int := int, init := init, wb := wb, useSq := sq, sc := sel, sq := e
            scales := if sq || int then []
              else (List.range 4).map fun i => v.vr (nameV (4 * sel.val + i)) }
          .act ({ c with lookFree := start + ns }.command k m ns (.lookStep m.id))

/-- `ltlook` (R258, R259). -/
def execLtlook (g : Fin 16) (a : Fin 32) (wn tn sel : Fin 16) (defer : Fin 64) (int init : Bool)
    (wb : WBits) (sq : Bool) (s : State) :
    Host.Outcome State Fault Refusal :=
  slotOut s (issueLtlook g a wn tn sel defer int init wb sq)

/-- The word of plane `p` of block `k` of weight line `n` (R257). -/
def weightWord (spad : List Host.Cell) (w : Strm) (b n k p : Nat) : Nat :=
  getN spad (w.base + n * w.stride + 4 * b * k + 4 * p) 4

/-- The index that plane `p` gives to group `q` (R257). -/
def weightIndex (spad : List Host.Cell) (w : Strm) (b n q p : Nat) : Nat :=
  nbits (weightWord spad w b n (q / 8) p) (4 * (q % 8)) 4

/-- Plane weights of 03 R90. -/
def planeWeight (b p : Nat) : Int :=
  if b = 1 then 2 else if p + 1 = b then -(2 ^ p) else 2 ^ p

/-- Entry `t` of a table. -/
def Table.entry (tb : Table) (t : Nat) : Int := signed 16 (nbits tb.entries.toNat (16 * t) 16)

/-- The sum of a group under its index of each plane (03 R90). -/
def groupSum (tb : Table) (b g : Nat) (idx : List Nat) : Int :=
  (idx.zipIdx).foldl (fun a i => a + planeWeight b i.2 * tb.entry i.1)
    (if b = 1 then -tb.entry (2 ^ g - 1) else 0)

/-- The first fault of one table in the order of R262. An index is in range when it names a valid entry of the table, by
its own G (R250), and has no bit at or above K in a tail group. -/
def tableFault (spad : List Host.Cell) (w t : Strm) (b m q reg : Nat) (tb : Table) :
    Option (Nat × Nat × Nat) :=
  let (gran, bmask, saddr) := t.span m q
  let mx := t.ty == .mx8
  if !tb.valid then some (0x10, 1, reg)
  else if tb.mx != mx || tb.sv != mx || tb.gran ≠ gran || tb.bmask ≠ bmask ||
      (mx && tb.saddr ≠ saddr) then some (0x10, 2, reg)
  else (List.range w.lines).findSome? fun n => (List.range b).findSome? fun p =>
    let i := weightIndex spad w b n q p
    if 2 ^ min tb.groupSize (t.groupLen q) ≤ i then some (0x11, 0, reg + i * 2 ^ 16) else none

/-- The weight scale of row `n` and block `k` (R261). -/
def weightScale (m : Cmd) (nblk n k : Nat) : Nat :=
  let i := n * nblk + k
  if m.useSq then sqByte m.sq i
  else nbits (m.scales.getD (i / 2048) 0).toNat (8 * (i % 2048)) 8

/-- The exact block sum D of line `r`, row `n` and block `k` (R260). -/
def lookSum (old : Context) (m : Cmd) (w t : Strm) (b r n k : Nat) : Int :=
  (List.range (min 8 (t.groups - 8 * k))).foldl (fun d i =>
    let q := 8 * k + i
    let tb := old.table (m.t0 + r * t.groups + q)
    d + groupSum tb b (t.groupLen q)
      ((List.range b).map fun p => weightIndex old.spad w b n q p)) 0

/-- The contributions of block `k` (R260). -/
def lookBlock (old : Context) (m : Cmd) (w t : Strm) (b k : Nat) : List Contrib :=
  (List.range t.lines).flatMap fun r =>
    let sa := nbits (old.table (m.t0 + r * t.groups + 8 * k)).meta0.toNat 5 8
    (List.range w.lines).map fun n =>
      let d := lookSum old m w t b r n k
      { bank := m.bank + (32 * r + n) / 512, elem := (32 * r + n) % 512, init := m.init && k == 0
        val := if m.int then .int d m.sc else .fp (blockInt d sa (weightScale m t.blocks n k)) }

/-- Step `j` of an `ltlook`: weights and tables are read, and the blocks contribute eleven beats later
(R253, R260, R262). -/
def lookStep (old : Context) (w : Work) (tm : Timed) (id j : Nat) : Work :=
  match w.ctx.cmd id with
  | none => w
  | some m =>
    let dw := strm m.p
    let dt := strm m.q
    let b := wbitsNat m.wb
    let kb := 2048 / b
    let k0 := j * kb / 32
    let k1 := min ((j + 1) * kb / 32) dt.blocks
    let bad := (List.range dt.lines).findSome? fun r =>
      (List.range (min (8 * k1) dt.groups - 8 * k0)).findSome? fun i =>
        let q := 8 * k0 + i
        let reg := m.t0 + r * dt.groups + q
        tableFault old.spad dw dt b r q reg (old.table reg)
    match bad with
    | some (code, cause, info) => w.fail tm code cause (wd info)
    | none => w.add tm (tm.due + 11)
        (.contribs ((List.range (k1 - k0)).flatMap fun i => lookBlock old m dw dt b (k0 + i)))

/-! ### `ltinv` and `ltstat` (R264, R265) -/

/-- `ltinv` (R264). -/
def execLtinv (g : Fin 16) (a b : Fin 32) (s : State) : Host.Outcome State Fault Refusal :=
  slotOut s (guarded g fun c v k =>
    let first := (v.xr a).toNat
    let n := (v.xr b).toNat
    checkTables c first n <| .act ((c.sched k c.cbc (.invTables first n)).enter k c.cbc))

/-- `ltstat`: META0 as it stands at the end of the beat before (R265). -/
def execLtstat (g : Fin 16) (d a : Fin 32) (s : State) : Host.Outcome State Fault Refusal :=
  slotOut s (guarded g fun c v k =>
    let r := (v.xr a).toNat
    if c.tableShare ≤ r then .trap 0x04 0 (v.xr a)
    else .act (c.result k d 1 (c.table r).meta0))

/-! ### `ltspill` and `ltfill` (R266-R268) -/

/-- Whether a stream can hold spill records (R256 cause 0x1A). -/
def Strm.isRecords (d : Strm) : Bool :=
  !d.global && d.layout == 0 && d.ty == .n32 && d.cols == 16 && !d.tr && d.scsrc == 0

/-- A spill record (R266). -/
def spillRecord (t : Table) : List Byte :=
  toBytes 32 t.entries.toNat ++ toBytes 8 t.meta0.toNat ++ toBytes 8 t.meta1.toNat ++
    toBytes 5 t.copy.toNat ++ List.replicate 11 0

/-- `ltspill` (R267). -/
def execLtspill (g : Fin 16) (a : Fin 32) (sn : Fin 16) (defer : Fin 64) (s : State) :
    Host.Outcome State Fault Refusal :=
  slotOut s (guarded g fun c v k =>
    let d := strm (v.s.get sn)
    let t0 := (v.xr a).toNat
    if !d.armed then .trap 0x06 0x10 (wd sn.val)
    else if !d.isRecords then .trap 0x06 0x1A (wd sn.val)
    else checkTables c t0 d.lines <| checkWrites c d.raw d.spans <|
      let start := max (c.cbc + defer.val) c.tabFree
      let nb := cdiv d.lines 256
      let m := { Cmd.blank c.nextId .ltspill c.cbc start nb (start + nb + 1) with
        p := v.s.get sn, pnum := sn.val, t0 := t0 }
      .act ({ c with tabFree := start + nb }.command k m nb (.spillStep m.id)))

/-- Step `j` of an `ltspill`: up to 256 registers are read now, and their records are written two beats
later (R253, R267). -/
def spillStep (old : Context) (w : Work) (t : Timed) (id j : Nat) : Work :=
  match w.ctx.cmd id with
  | none => w
  | some m =>
    let d := strm m.p
    let bytes := (List.range (min 256 (d.lines - 256 * j))).flatMap fun i =>
      let r := 256 * j + i
      bytesAt (d.base + r * d.stride) (spillRecord (old.table (m.t0 + r)))
    w.add t (t.due + 2) (.store bytes [])

/-- `ltfill` (R268). -/
def execLtfill (g : Fin 16) (a : Fin 32) (sn : Fin 16) (defer : Fin 64) (s : State) :
    Host.Outcome State Fault Refusal :=
  slotOut s (guarded g fun c v k =>
    let d := strm (v.s.get sn)
    let t0 := (v.xr a).toNat
    if !d.armed then .trap 0x06 0x10 (wd sn.val)
    else if !d.isRecords then .trap 0x06 0x1A (wd sn.val)
    else checkTables c t0 d.lines <| checkReads c [d] <|
      let start := max (c.cbc + defer.val) c.tabFree
      let nb := cdiv d.lines 256
      let m := { Cmd.blank c.nextId .ltfill c.cbc start nb (start + nb + 2) with
        p := v.s.get sn, pnum := sn.val, t0 := t0 }
      .act (({ c with tabFree := start + nb }.sched k c.cbc
        (.prepTables t0 d.lines none)).command k m nb (.fillStep m.id)))

/-- Step `j` of an `ltfill`: up to 256 records are read; their spans are read at the next beat. -/
def fillStep (old : Context) (w : Work) (t : Timed) (id j : Nat) : Work :=
  match w.ctx.cmd id with
  | none => w
  | some m =>
    let d := strm m.p
    let recs := (List.range (min 256 (d.lines - 256 * j))).map fun i =>
      let r := 256 * j + i
      (m.t0 + r, BitVec.ofNat 512 (getN old.spad (d.base + r * d.stride) 64))
    w.add t (t.due + 1) (.fillCheck id j recs)

/-- The table of a record, and whether it may be valid, its span as it stands (R268). -/
def fillTable (c : Context) (r : BitVec 512) : Table :=
  let n := r.toNat
  let t : Table :=
    { entries := BitVec.ofNat 256 (nbits n 0 256), meta0 := wd (nbits n 256 64)
      meta1 := wd (nbits n 320 64), copy := BitVec.ofNat 40 (nbits n 384 40) }
  let byte52 := nbits n 416 8
  let watched := setBits 32 0 t.bmask
  let ok := t.valid && nbits n 424 88 == 0 && nbits t.meta0.toNat 51 13 == 0 &&
    nbits t.meta1.toNat 59 5 == 0 &&
    watched.all (fun i => t.gran * 32 + i < c.spadShare) && (!t.sv || t.saddr < c.spadShare) &&
    watched.length ≤ 4 &&
    buildCopy c.spad t.gran t.bmask (if t.sv then (getB c.spad t.saddr).toNat else 0) == t.copy &&
    t.mx == t.sv && t.ascale == (if t.sv then byte52 else 127)
  if ok then t else t.clearV

/-- The spans of filled records are read, and the tables land two beats later (R253, R268). -/
def fillCheck (old : Context) (w : Work) (t : Timed) (recs : List (Nat × BitVec 512)) : Work :=
  let new := recs.map fun r =>
    { due := t.due + 2, reg := r.1, table := fillTable old r.2, spoiled := false : PendTable }
  { w with ctx := { w.ctx with pendTables := w.ctx.pendTables ++ new } }

end Sys2Proof.Machine
end

