-- ==== Sys2Proof/Machine/Adjoint.lean ====
section
/-! DEFINITION. Differentiable regions, the mode and tape marks (12 R273-R279, 02 R79). -/

namespace Sys2Proof.Machine

/-- Fields of a region declaration that obey R273 and R274, inside a share. -/
def regionShape (a : BitVec 128) (share : Nat) : Bool :=
  nbits a.toNat 27 5 == 0 && nbits a.toNat 59 5 == 0 && !nbit a.toNat 91 && nbits a.toNat 98 30 == 0 &&
    agPbase a % 32 == 0 && agLen a % 32 == 0 && agLen a != 0 && agAbase a % 32 == 0 &&
    (agPfmt a == 7 || (agPfmt a == 8 && agAfmt a)) &&
    agPbase a + agLen a ≤ share && agAbase a + agAlen a ≤ share

/-- Whether a region's spans keep clear of one another, of the other enabled regions, of the landing tiles
and of the tape window (R275). -/
def Context.regionClear (c : Context) (n : Nat) (a : BitVec 128) : Bool :=
  let hits (b m : Nat) : Bool :=
    overlaps (agPbase a) (agLen a) b m || overlaps (agAbase a) (agAlen a) b m
  !overlaps (agPbase a) (agLen a) (agAbase a) (agAlen a) &&
    !c.tiles.any (fun t => hits t 4096) &&
    !hits c.tapeb.toNat (c.tapel.toNat - c.tapeb.toNat) &&
    (List.range 16).all fun k =>
      let r := c.ag.getD k 0
      k == n || !agEn r || !(hits (agPbase r) (agLen r) || hits (agAbase r) (agAlen r))

/-- A region with EN set. -/
def agEnable (a : BitVec 128) : BitVec 128 := a ||| (1 : BitVec 128) <<< 97

/-- A region with EN clear. -/
def agDisable (a : BitVec 128) : BitVec 128 := a &&& ~~~((1 : BitVec 128) <<< 97)

/-- `dreg` (R275, R286). -/
def execDreg (g : Fin 16) (d : Fin 16) (a : Fin 32) (s : State) : Host.Outcome State Fault Refusal :=
  slotOut s (guarded g fun c v k =>
    let x := v.xr a
    if 1 < x.toNat then .trap 0x04 0 x
    else if c.dmode != .off then .trap 0x0C 3 (wd d.val)
    else if x = 0 then .act ((c.sched k c.cbc (.setRegion d (agDisable (c.ag.get d)))).hold k)
    else match c.regions.getD d.val none with
      | none => .trap 0x0C 4 (wd d.val)
      | some r =>
        if regionShape r c.spadShare && c.regionClear d.val r then
          .act ((c.sched k c.cbc (.setRegion d (agEnable r))).hold k)
        else .trap 0x0C 4 (wd d.val))

/-- Spans that an effect still writes in scratchpad, the tape's own records apart (02 R79). -/
def Eff.writes : Eff → List (Nat × Nat)
  | .store bytes _ => bytes.map fun b => (b.1, 1)
  | .revStore elems bytes _ _ =>
    (elems.map fun e => (e.elem.addr, e.elem.width)) ++
      (elems.filterMap fun e => if e.whole then some (e.elem.cell, if e.elem.abf16 then 2 else 4) else none) ++
      bytes.map fun b => (b.1, 1)
  | .accum l => l.map fun a => (a.cell, if a.abf16 then 2 else 4)
  | .atom m la ty _ _ _ => (laneList m la (atomBytes ty)).map fun p => (p.2, atomBytes ty)
  | _ => []

/-- Spans that a command still writes in scratchpad. -/
def Cmd.writes (m : Cmd) : List (Nat × Nat) :=
  match m.kind with
  | .acvt => (strm m.p).destSpans
  | .ltspill => (strm m.p).spans
  | _ => []

/-- The span of scratchpad that a copy operation writes (13 R296-R300): address and length. -/
def Op.landing (o : Op) : Nat × Nat :=
  match o.kind with
  | .cpld => (o.b.toNat, nbits o.c.toNat 0 24)
  | .cpga => (o.b.toNat, 64 * nbits o.c.toNat 12 6 * nbits o.c.toNat 0 12)
  | .cpat => (o.b.toNat, if nbit o.c.toNat 8 then 64 else 0)
  | _ => (0, 0)

/-- Every span of the scratchpad that a write of the context, still to be applied, reaches (02 R79). -/
def Context.pendingWrites (c : Context) : List (Nat × Nat) :=
  (c.timed.flatMap fun t => t.eff.writes) ++
    ((c.cmds.filter fun m => c.cbc ≤ m.complete).flatMap Cmd.writes) ++ c.ops.map Op.landing

/-- The lowest address of [lo, hi) that lies in a span. -/
def lowestIn (lo hi : Nat) (l : List (Nat × Nat)) : Option Nat :=
  (l.filterMap fun p =>
    if overlaps p.1 p.2 lo (hi - lo) then some (max p.1 lo) else none).min?

/-- The spans of landing tiles and enabled regions. -/
def Context.declared (c : Context) : List (Nat × Nat) :=
  (c.tiles.map fun t => (t, 4096)) ++
    (List.range 16).flatMap fun k =>
      let r := c.ag.getD k 0
      if agEn r then [(agPbase r, agLen r), (agAbase r, agAlen r)] else []

/-- The checks of a change to forward-taped or reverse, in order: the TINFO of the first that fails
(02 R79, R276). A write that issues in the very bundle of the change is neither counted yet nor refused, and lands
(DEDUCED, assumption 21). -/
def Context.windowFault (c : Context) : Option Nat :=
  let lo := c.tapeb.toNat
  let hi := c.tapel.toNat
  let cur := c.tapec.toNat
  if hi ≤ lo then some lo
  else if cur < lo || hi < cur then some cur
  else if c.spadShare < hi then some hi
  else match lowestIn lo hi c.declared with
    | some a => some a
    | none =>
      match lowestIn lo hi c.pendingWrites with
      | some a => some a
      | none => if cur % 8 ≠ 0 then some cur else none

/-- `dmode` (R276). -/
def execDmode (g : Fin 16) (m : Mode) (s : State) : Host.Outcome State Fault Refusal :=
  slotOut s (guarded g fun c _ k =>
    match (if m == .off then none else c.windowFault) with
    | some a => .trap 0x0C 1 (wd a)
    | none => .act ((c.sched k c.cbc (.setMode m)).hold k))

/-- `tmark` (R279). -/
def execTmark (g : Fin 16) (imm : BitVec 16) (s : State) : Host.Outcome State Fault Refusal :=
  slotOut s (guarded g fun c _ k =>
    match c.dmode with
    | .off => .act c
    | .fwd =>
      if (c.tapel.toNat : Int) < c.projected + 8 then .trap 0x20 0 (c.tapec.zeroExtend 64)
      else .act ((c.sched k (c.cbc + 2) (.markPush imm)).enter k (c.cbc + 2))
    | .rev =>
      if c.projected - 8 < c.tapeb.toNat then .trap 0x21 0 (c.tapec.zeroExtend 64)
      else .act ((c.sched k (c.cbc + 2) (.markPop imm)).enter k (c.cbc + 2)))

end Sys2Proof.Machine
end

