-- ==== Sys2Proof/Machine/Control.lean ====
section
/-! DEFINITION. The instructions of slot 0 (08 R178-R187): branches, loops, timetable checks, token
waits, task end, traps, and control and status registers. -/

namespace Sys2Proof.Machine

/-- `nop` has no effect in any slot (07 R169). -/
def execNop (_g : Fin 16) (s : State) : Host.Outcome State Fault Refusal :=
  slotOut s fun _ _ _ c => .act c

/-- A target whose bundle does not lie in the context's share (07 R163, R171). -/
def Context.beyond (c : Context) (a : Nat) : Bool := c.imemShare < a + 48

/-- A taken branch to a bundle number, with the range check of R179. -/
def takeBranch (c : Context) (tgt : BitVec 16) (k : Context → Issue) : Issue :=
  if c.beyond (48 * tgt.toNat) then .trap 0x04 0 (wd (48 * tgt.toNat))
  else k { c with takenTo := some (BitVec.ofNat 64 (48 * tgt.toNat)) }

/-- `br` (R179). -/
def execBr (g : Fin 16) (tgt : BitVec 16) (s : State) : Host.Outcome State Fault Refusal :=
  slotOut s (guarded g fun c _ k => takeBranch c tgt fun c' => .act (c'.hold k))

/-- `brl`: the link A + 144 lands at b + 1 (R179). -/
def execBrl (g : Fin 16) (l : Fin 32) (tgt : BitVec 16) (s : State) :
    Host.Outcome State Fault Refusal :=
  slotOut s (guarded g fun c _ k => takeBranch c tgt fun c' => .act (c'.result k l 1 (wd (c.pc + 144))))

/-- A branch to an address in a register (R180). -/
def branchTo (c : Context) (k : Nat) (t : Word) : Issue :=
  if t.toNat % 48 ≠ 0 then .trap 0x03 0 t
  else if c.beyond t.toNat then .trap 0x04 0 t
  else .act ({ c with takenTo := some t }.hold k)

/-- `ret` (R180). -/
def execRet (g : Fin 16) (a : Fin 32) (s : State) : Host.Outcome State Fault Refusal :=
  slotOut s (guarded g fun c v k => branchTo c k (v.xr a))

/-- `rft`: the target is TADDR.ADDR; no trap status register changes (R180). -/
def execRft (g : Fin 16) (s : State) : Host.Outcome State Fault Refusal :=
  slotOut s (guarded g fun c _ k => branchTo c k (c.taddr.zeroExtend 64))

/-- `brloop`: RRB falls by one, and while LC is not 0 it falls by one and the branch is taken
(R181). Both changes take effect at the bundle's beat (02 R62). -/
def execBrloop (g : Fin 16) (tgt : BitVec 16) (s : State) : Host.Outcome State Fault Refusal :=
  slotOut s (guarded g fun c _ k => takeBranch c tgt fun c' =>
    if c.lc = 0 then .act ((c.sched k c.cbc .rotate).hold k)
    else .act (((c'.sched k c.cbc .rotate).sched k c.cbc (.setLc (c.lc - 1))).hold k))

/-- `loopb`: the pin of the bundles that follow (R182). -/
def execLoopb (g : Fin 16) (n : Nat) (s : State) : Host.Outcome State Fault Refusal :=
  slotOut s (guarded g fun c _ k =>
    .act ({ c with pin := some (c.pc + 48, min n ((c.imemShare - (c.pc + 48)) / 48)) }.hold k))

/-- `tchk`: SLIP, evaluated in this cycle, above the bound raises the timing fault (R183). -/
def execTchk (g : Fin 16) (a : Fin 32) (imm : BitVec 18) (s : State) :
    Host.Outcome State Fault Refusal :=
  slotOut s fun s b k c => guarded g (fun c v k =>
    let slip := c.slipAt (s.brick b).gbc c.cbc
    if min ((v.xr a).toNat + imm.toNat) (2 ^ 64 - 1) < slip.toNat then .trap 0x19 1 slip
    else .act (c.hold k)) s b k c

/-- Whether the operation of an outstanding token has not started, or the token is a fence's that
covers such an operation: no beat can pass, so it never completes (13 R290). -/
def Context.unstarted (c : Context) (t : Fin 32) : Bool :=
  c.ops.any fun o => o.token == t && !o.tokenOver &&
    ((o.kind != .fence && c.cbc ≤ o.startBeat) ||
      (o.kind == .fence && c.ops.any fun p => o.covers.contains p.id && c.cbc ≤ p.startBeat))

/-- The consumption of a token by `kwait` or `fencw` in slot `k` (R184, 13 R289, R290, R301). -/
def consume (c : Context) (k : Nat) (t : Fin 32) : Issue :=
  match c.tok.get t with
  | .free => .act (c.hold k)
  | .good => .act ({ c with tok := c.tok.set t.val .free }.hold k)
  | .error e => .trapWith { c with tok := c.tok.set t.val .free } 0x0D 0 (wd (t.val + e.toNat * 256))
  | .outstanding => if c.unstarted t then .trap 0x0A 6 (wd t.val) else .wait

/-- `kwait` (R184). -/
def execKwait (g : Fin 16) (t : Fin 32) (s : State) : Host.Outcome State Fault Refusal :=
  slotOut s (guarded g fun c _ k => consume c k t)

/-- `halt`: the checks at slot 0 (01 R43, R185); the task ends when the bundle takes its beat. -/
def execHalt (g : Fin 16) (s : State) : Host.Outcome State Fault Refusal :=
  slotOut s (guarded g fun c _ k =>
    if c.counted c.cbc ≠ 0 then .trap 0x18 0 (wd (c.counted c.cbc))
    else match c.held with
      | (first, _) :: _ => .trap 0x09 0 (wd first)
      | [] => .act ({ c with halting := true }.hold k))

/-- `trap`: the software trap (R185). -/
def execTrap (g : Fin 16) (code : BitVec 16) (s : State) : Host.Outcome State Fault Refusal :=
  slotOut s (guarded g fun _ _ _ => .trap 0x30 0 (code.zeroExtend 64))

/-- `csrr`: the register as it stands at the issue beat, after the updates that land there (R186); GBC and SLIP
are those of the cycle in which the bundle takes its beat (01 R28). -/
def execCsrr (g : Fin 16) (d : Fin 32) (n : BitVec 12) (s : State) :
    Host.Outcome State Fault Refusal :=
  slotOut s fun s b k c => guarded g (fun c _ k =>
    .act (if n = 0x010 ∨ n = 0x013 then (c.sched k c.cbc (.csrTime d n)).hold k
      else c.result k d 1 (csrRead (s.brick b).gbc c.csrView n.toNat))) s b k c

/-- `csrw`: a read-only register raises cause 0x05 and a tape register while `DMODE` is not off cause
0x06, whatever the guard; the write takes effect at the bundle's beat (R175, R186). -/
def execCsrw (g : Fin 16) (n : BitVec 12) (a : Fin 32) (s : State) :
    Host.Outcome State Fault Refusal :=
  slotOut s fun s b k c =>
    let info := wd (slotOf c.bundle k.val)
    if csrReadOnly n.toNat then .trap 0x01 5 info
    else if csrTape n.toNat && c.dmode != .off then .trap 0x01 6 info
    else guarded g (fun c v k => .act ((c.sched k c.cbc (.csr n (v.xr a))).hold k)) s b k c

end Sys2Proof.Machine
end

