-- ==== Sys2Proof/Machine/Copy.lean ====
section
/-! DEFINITION. The slot-7 instructions at their issue (13 R289-R309, 04 R111, R122, R453): copies, the
split fence and the dimension exchange. -/

namespace Sys2Proof.Machine

/-! ### Tokens and operations (R289, R290) -/

/-- An operation as it issues, with everything that its kind does not use left empty. -/
def Op.blank (id : Nat) (kind : OpKind) (t : Fin 32) (start : Nat) (asgen : Word) : Op where
  id := id
  kind := kind
  token := t
  a := 0
  b := 0
  c := 0
  fn := 0
  ety := .none
  dim := 0
  pdim := 0
  mask := 0
  startBeat := start
  started := false
  startCycle := 0
  asgen := asgen
  performed := []
  errs := []
  data := []
  landed := []
  rows := []
  covers := []
  coveredError := false
  doneSent := false
  partnerDone := false
  tokenDone := false
  barSent := 0
  barStep := 0
  barGot := []
  lastCycle := 0
  issuedAt := 0
  delivered := []
  spoiled := false

/-- Naming a token that is not outstanding; an error never consumed enters the report (R289, R290). -/
def nameToken (c : Context) (t : Fin 32) (k : Context → Issue) : Issue :=
  match c.tok.get t with
  | .outstanding => .trap 0x0A 4 (wd t.val)
  | .error _ => k { c with unconsumed := c.unconsumed ||| BitVec.ofNat 32 (2 ^ t.val) }
  | _ => k c

/-- An operation becomes outstanding on its token. -/
def Context.addOp (c : Context) (o : Op) : Context :=
  { c with tok := c.tok.set o.token.val .outstanding, ops := c.ops ++ [o], nextId := c.nextId + 1 }

/-- A token that completes good in the cycle of issue (R301, R306-R308). -/
def Context.goodNow (c : Context) (t : Fin 32) : Context := { c with tok := c.tok.set t.val .good }.hold 7

/-- An operation that starts in the cycle of its own beat: its landing-set entry ends with it (R292, R344). -/
def Context.startNow (c : Context) (o : Op) : Context := (c.addOp o).hold 7

/-! ### Checks of R293 -/

/-- Check 5: a scratchpad span against the share, then its alignment. -/
def checkSpan (c : Context) (a n align : Nat) (k : Issue) : Issue :=
  if c.spadShare < a + n then .trap 0x02 0 (wd a)
  else if a % align ≠ 0 then .trap 0x03 0 (wd a)
  else k

/-- Check 6: the global alignment. -/
def checkGlobal (a : Word) (k : Issue) : Issue := if a.toNat % 64 ≠ 0 then .trap 0x03 0 a else k

/-- Check 7, the landing rule (R300). -/
def checkLanding (c : Context) (tagged : Bool) (a n : Nat) (k : Issue) : Issue :=
  match (if tagged then c.outsideTile a n else none) with
  | some x => .trap 0x0A 2 (wd x)
  | none => k

/-- Check 8: the tape window (R300). -/
def checkWindow (c : Context) (a n : Nat) (k : Issue) : Issue :=
  match c.windowHit a n with
  | some x => .trap 0x0C 1 (wd x)
  | none => k

/-- Bits [31:25] are reserved, TAG is 0 without TG, and TG is 0 where a form has no tag (R295). -/
def tagOk (w : Nat) (allowed : Bool) : Bool :=
  nbits w 25 7 == 0 && (nbit w 24 || nbits w 32 32 == 0) && (allowed || !nbit w 24)

/-- The limits of the Linear word. -/
def linearOk (w : Nat) (allowed : Bool) : Bool :=
  tagOk w allowed && nbits w 0 24 != 0 && nbits w 0 24 % 64 == 0

/-- The limits of the Gather word. -/
def gatherOk (w : Nat) (allowed : Bool) : Bool :=
  tagOk w allowed && nbits w 18 6 == 0 && nbits w 0 12 != 0 && nbits w 12 6 != 0

/-- The operation of a `cpat` word, and its type. -/
def cpatOp (w : Nat) : Option AtomOp := atomOfCode (nbits w 0 3)
def cpatTy (w : Nat) : Option Ty :=
  match nbits w 4 4 with
  | 3 => some .s32 | 6 => some .n32 | 7 => some .f32 | _ => none

/-- The limits of the Atomic word. -/
def atomicOk (w : Nat) : Bool :=
  tagOk w (nbit w 8) && !nbit w 3 && nbits w 9 15 == 0 &&
    match cpatOp w, cpatTy w with
    | some op, some ty => !(op.logical && ty == .f32)
    | _, _ => false

/-! ### Copies (R294-R300) -/

/-- A copy issues: its token is outstanding, and it is a landing-set entry while its defer runs
(R292). -/
def startCopy (c : Context) (kind : OpKind) (t : Fin 32) (defer : Fin 64) (a b w : Word) : Issue :=
  let o := { Op.blank c.nextId kind t (c.cbc + defer.val) c.asgen with a := a, b := b, c := w }
  let c1 := c.addOp o
  .act (if defer.val = 0 then c1
    else { c1 with lset := ⟨c.cbc, 7, c.cbc + defer.val - 1, some o.id⟩ :: c1.lset })

/-- `cpld` (R296). -/
def execCpld (g : Fin 16) (a b w : Fin 32) (t : Fin 32) (defer : Fin 64) (s : State) :
    Host.Outcome State Fault Refusal :=
  slotOut s (guarded7 g fun _ _ c v =>
    nameToken c t fun c =>
    let x := v.xr w
    let n := nbits x.toNat 0 24
    let d := (v.xr b).toNat
    if !linearOk x.toNat true then .trap 0x04 0 x
    else checkSpan c d n 64 <| checkGlobal (v.xr a) <| checkLanding c (nbit x.toNat 24) d n <|
      checkWindow c d n <| startCopy c .cpld t defer (v.xr a) (v.xr b) x)

/-- `cpst` (R296). -/
def execCpst (g : Fin 16) (a b w : Fin 32) (t : Fin 32) (defer : Fin 64) (s : State) :
    Host.Outcome State Fault Refusal :=
  slotOut s (guarded7 g fun _ _ c v =>
    nameToken c t fun c =>
    let x := v.xr w
    if !linearOk x.toNat false then .trap 0x04 0 x
    else checkSpan c (v.xr b).toNat (nbits x.toNat 0 24) 64 <| checkGlobal (v.xr a) <|
      startCopy c .cpst t defer (v.xr a) (v.xr b) x)

/-- `cpfill` (R296). -/
def execCpfill (g : Fin 16) (a b w : Fin 32) (t : Fin 32) (defer : Fin 64) (s : State) :
    Host.Outcome State Fault Refusal :=
  slotOut s (guarded7 g fun _ _ c v =>
    nameToken c t fun c =>
    let x := v.xr w
    if !linearOk x.toNat false then .trap 0x04 0 x
    else checkSpan c (v.xr b).toNat 64 64 <| checkGlobal (v.xr a) <|
      startCopy c .cpfill t defer (v.xr a) (v.xr b) x)

/-- `cpga` (R296). -/
def execCpga (g : Fin 16) (a b w : Fin 32) (t : Fin 32) (defer : Fin 64) (s : State) :
    Host.Outcome State Fault Refusal :=
  slotOut s (guarded7 g fun _ _ c v =>
    nameToken c t fun c =>
    let x := v.xr w
    let rows := nbits x.toNat 0 12
    let n := 64 * nbits x.toNat 12 6 * rows
    let d := (v.xr b).toNat
    if !gatherOk x.toNat true then .trap 0x04 0 x
    else checkSpan c (v.xr a).toNat (8 * rows) 8 <| checkSpan c d n 64 <|
      checkLanding c (nbit x.toNat 24) d n <| checkWindow c d n <|
      startCopy c .cpga t defer (v.xr a) (v.xr b) x)

/-- `cpsc` (R296). -/
def execCpsc (g : Fin 16) (a b w : Fin 32) (t : Fin 32) (defer : Fin 64) (s : State) :
    Host.Outcome State Fault Refusal :=
  slotOut s (guarded7 g fun _ _ c v =>
    nameToken c t fun c =>
    let x := v.xr w
    let rows := nbits x.toNat 0 12
    if !gatherOk x.toNat false then .trap 0x04 0 x
    else checkSpan c (v.xr a).toNat (8 * rows) 8 <|
      checkSpan c (v.xr b).toNat (64 * nbits x.toNat 12 6 * rows) 64 <|
      startCopy c .cpsc t defer (v.xr a) (v.xr b) x)

/-- `cpsq` (R297): only the source that SRC names is read and checked. -/
def execCpsq (g : Fin 16) (a b w : Fin 32) (t : Fin 32) (defer : Fin 64) (s : State) :
    Host.Outcome State Fault Refusal :=
  slotOut s (guarded7 g fun _ _ c v =>
    nameToken c t fun c =>
    let x := v.xr w
    if 1 < x.toNat then .trap 0x04 0 x
    else if x = 1 then
      checkSpan c (v.xr b).toNat 256 64 <| startCopy c .cpsq t defer 0 (v.xr b) x
    else checkGlobal (v.xr a) <| startCopy c .cpsq t defer (v.xr a) 0 x)

/-- `cpat` (R298). -/
def execCpat (g : Fin 16) (a b w : Fin 32) (t : Fin 32) (defer : Fin 64) (s : State) :
    Host.Outcome State Fault Refusal :=
  slotOut s (guarded7 g fun _ _ c v =>
    nameToken c t fun c =>
    let x := v.xr w
    let d := (v.xr b).toNat
    let ret := nbit x.toNat 8
    if !atomicOk x.toNat then .trap 0x04 0 x
    else checkSpan c d 64 64 <| checkGlobal (v.xr a) <| checkLanding c (nbit x.toNat 24) d 64 <|
      checkWindow c d (if ret then 64 else 0) <| startCopy c .cpat t defer (v.xr a) (v.xr b) x)

/-! ### The split fence (R122, R301, R453) -/

/-- Whether one of the global spans of an operation has its home on this brick (04 R111). A span that has
no translation yet may come to have its home here, and it counts. -/
def State.homedHere (s : State) (b : Fin 8) (c : Context) (va spans : Nat) : Bool :=
  (List.range spans).any fun i =>
    match s.translate b (nbits c.asgen.toNat 16 16) (nbits c.asgen.toNat 0 16) (va + 64 * i) false false with
    | some pa => homeOf pa == b.val
    | none => true

/-- Whether a fence at a scope covers an operation (R453). -/
def State.fenceCovers (s : State) (b : Fin 8) (c : Context) (sc : Scope) (o : Op) : Bool :=
  let isGlobal (spans : Nat) : Bool := match sc with
    | .ctx => false
    | .brk => s.homedHere b c o.a.toNat spans
    | _ => true
  !o.tokenOver && match o.kind with
  | .cpld | .cpga => true
  | .cpat => nbit o.c.toNat 8 || isGlobal 1
  | .cpst | .cpfill => isGlobal o.spans
  | .cpsc => sc != .ctx
  | .cpsq => o.c = 0 && isGlobal 4
  | .xsend | .xcc | .xat =>
    match sc with
    | .sys => true
    | .sysMod => o.pdim ≤ 2
    | _ => false
  | .fence | .xbar => false

/-- `fenci`: the coverage is fixed now; a fence that covers nothing completes at once (R122, R301). -/
def execFenci (g : Fin 16) (t : Fin 32) (sc : Scope) (s : State) :
    Host.Outcome State Fault Refusal :=
  slotOut s (guarded7 g fun s b c _ =>
    nameToken c t fun c =>
    let cov := (c.ops.filter (s.fenceCovers b c sc)).map Op.id
    if cov.isEmpty then .act (c.goodNow t)
    else .act (c.startNow { Op.blank c.nextId .fence t c.cbc c.asgen with covers := cov }))

/-- `fencw` (R301): the only slot-7 operation that may act in a halt bundle (01 R43). -/
def execFencw (g : Fin 16) (t : Fin 32) (s : State) : Host.Outcome State Fault Refusal :=
  slotOut s (guarded g fun c _ k => consume c k t)

/-! ### Dimension exchange (R302-R309) -/

/-- Check 2: a mask of logical dimensions that has none at NDIM or above (01 R17). -/
def checkDims (c : Context) (mask : Nat) (k : Issue) : Issue :=
  if 2 ^ c.ndim ≤ mask then .trap 0x05 0 (wd mask) else k

/-- The limits of the source word; `sb` and `ety` are the fields that a form uses (R302). -/
def srcOk (w : Nat) (sb ety : Bool) : Bool :=
  nbits w 27 5 == 0 && nbits w 0 27 % 64 == 0 && nbits w 32 24 != 0 && nbits w 32 24 % 64 == 0 &&
    (sb || nbits w 56 4 == 0) && (ety || nbits w 60 4 == 0)

/-- The limits of the destination word. -/
def destOk (w : Nat) (tag : Bool) : Bool :=
  nbits w 27 5 == 0 && nbits w 0 27 % 64 == 0 && (tag || nbits w 32 32 == 0)

/-- Checks 5 and 7 on the spans of an exchange (R293, R303). -/
def checkExchange (c : Context) (sw dw : Nat) (tiles : Bool) (k : Issue) : Issue :=
  let src := nbits sw 0 27
  let dst := nbits dw 0 27
  let n := nbits sw 32 24
  checkSpan c src n 64 <| checkSpan c dst n 64 <| checkLanding c tiles dst n <|
    if src ≠ dst && overlaps src n dst n then .trap 0x0A 5 (wd dst) else k

/-- An exchange operation over a logical dimension starts in the cycle of its beat (R292). -/
def exchange (c : Context) (kind : OpKind) (t : Fin 32) (dim : Nat) (sw dw : Word) (fn : Nat)
    (ety : Ty) : Issue :=
  .act (c.startNow { Op.blank c.nextId kind t c.cbc c.asgen with
    a := sw, b := dw, fn := fn, ety := ety, dim := dim, pdim := c.pd dim })

/-- The common checks of the forms that exchange data (R293, R302, R303). -/
def dataExchange (c : Context) (t : Fin 32) (sw dw : Word) (sb : Bool) (k : Context → Issue) :
    Issue :=
  nameToken c t fun c =>
    if !srcOk sw.toNat sb false then .trap 0x04 0 sw
    else if !destOk dw.toNat true then .trap 0x04 0 dw
    else checkExchange c sw.toNat dw.toNat true (k c)

/-- `xch` (R303, R304). -/
def execXch (g : Fin 16) (dim : Fin 16) (a b : Fin 32) (t : Fin 32) (s : State) :
    Host.Outcome State Fault Refusal :=
  slotOut s (guarded7 g fun _ _ c v =>
    checkDims c (2 ^ dim.val) <| dataExchange c t (v.xr a) (v.xr b) false fun c =>
      exchange c .xsend t dim.val (v.xr a) (v.xr b) 0 .none)

/-- `xcc` (R305). -/
def execXcc (g : Fin 16) (dim : Fin 16) (a b : Fin 32) (t : Fin 32) (cb : Comb) (s : State) :
    Host.Outcome State Fault Refusal :=
  slotOut s (guarded7 g fun _ _ c v =>
    checkDims c (2 ^ dim.val) <| dataExchange c t (v.xr a) (v.xr b) false fun c =>
      exchange c .xcc t dim.val (v.xr a) (v.xr b) cb.code .none)

/-- `xsib`: a brick whose coordinate bit SB is not V sends nothing, and its token is good at once
(R306). -/
def execXsib (g : Fin 16) (dim : Fin 16) (a b : Fin 32) (t : Fin 32) (vb : Bool) (s : State) :
    Host.Outcome State Fault Refusal :=
  slotOut s (guarded7 g fun _ _ c v =>
    let sb := nbits (v.xr a).toNat 56 4
    checkDims c (2 ^ dim.val) <| checkDims c (2 ^ sb) <|
      dataExchange c t (v.xr a) (v.xr b) true fun c =>
        if nbit c.coord sb == vb then exchange c .xsend t dim.val (v.xr a) (v.xr b) 0 .none
        else .act (c.goodNow t))

/-- XOR of all right shifts of a number by 0 to n - 1: the rank of a Gray code (R307). -/
def grayRank : Nat → Nat → Nat
  | 0, _ => 0
  | n + 1, g => g ^^^ grayRank n (g / 2)

/-- The dimension over which `xgs` sends (R307). -/
def grayOut (mask coord : Nat) (back : Bool) : Nat :=
  let dims := setBits 12 0 mask
  let m := dims.length
  let g := (dims.zipIdx).foldl (fun a e => a + (if nbit coord e.1 then 2 ^ e.2 else 0)) 0
  let r := grayRank m g
  let t := if back then (if r = 0 then m - 1 else ctzCount m r)
    else if r = 2 ^ m - 1 then m - 1 else ctzCount m (r + 1)
  dims.getD t 0

/-- `xgs` (R307). -/
def execXgs (g : Fin 16) (mask : BitVec 12) (a : Fin 32) (t : Fin 32) (back : Bool) (s : State) :
    Host.Outcome State Fault Refusal :=
  slotOut s (guarded7 g fun _ _ c v =>
    let sw := v.xr a
    let dw := v.xr (Fin.ofNat 32 (a.val + 1))
    checkDims c mask.toNat <| dataExchange c t sw dw false fun c =>
      if mask = 0 then .act (c.goodNow t)
      else exchange c .xsend t (grayOut mask.toNat c.coord back) sw dw 0 .none)

/-- Whether an `xbar` waits for the whole of an operation issued before it, until it is delivered, also where an error
has completed its token before (R308, R303). Of an earlier `xbar` it waits for the steps over its own dimensions alone
(`Context.barFree`). -/
def barCovers (mask : BitVec 12) (o : Op) : Bool :=
  !o.tokenDone && match o.kind with
  | .xsend | .xcc | .xat => nbit mask.toNat o.dim
  | _ => false

/-- `xbar` (R308). -/
def execXbar (g : Fin 16) (mask : BitVec 12) (t : Fin 32) (s : State) :
    Host.Outcome State Fault Refusal :=
  slotOut s (guarded7 g fun _ _ c _ =>
    checkDims c mask.toNat <| nameToken c t fun c =>
      if mask = 0 then .act (c.goodNow t)
      else .act (c.startNow { Op.blank c.nextId .xbar t c.cbc c.asgen with
        mask := mask, covers := (c.ops.filter (barCovers mask)).map Op.id }))

/-- ETY of an `xat` word (R302). -/
def etyOf (w : Nat) : Option Ty :=
  match nbits w 60 4 with
  | 3 => some .s32 | 6 => some .n32 | 7 => some .f32 | 8 => some .bf16 | _ => none

/-- `xat` (R309): the destination lies in the share, and may lie outside landing tiles. -/
def execXat (g : Fin 16) (dim : Fin 16) (a b : Fin 32) (t : Fin 32) (op : AtomOp) (s : State) :
    Host.Outcome State Fault Refusal :=
  slotOut s (guarded7 g fun _ _ c v =>
    let sw := v.xr a
    let dw := v.xr b
    checkDims c (2 ^ dim.val) <| nameToken c t fun c =>
      match etyOf sw.toNat with
      | none => .trap 0x04 0 sw
      | some ety =>
        if !srcOk sw.toNat false true || !atomTyOk ety op then .trap 0x04 0 sw
        else if !destOk dw.toNat false then .trap 0x04 0 dw
        else checkExchange c sw.toNat dw.toNat false <|
          exchange c .xat t dim.val sw dw op.code ety)

end Sys2Proof.Machine
end

