-- ==== Sys2Proof/Machine/Beat.lean ====
section
/-! DEFINITION. One beat of a context (01 R23, R24, 04 R112, R113): landings, timed reads, the three
phases of scratchpad writes, tables, accumulators, counters, and the fixing of the next bundle. -/

namespace Sys2Proof.Machine

/-! ### Effects at their beat -/

/-- Effects of `csrw`, `dmode`, `dreg` and `brloop`, and the reads of GBC and SLIP, at their bundle's beat
(01 R28, 02 R62, 08 R186, 12 R275, R276). -/
def ctlEffect (gbc : Word) (c : Context) (t : Timed) : Context :=
  match t.eff with
  | .csr n v => csrWrite gbc c n.toNat v
  | .csrTime d n =>
    { c with timed := { t with due := t.due + 1, eff := .xw d (csrRead gbc c n.toNat) } :: c.timed }
  | .setMode m => { c with dmode := m }
  | .setRegion n v => { c with ag := c.ag.set n.val v }
  | .rotate => { c with rrb := c.rrb - 1 }
  | .setLc v => { c with lc := v }
  | _ => c

/-- The value that a load reads. -/
def loadVal (spad : List Host.Cell) (sgn : Bool) (bits addr w : Nat) : Nat :=
  extend sgn w bits (getN spad addr w)

/-- Timed reads and the steps of engine commands, on the state at the end of the beat before
(04 R112). -/
def readEffect (old : Context) (w : Work) (t : Timed) : Work :=
  match t.eff with
  | .ldx d addr n sgn => w.add t (t.due + 2) (.xw d (wd (loadVal old.spad sgn 64 addr n)))
  | .ldv d m la n sgn land =>
    w.add t land (.vw d m (ofActive m fun i => BitVec.ofNat 32 (loadVal old.spad sgn 32 (la.at n i) n)))
  | .readBank d bk _ => w.add t (t.due + 2) (.vw d (BitVec.allOnes 512) (bankOf old.banks bk))
  | .writeBack id => writeBack old w t id
  | .mxStep id j => mxStep old w t id j
  | .lookStep id j => lookStep old w t id j
  | .buildStep id j => buildStep old w t id j
  | .spillStep id j => spillStep old w t id j
  | .fillStep id j => fillStep old w t id j
  | .fillCheck _ _ recs => fillCheck old w t recs
  | _ => w

/-! ### Phase 1: timed writes and the tape (04 R113, 12 R277, R278) -/

/-- Scratchpad as the writes of a beat are applied: what they reach, the reverse-mode stores with the
elements that they restored, and the deferred faults. -/
structure Writes where
  ctx : Context
  touched : List Nat
  kept : List Timed
  faults : List DFault

/-- Bytes written. -/
def Writes.put (w : Writes) (l : List (Nat × Byte)) : Writes :=
  { w with ctx := { w.ctx with spad := setAll w.ctx.spad l }, touched := l.map Prod.fst ++ w.touched }

/-- A record pushed at TAPEC (12 R278). -/
def Writes.push (w : Writes) (r : Nat) : Writes :=
  let w1 := w.put (bytesAt w.ctx.tapec.toNat (toBytes 8 r))
  { w1 with ctx := { w1.ctx with tapec := w1.ctx.tapec + 8 } }

/-- A pop: the record below TAPEC. -/
def Writes.pop (w : Writes) : Nat × Writes :=
  let a := w.ctx.tapec - 8
  (getN w.ctx.spad a.toNat 8, { w with ctx := { w.ctx with tapec := a } })

/-- A tape mismatch of the operation that issued `t` (12 R278). -/
def Writes.mismatch (w : Writes) (t : Timed) (r : Nat) : Writes :=
  { w with faults := w.faults ++ [⟨t.issue, t.addr, 0x12, 0, wd (r % 2 ^ 32)⟩] }

/-- The element record of an element (12 R277). -/
def elemRecord (e : Elem) (old : Nat) : Nat := e.addr + e.region * 2 ^ 28 + old * 2 ^ 32

/-- The marker record of a mark (12 R277). -/
def markRecord (imm : BitVec 16) : Nat := 2 ^ 27 + imm.toNat * 2 ^ 32

/-- Pops for the elements of a reverse-mode store, each restored, up to the first mismatch
(08 R195, 09 R220). -/
def Writes.restore (w : Writes) (t : Timed) : List RevElem → List RevElem → Writes × List RevElem
  | [], done => (w, done)
  | e :: rest, done =>
    let (r, w1) := w.pop
    if nbit r 27 || nbits r 0 27 ≠ e.elem.addr then (w1.mismatch t r, done)
    else (w1.put (bytesAt e.elem.addr (toBytes e.elem.width (r / 2 ^ 32)))).restore t rest (done ++ [e])

/-- One timed write of phase 1. -/
def timedWrite (w : Writes) (t : Timed) : Writes :=
  match t.eff with
  | .store bytes push =>
    let old := w.ctx.spad
    (push.foldl (fun a e => a.push (elemRecord e (getN old e.addr e.width))) w).put bytes
  | .revStore elems bytes dest land =>
    let (w1, done) := w.restore t elems []
    let w2 := w1.put bytes
    { w2 with kept := w2.kept ++ [{ t with eff := .revStore done [] dest land }] }
  | .markPush imm => w.push (markRecord imm)
  | .markPop imm =>
    let (r, w1) := w.pop
    if nbit r 27 && nbits r 32 16 == imm.toNat then w1 else w1.mismatch t r
  | .accum _ => { w with kept := w.kept ++ [t] }
  | .atom _ _ _ _ _ _ => { w with kept := w.kept ++ [t] }
  | _ => w

/-! ### Phase 3: the bank units (04 R113, 09 R216, 12 R280) -/

/-- Width of an adjoint cell. -/
def cellBytes (abf16 : Bool) : Nat := if abf16 then 2 else 4

/-- One adjoint accumulation (12 R280). -/
def Writes.accum (w : Writes) (a : Accum) : Writes :=
  let old := getN w.ctx.spad a.cell (cellBytes a.abf16)
  let x : FV := if a.pbf16 then b16v a.value.toNat else f32v a.value
  let new := if a.abf16 then bf16.encode ((b16v old).add x)
    else (f32Add (BitVec.ofNat 32 old) a.value).toNat
  w.put (bytesAt a.cell (toBytes (cellBytes a.abf16) new))

/-- What a register receives of a cell (12 R280): the cell's bits, or the cell widened exactly, a NaN to the
canonical NaN. A cell of the element's own width goes over bit for bit, a NaN with its payload (DEDUCED,
assumption 21). -/
def cellBits (e : Elem) (cell : Nat) : Nat :=
  if e.abf16 && e.width == 4 then (toF32 (b16v cell)).toNat else cell

/-- The cells of the whole elements of a reverse-mode store, read and cleared in order; what each
lane receives. -/
def Writes.clear (w : Writes) : List RevElem → List (Nat × Nat) → Writes × List (Nat × Nat)
  | [], got => (w, got)
  | e :: t, got =>
    if e.whole then
      let n := cellBytes e.elem.abf16
      let x := getN w.ctx.spad e.elem.cell n
      (w.put (bytesAt e.elem.cell (toBytes n 0))).clear t
        (got ++ [(e.lane, cellBits e.elem x * 2 ^ e.shift)])
    else w.clear t got

/-- The bits that lane `i` received. -/
def laneGot (got : List (Nat × Nat)) (i : Nat) : Nat :=
  got.foldl (fun a g => if g.1 = i then a + g.2 else a) 0

/-- The register result of a reverse-mode store (08 R195, 09 R220). -/
def revResult (dest : Option RevDest) (got : List (Nat × Nat)) : Option Eff :=
  match dest with
  | none => none
  | some (.x d) => some (.xw d (wd (laneGot got 0)))
  | some (.v d m) => some (.vw d m (ofActive m fun i => BitVec.ofNat 32 (laneGot got i)))

/-- An effect scheduled by one that performs now. -/
def Writes.later (w : Writes) (t : Timed) (due : Nat) (e : Eff) : Writes :=
  { w with ctx := { w.ctx with timed := { t with due := due, eff := e } :: w.ctx.timed } }

/-- A read-modify-write of one element; the element as it stood (09 R216). -/
def Writes.rmw (w : Writes) (ty : Ty) (op : AtomOp) (addr : Nat) (x : BitVec 32) : Writes × BitVec 32 :=
  let n := atomBytes ty
  let old := BitVec.ofNat 32 (getN w.ctx.spad addr n)
  let x' : BitVec 32 := if n = 2 then BitVec.ofNat 32 (x.toNat % 2 ^ 16) else x
  (w.put (bytesAt addr (toBytes n (atomNew ty op old x').toNat)), old)

/-- The lanes of a `vatom`, in order. -/
def Writes.atoms (w : Writes) (ty : Ty) (op : AtomOp) (operand : VReg) :
    List (Nat × Nat) → List (Nat × Nat) → Writes × List (Nat × Nat)
  | [], got => (w, got)
  | p :: t, got =>
    let (w1, old) := w.rmw ty op p.2 (lane operand p.1)
    w1.atoms ty op operand t (got ++ [(p.1, old.toNat)])

/-- One local operation of phase 3. -/
def bankOp (w : Writes) (t : Timed) : Writes :=
  match t.eff with
  | .accum l => l.foldl Writes.accum w
  | .revStore elems _ dest land =>
    let (w1, got) := w.clear elems []
    match revResult dest got with
    | some e => w1.later t land e
    | none => w1
  | .atom m la ty op operand dest =>
    let (w1, got) := w.atoms ty op operand (laneList m la (atomBytes ty)) []
    match dest with
    | some d => w1.later t (t.due + 4) (.vw d m (ofActive m fun i => BitVec.ofNat 32 (laneGot got i)))
    | none => w1
  | _ => w

/-- The elements of an `xat` arrival, in order (13 R309). -/
def Writes.remote (w : Writes) (op : AtomOp) (ty : Ty) : Nat → List (BitVec 32) → Writes
  | _, [] => w
  | a, x :: t => (w.rmw ty op a x).1.remote op ty (a + atomBytes ty) t

/-! ### Tables at the end of a beat (11 R252-R254, R264, R268) -/

/-- Tables that land now; spoiled ones are invalid. -/
def Context.landTables (c : Context) (b : Nat) : Context :=
  let now := c.pendTables.filter (·.due == b)
  let c1 := now.foldl (fun a p => a.setTable p.reg (if p.spoiled then p.table.clearV else p.table)) c
  { c1 with pendTables := c.pendTables.filter (·.due != b) }

/-- Registers `first` to `first + n - 1` changed by `f`. -/
def Context.overTables (c : Context) (first n : Nat) (f : Table → Table) : Context :=
  (List.range n).foldl (fun a i => a.setTable (first + i) (f (a.table (first + i)))) c

/-- Invalidation by `ltbuild`, `ltfill` and `ltinv`. -/
def tableEffect (c : Context) (t : Timed) : Context :=
  match t.eff with
  | .prepTables first n (some gen) => c.overTables first n fun x => x.prep gen
  | .prepTables first n none => c.overTables first n Table.clearV
  | .invTables first n => c.overTables first n Table.clearV
  | _ => c

/-! ### The beat -/

/-- Bytes of the granules that are applied at the beat, in issue order of their operations, those of the partners
among them (R113). -/
def granuleWrites (l : List (Nat × Nat × BitVec 512)) : List (Nat × Byte) :=
  (sortBy Prod.fst l).flatMap fun g => bytesAt g.2.1 (toBytes 64 g.2.2.toNat)

/-- The mask of a pending saturation trap joined with another (R97). -/
def joinCrossing (l : List PendTrap) (m : Nat) : List PendTrap :=
  if m = 0 then l
  else match l.find? (·.code == 0x28) with
    | some p => { p with info := p.info ||| wd m } :: l.filter (·.code != 0x28)
    | none => l ++ [⟨0x28, wd m⟩]

/-- A context whose effects of the present beat have all been applied; CBC does not move here. -/
structure Beat where
  ctx : Context
  faults : List DFault

/-- Every effect of beat CBC (R24, R112-R114, R118). Tables that land at the beat land before an invalidation or a
preparation at it clears their V (DEDUCED, assumption 24). -/
def Context.beat (gbc : Word) (old : Context) : Beat :=
  let b := old.cbc
  let due := dueAt old.timed b
  let c1 := due.foldl (ctlEffect gbc) old
  let c2 := c1.landRegs due
  let w := due.foldl (readEffect old) ⟨{ c2 with timed := c2.timed.filter (·.due != b) }, []⟩
  let p1 := due.foldl timedWrite ⟨w.ctx, [], [], w.faults⟩
  let p2 := p1.put (granuleWrites old.phase2)
  let p3 := p2.kept.foldl bankOp p2
  let p4 := old.phase3.foldl (fun a x => a.remote x.op x.ty x.addr x.vals) p3
  let c4 := ({ p4.ctx with phase2 := [], phase3 := [] }).invalidate p4.touched
  let c5 := due.foldl tableEffect (c4.landTables b)
  let a := c5.accumulate due
  let c6 := { c5 with banks := a.banks, late := a.late }.bumpAll (counterUpds due ++ a.clips)
  let m := crossings c1 c6
  { ctx := { c6 with
      pending := joinCrossing c6.pending m
      crossed := c6.crossed ||| BitVec.ofNat 16 m }
    faults := p4.faults }

/-- Operations that this beat's bundle has issued are given their place in the order of issue (R113, R126). -/
def Context.stampOps (c : Context) (x : Brick) : Context :=
  { c with ops := c.ops.map fun o =>
      if o.issuedAt = 0 then { o with issuedAt := x.gbc.toNat * 2 ^ 64 + x.bcyc.toNat + 1 } else o }

/-- The next beat begins: entries and commands that have ended are forgotten. -/
def Context.nextBeat (c : Context) : Context :=
  let n := c.cbc + 1
  { c with
    cbc := n
    phase := .entry
    beatThisCycle := true
    serviced := none
    pre := none
    lset := c.lset.filter fun e => n ≤ e.last
    cmds := c.cmds.filter fun m => n ≤ m.complete }

/-- The address of the next bundle and the redirect queue (08 R178), QCNT and the Q-interval count
(01 R47, R49), and the trailing-idle count. -/
def Context.endBundle (c : Context) : Context :=
  let h := c.header
  { c with
    pc := match c.redir0 with
      | some a => a.toNat
      | none => c.pc + 48
    redir0 := c.redir1
    redir1 := c.takenTo
    takenTo := none
    qcnt := if hdrQ h then c.qcnt + 1 else c.qcnt
    qiCount := if hdrQ h then 0 else c.qiCount + 1
    idleLeft := hdrIdle h }

/-- The deferred fault that is raised: of the earliest issue (assumption 22). -/
def firstFault (l : List DFault) : Option DFault :=
  match sortBy DFault.issue l with
  | [] => none
  | f :: _ => some f

/-- The number of beats, flits or completions of a kernel counts as progress of its partition
(01 R51). -/
def State.progress (s : State) (kernel : Nat) : State :=
  match s.kernel kernel with
  | some k => s.setQueue k.queue { s.queue k.queue with window := 0 }
  | none => s

/-- The record of a task that `halt` ended (01 R43, 21 R400). -/
def haltEnd (c : Context) : EndInfo where
  kind := .halted
  code := 0
  cause := 0
  slot := 0
  prec := 0
  taddr := 0
  tbeat := 0
  tinfo := 0
  srw := 0
  cbc := c.cbc
  tibeat := 0

/-! ### What the sender of an exchange sees (04 R114, R128) -/

/-- The operation of the sender changes. -/
def State.atSender (s : State) (b : Fin 8) (d : Fin 12) (kernel id : Nat)
    (f : Context → Op → Context) : State :=
  match (if inModule d then s.liveTask (farOf b d) kernel else none) with
  | none => s
  | some q =>
    let c := s.ctx (farOf b d) q
    match c.op id with
    | some o => s.setCtx (farOf b d) q (f c o)
    | none => s

/-- The sender notes that a granule has been applied, or performed, and in which count (04 R114, R128). -/
def State.noteArrival (s : State) (b : Fin 8) (d : Fin 12) (kernel id i : Nat) : State :=
  s.atSender b d kernel id fun c o =>
    c.setOp { o with lastCycle := (s.brick b).gbc, delivered := i :: o.delivered }

/-- The remote atomics that a beat has performed, noted at their senders. -/
def State.noteRemote (s : State) (b : Fin 8) (kernel : Nat) (l : List RemoteAtom) : State :=
  l.foldl (fun t x => t.atSender b x.dim kernel x.id fun c o =>
    c.setOp { o with lastCycle := (s.brick b).gbc, delivered := (x.addr - o.dest) / 64 :: o.delivered }) s

/-- A task ends by its `halt`; the kernel completes with its last task (R43, R44). -/
def State.haltTask (s : State) (b : Fin 8) (q : Fin 4) : State :=
  let c := s.ctx b q
  (s.endTask b q { c with halting := false } (haltEnd c)).checkComplete c.kernel

/-- A saturation trap of a context is counted for each crossed counter of `mask`, under the policy of its launch
(25 R449, 05 R145). -/
def State.telCrossing (s : State) (b : Fin 8) (kernel mask : Nat) : State :=
  let abort := (s.kernel kernel).any (·.satAbort)
  (setBits 16 0 mask).foldl (fun t k => t.tel b 0x08 k (if abort then 1 else 0) 1) s

/-- The pending beat-boundary trap of the lowest code is taken (05 R140), a saturation trap counted with it. `addr` is
the bundle that issues at resume, `beat` the last beat taken. -/
def State.takePending (s : State) (b : Fin 8) (q : Fin 4) (beat : Nat) : State :=
  let c := s.ctx b q
  match sortBy PendTrap.code c.pending with
  | [] => s
  | p :: rest =>
    let s1 := s.setCtx b q { c with pending := rest }
    (if p.code = 0x28 then s1.telCrossing b c.kernel p.info.toNat else s1).takeTrap b q
      ⟨p.code, 0, p.info, .boundary, 0, c.pc, beat, beat⟩

/-- A beat has performed: a deferred fault kills the kernel (05 R141); else the next bundle is fixed,
or the task ends, after a crossing at the `halt` beat only through its trap (03 R109). -/
def State.closeBeat (s : State) (b : Fin 8) (q : Fin 4) (bundle : Bool) (r : Beat) : State :=
  let at' := r.ctx.cbc
  let s1 := s.progress r.ctx.kernel
  let s2 := { s1 with cur := if s1.cur == some (Cursor.mk b q) then none else s1.cur }
  match firstFault r.faults with
  | some f =>
    (s2.setCtx b q r.ctx.nextBeat).takeTrap b q
      ⟨f.code, f.cause, f.info, .deferred, 0, f.addr.toNat, at', f.issue⟩
  | none =>
    if bundle && r.ctx.halting then
      let c := { r.ctx with
        phase := .entry, beatThisCycle := true, serviced := none
        qcnt := if hdrQ r.ctx.header then r.ctx.qcnt + 1 else r.ctx.qcnt }
      let s3 := s2.setCtx b q c
      if c.pending.isEmpty then s3.haltTask b q else s3.takePending b q at'
    else if bundle then s2.setCtx b q r.ctx.nextBeat.endBundle
    else s2.setCtx b q { r.ctx.nextBeat with
        idleLeft := r.ctx.idleLeft - 1, qiCount := r.ctx.qiCount + 1 }

/-- The context takes beat CBC. -/
def State.takeBeat (s : State) (b : Fin 8) (q : Fin 4) (bundle : Bool) : State :=
  let c := s.ctx b q
  let r := c.beat (s.brick b).gbc
  (s.noteRemote b c.kernel c.phase3).closeBeat b q bundle { r with ctx := r.ctx.stampOps (s.brick b) }

/-- CONTEXT_BEAT: all eight slots have issued, and the bundle's beat is taken (R23, R24). -/
def execContextBeat (b : Fin 8) (q : Fin 4) (s : State) : Host.Outcome State Fault Refusal :=
  .next (if (s.ctx b q).run = .running ∧ (s.ctx b q).phase = .beatDue then s.takeBeat b q true else s)

end Sys2Proof.Machine
end

