-- ==== Sys2Proof/Machine/Entry.lean ====
section
/-! DEFINITION. Entry to a bundle, freezes, trailing-idle beats, the faults of waiting, and the services
that firmware makes of a trap (01 R23, R31-R53, 05 R130-R145, 10 R238, R239, 12 R282-R284). -/

namespace Sys2Proof.Machine

/-! ### Freeze conditions (05 R135) -/

/-- Whether an operation other than a fence has started and is outstanding (01 R43). -/
def Context.startedOps (c : Context) : Bool :=
  c.ops.any fun o => o.kind != .fence && !o.tokenOver && o.startBeat < c.cbc

/-- A wait on a token: `kwait`, `fencw`. A token that no beat could complete is no wait (13 R290). -/
def tokenWait (c : Context) (g : Fin 16) (t : Fin 32) : Option FreezeKind :=
  if c.view.guard g && c.tok.get t == .outstanding && !c.unstarted t then some .token else none

/-- A pop of the scale queue that finds it empty while a `cpsq` is outstanding: a token wait, whatever else the
command's slot would raise (10 R237, R249). -/
def popWait (c : Context) (g : Fin 16) (uses : Bool) : Option FreezeKind :=
  if uses && c.view.guard g && c.sq.isEmpty && c.sqPending then some .token else none

/-- A tagged read whose lowest active byte lies in a tile with an older tag: an arrival wait (09 R214). -/
def tagWait (c : Context) (g : Fin 16) (a : Fin 32) (disp : BitVec 8) (e : Fin 32) (ty : Ty) :
    Option FreezeKind :=
  let v := c.view
  match activeLanes (v.pr g) with
  | [] => none
  | i :: _ =>
    let w := vecBytes ty
    match c.tileOf ((v.xr a + disp.signExtend 64 * wd w).toNat + w * i) with
    | some t => if c.tagCmp t ((v.xr e).truncate 32) = .older then some .arrival else none
    | none => none

/-- Whether a stream register takes its scales from the queue. -/
def Context.queueScale (c : Context) (r : Fin 16) : Bool := (strm (c.view.s.get r)).scsrc == 2

/-- The freeze condition of slot `k` of the bundle that comes to issue. -/
def slotWait (c : Context) (k : Fin 8) : Option FreezeKind :=
  match slotInstr c.bundle k with
  | some (.ok i) =>
    match i with
    | .kwait g t => tokenWait c g t
    | .fencw g t => tokenWait c g t
    | .halt g =>
      if c.view.guard g && c.counted c.cbc == 0 && c.startedOps then some .token else none
    | .vldt g _ a disp e ty => tagWait c g a disp e ty
    | .mxmm g _ sa sb _ _ _ _ => popWait c g (c.queueScale sa || c.queueScale sb)
    | .acvt g _ _ scale _ _ _ _ => popWait c g (scale == .sq)
    | .ltlook g _ _ _ _ _ _ _ _ sq => popWait c g sq
    | _ => none
  | _ => none

/-- What a global stream says of the beat CBC (10 R238, R239): the virtual address of a failed step, or
that a step is not staged. -/
inductive StreamWait where
  | ready
  | failed (va : BitVec 52)
  | notStaged
  deriving DecidableEq, Repr

/-- A command whose step `j` falls on this beat. -/
def Cmd.streamWait (m : Cmd) (beat : Nat) : StreamWait :=
  if m.kind != .mxmm || beat < m.start || m.start + m.steps ≤ beat then .ready
  else
    let j := beat - m.start
    match m.failed with
    | some (f, va) => if f ≤ j then .failed va else
        if ((strm m.p).global && m.stagedP ≤ j) || ((strm m.q).global && m.stagedQ ≤ j) then .notStaged
        else .ready
    | none =>
      if ((strm m.p).global && m.stagedP ≤ j) || ((strm m.q).global && m.stagedQ ≤ j) then .notStaged
      else .ready

/-- The `halt` of the bundle at the program counter acts. -/
def Context.haltNext (c : Context) : Bool :=
  match slotInstr c.bundle 0 with
  | some (.ok (.halt g)) => c.view.guard g
  | _ => false

/-- The slots from this one on are still to issue; none when no bundle is at its entry. -/
def Context.entrySlot (c : Context) : Option Nat :=
  match c.phase with
  | .entry => if c.idleLeft = 0 then some 0 else none
  | .split k => some k.val
  | _ => none

/-- The global-stream command that slot 6 of the bundle at entry is about to issue with its first step at this very
beat, as far as the fetcher has staged it (05 R135, 10 R238). -/
def Context.prospect (c : Context) : Option Cmd :=
  match (if c.entrySlot.any (· ≤ 6) && decide (c.pc + 48 ≤ c.imemShare) && !c.haltNext then slotInstr c.bundle 6
      else none) with
  | some (.ok (.mxmm g a sa sb sc defer int init)) =>
    if c.view.guard g then
      match actMxmm a sa sb sc defer int init c c.view 6 with
      | .act c' => (c'.cmd c.nextId).filter fun m =>
          m.start == c.cbc && ((strm m.p).global || (strm m.q).global)
      | _ => none
    else none
  | _ => none

/-- The context waits before its bundle on nothing but a global stream: the fetcher may then read for the command that
the bundle is about to issue, whose reads come from its issue on (10 R238). -/
def Context.fetchesAhead (c : Context) : Bool :=
  c.run == .running && c.frozenSince.isSome &&
    match c.entrySlot with
    | some k => ((List.finRange 8).filter fun i => decide (k ≤ i.val)).all fun i => (slotWait c i).isNone
    | none => false

/-- The commands whose global streams the beat may need. -/
def Context.streamCmds (c : Context) : List Cmd := c.cmds ++ c.prospect.toList

/-- The failed step of this beat. -/
def Context.streamFailed (c : Context) : Option (BitVec 52) :=
  c.streamCmds.findSome? fun m => match m.streamWait c.cbc with
    | .failed va => some va
    | _ => none

/-- Whether a step of this beat is not staged. -/
def Context.streamFrozen (c : Context) : Bool := c.streamCmds.any fun m => m.streamWait c.cbc == .notStaged

/-- The freeze conditions of slots `k` to 7, and of the beat itself (05 R135, R137). -/
def freezeFrom (c : Context) (k : Nat) : Option FreezeKind :=
  match ((List.finRange 8).filter (fun i => k ≤ i.val)).findSome? (slotWait c) with
  | some kind => some kind
  | none => if c.streamFrozen then some .arrival else none

/-! ### The checks at entry -/

/-- A context that could take a beat in this cycle (R23): it runs, its seat owns the brick's cycle, and it
has taken no beat in it. -/
def State.ready (s : State) (b : Fin 8) (q : Fin 4) : Bool :=
  let x := s.brick b
  let c := s.ctx b q
  s.power == .on && x.inService && x.cycleNow && x.owns q && c.run == .running && !c.beatThisCycle &&
    s.cur == none

/-- The beat of the next bundle or idle beat would pass QI (R49). -/
def Context.pastQi (c : Context) : Bool := c.qi.toNat < c.qiCount + 1

/-- The cycle is one in which the context takes a trailing-idle beat, whose turn in the cycle has come (R23). -/
def State.idleDue (s : State) (b : Fin 8) (q : Fin 4) : Bool :=
  let c := s.ctx b q
  s.agenda.head? == some (.trailingIdleBeat b q) && s.ready b q && c.phase == .entry && c.idleLeft != 0 &&
    c.streamFailed.isNone && !c.pastQi && !c.streamFrozen

/-- The context is taking a beat in the present cycle: what arrives now is of phases 2 and 3 (04 R113, R114). -/
def State.beatNow (s : State) (b : Fin 8) (q : Fin 4) : Bool :=
  (s.ctx b q).phase == .beatDue || s.idleDue b q

/-- The freeze that the context was in, if any, ends (R32, 25 R449). -/
def State.endFreeze (s : State) (b : Fin 8) (q : Fin 4) : State :=
  let c := s.ctx b q
  (s.closeFreeze b c).setCtx b q { c with frozenSince := none }

/-- The context freezes; the budget counts from the first cycle (R33). -/
def State.freeze (s : State) (b : Fin 8) (q : Fin 4) (kind : FreezeKind) : State :=
  s.modCtx b q fun c => match c.frozenSince with
    | some _ => c
    | none => { c with frozenSince := some ((s.brick b).gbc, kind) }

/-- The Q-interval fault. -/
def State.qiFault (s : State) (b : Fin 8) (q : Fin 4) : State :=
  s.bundleTrap b q 0x19 3 (wd ((s.ctx b q).qi.toNat + 1))

/-- The slots from `k` issue: the cursor of the step is set on them. -/
def State.issueFrom (s : State) (b : Fin 8) (q : Fin 4) (k : Fin 8) : State :=
  { (s.endFreeze b q).modCtx b q fun c => { c with phase := .issuing k } with cur := some ⟨b, q⟩ }

/-- The pre-emption target is reached by the Q bundle that comes to issue (R45, R48). -/
def Seat.targetReached (x : Seat) : Bool := x.preEn && x.ctx.qcnt + 1 == x.preTarget

/-- A stopped context goes on at its Q bundle, and one that is saved in trap service is in service again (R404). It
keeps GBCS, and the time that it stood adds to its SLIP by the formula of 01 R28 (DEDUCED, assumption 30). -/
def Seat.goOn (x : Seat) (gbc : Word) : Seat :=
  match x.ctx.run with
  | .stopped => { x with resumeOwed := false, ctx := { x.ctx with run := .running, recorded := false } }
  | .saved spent =>
    { x with resumeOwed := false, ctx := { x.ctx with run := .service (gbc - spent), recorded := false } }
  | _ => x

/-- PREEMPT keeps a stopped or saved context from going on. -/
def Seat.detained (x : Seat) : Bool :=
  match x.ctx.run with
  | .stopped => x.targetReached
  | _ => x.preEn

/-- A context of which a save record exists, or that a restore has loaded, and whose address space's generation has
advanced on its brick: it never runs again (22 R455). -/
def Brick.passed (x : Brick) (t : Seat) : Bool :=
  let saved := match t.ctx.run with
    | .stopped => t.ctx.recorded
    | .saved _ => true
    | .restored => true
    | _ => false
  saved && (x.genOf t.ctx.asid).toNat != t.ctx.gen

/-- The checks that follow the freeze conditions as slot 0 comes to issue (07 R165, 08 R178). -/
def State.checkHeader (s : State) (b : Fin 8) (q : Fin 4) : State :=
  let c := s.ctx b q
  if headerOk c.header (slotOf c.bundle) then s.issueFrom b q 0
  else (s.endFreeze b q).slotTrap b q 0 0x01 4 (wd c.header)

/-- The entry checks on a bundle that is no resumed split, after the beat-boundary traps (05 R135). -/
def State.enter (s : State) (b : Fin 8) (q : Fin 4) : State :=
  let c := s.ctx b q
  if c.pastQi then s.qiFault b q
  else if hdrQ c.header && c.counted c.cbc ≠ 0 then s.bundleTrap b q 0x18 0 (wd (c.counted c.cbc))
  else if hdrQ c.header && (s.seat b q).targetReached then
    (s.endFreeze b q).modCtx b q fun x => { x with
      run := .stopped, stopGbc := (s.brick b).gbc, slipHeld := x.slipAt (s.brick b).gbc x.cbc, pre := none }
  else if c.imemShare < c.pc + 48 then
    if c.streamFrozen then s.freeze b q .arrival else (s.endFreeze b q).slotTrap b q 0 0x04 0 (wd c.pc)
  else match freezeFrom c 0 with
    | some kind => s.freeze b q kind
    | none => s.checkHeader b q

/-- A failed stream step of this beat becomes a pending beat-boundary trap (10 R239). -/
def Context.raiseStream (c : Context) : Context :=
  match c.streamFailed with
  | some va => { c with pending := c.pending ++ [⟨0x22, va.zeroExtend 64⟩] }
  | none => c

/-- BUNDLE_ENTRY (05 R135, R137). -/
def execBundleEntry (b : Fin 8) (q : Fin 4) (s : State) : Host.Outcome State Fault Refusal :=
  let c := s.ctx b q
  .next (if !s.ready b q then s
    else match c.phase with
      | .entry =>
        if c.idleLeft ≠ 0 then s
        else
          let s1 := s.setCtx b q c.raiseStream
          if c.raiseStream.pending.isEmpty then s.enter b q
          else (s1.endFreeze b q).takePending b q (c.cbc - 1)
      | .split k =>
        match freezeFrom c k.val with
        | some kind => s.freeze b q kind
        | none => s.issueFrom b q k
      | _ => s)

/-- TRAILING_IDLE_BEAT (R23, 10 R238): nothing issues. A step of a global stream that is due at the beat
and is not staged freezes it; one that failed traps. -/
def execTrailingIdleBeat (b : Fin 8) (q : Fin 4) (s : State) : Host.Outcome State Fault Refusal :=
  let c := s.ctx b q
  .next (if !s.ready b q || c.phase != .entry || c.idleLeft == 0 then s
    else match c.streamFailed with
      | some va =>
        (s.endFreeze b q).takeTrap b q
          ⟨0x22, 0, va.zeroExtend 64, .boundary, 0, c.pc, c.cbc - 1, c.cbc - 1⟩
      | none =>
        if c.pastQi then s.qiFault b q
        else if c.streamFrozen then s.freeze b q .arrival
        else (s.endFreeze b q).takeBeat b q false)

/-- Q_INTERVAL_FAULT (R49): the next beat, of a bundle or of an idle beat, would make the count QI + 1. -/
def execQIntervalFault (b : Fin 8) (q : Fin 4) (s : State) : Host.Outcome State Fault Refusal :=
  let c := s.ctx b q
  .next (if s.ready b q && c.phase == .entry && c.pastQi &&
        (c.idleLeft != 0 || c.raiseStream.pending.isEmpty) && c.streamFailed.isNone then s.qiFault b q
    else s)

/-- FBUD.BUDGET; a value above 2^30 is taken as 2^30 (R33). -/
def Context.budget (c : Context) : Nat := min c.fbud.toNat (2 ^ 30)

/-- First slot whose freeze condition the context waits on. -/
def Context.fromSlot (c : Context) : Nat := match c.phase with
  | .split k => k.val
  | _ => 0

/-- Whether the cause of the context's freeze still holds. -/
def State.stillFrozen (s : State) (b : Fin 8) (q : Fin 4) : Bool :=
  let c := s.ctx b q
  if c.idleLeft ≠ 0 || decide (c.imemShare < c.pc + 48) then c.streamFrozen
  else (freezeFrom c c.fromSlot).isSome

/-- The window counter of a context's partition has run out (R52, R53). -/
def State.stallDue (s : State) (c : Context) : Bool :=
  match s.kernel c.kernel with
  | some k => 2 ^ 20 ≤ (s.queue k.queue).window
  | none => false

/-- A token or arrival wait of the context has reached the budget, and its cause holds (R33). -/
def State.budgetDue (s : State) (b : Fin 8) (q : Fin 4) : Bool :=
  let c := s.ctx b q
  match c.frozenSince with
  | some (g0, _) =>
    c.run == .running && decide (c.budget ≤ ((s.brick b).gbc - g0).toNat) && s.stillFrozen b q
  | none => false

/-- FREEZE_BUDGET (R33): a token or arrival wait reaches the budget while its cause holds; a stall in
the same count comes first (R53). The slots of a split that froze give SRW.K, as of a kill (R148), though R132 calls
the fault one between beats (DEDUCED, assumption 20). -/
def execFreezeBudget (b : Fin 8) (q : Fin 4) (s : State) : Host.Outcome State Fault Refusal :=
  let c := s.ctx b q
  .next (if s.budgetDue b q && !s.stallDue c then
      s.takeTrap b q ⟨0x19, 2, c.slipAt (s.brick b).gbc c.cbc, .bundle, c.fromSlot, c.pc, c.cbc, c.cbc⟩
    else s)

/-- The trap status of a service-overrun kill (R454). -/
def Context.overrun (c : Context) : Context :=
  { c with
    tstat := wd (0x3D + 4 * 2 ^ 19)
    tinfo := wd (nbits c.tstat.toNat 0 16) }

/-- SERVICE_OVERRUN (R33, R454): hardware ends a trap service that reaches the budget. A context that is saved
already, and is being saved again, is switched out (R31). -/
def execServiceOverrun (b : Fin 8) (q : Fin 4) (s : State) : Host.Outcome State Fault Refusal :=
  let c := s.ctx b q
  .next (match c.run.serviceSince with
    | some g0 =>
      if (s.seat b q).resaved.isNone && decide (c.budget ≤ ((s.brick b).gbc - g0).toNat) then
        (s.setCtx b q c.overrun).killOwn b q
      else s
    | none => s)

/-! ### The progress monitor (R51-R53, R143) -/

/-- The contexts of a partition that have not ended. -/
def State.partition (s : State) (p : Fin 64) : List Context :=
  (s.kernels.filter (·.queue == p)).flatMap fun k =>
    (k.seats.map fun x => s.ctx x.1 x.2).filter fun c => c.kernel == k.id && !c.run.over

/-- Whether a context is switched out or stopped for pre-emption. -/
def Run.preempted : Run → Bool
  | .stopped => true
  | .saving _ _ none => true
  | .saved _ => true
  | .restored => true
  | _ => false

def Run.inService : Run → Bool
  | .service _ => true
  | _ => false

/-- Whether the monitor of a partition counts: some context has neither ended nor been pre-empted, and
none is frozen in trap service (R52, R143). While it does not count, the window counter keeps its value (R51, DEDUCED,
assumption 30). -/
def State.monitored (s : State) (p : Fin 64) : Bool :=
  let l := s.partition p
  l.any (fun c => !c.run.preempted) && !l.any fun c => c.run.serviceSince.isSome

/-- The end of a task by a stall. A freeze budget that ran out in the same count is recorded as CAUSE 0x02, that of
the timing fault which is not raised (R53, assumption 20). -/
def State.stallEnd (s : State) (b : Fin 8) (q : Fin 4) (x : Context) : EndInfo :=
  { asyncEnd x .stall 0x38 0 with cause := if s.budgetDue b q then 2 else 0 }

/-- A context of a partition has stopped before its Q bundle in the present count: a stall in that count comes first,
and the pre-emption is abandoned (R53). -/
def State.stoppedNow (s : State) (p : Fin 64) : Bool :=
  s.kernels.any fun k => k.queue == p && k.seats.any fun x =>
    let c := s.ctx x.1 x.2
    c.kernel == k.id && c.run == .stopped && c.stopGbc == (s.brick x.1).gbc

/-- The stall fault of a partition is due (R52, R53, R143). -/
def State.stalls (s : State) (p : Fin 64) : Bool :=
  decide (2 ^ 20 ≤ (s.queue p).window) &&
    (s.monitored p || (s.stoppedNow p && !(s.partition p).any fun c => c.run.serviceSince.isSome))

/-- STALL (R52): every context of the partition is frozen and its kernels that have not ended are killed. -/
def execStall (p : Fin 64) (s : State) : Host.Outcome State Fault Refusal :=
  .next (if s.stalls p then
      let s1 := s.setQueue p { s.queue p with window := 0 }
      (s.kernels.filter fun k => k.queue == p && k.endGbc.isNone).foldl
        (fun t k => t.killKernel k.id 0x38 fun b q x => some (s.stallEnd b q x)) s1
    else s)

/-! ### Trap service (05 R137, R138, R145) -/

/-- The context waits on the service of a trap with this code. -/
def Context.awaits (c : Context) (code : Nat) : Bool :=
  c.run.inService && !c.svcDone && nbits c.tstat.toNat 0 8 == code

/-- Virtual address of offset `o` of the spill area (12 R282). -/
def Context.spillVa (c : Context) (o : Nat) : Nat := c.tapesa.toNat + o

/-- A span of the spill area written; none where the access faults or its generation is stale. -/
def State.spillWrite (s : State) (b : Fin 8) (c : Context) (o : Nat) (l : List Byte) : Option State :=
  match s.runsAt b c.asid c.gen (c.spillVa o) l.length false true with
  | some rs => some { s with mem := writeRuns s.mem rs l }
  | none => none

/-- A span of the spill area read. -/
def State.spillRead (s : State) (b : Fin 8) (c : Context) (o n : Nat) : Option (List Byte) :=
  match s.runsAt b c.asid c.gen (c.spillVa o) n true false with
  | some rs => some (rs.flatMap fun r => getBytes s.mem r.1 r.2)
  | none => none

/-- Firmware writes one table entry by its physical address (22 R410, R412): an entry that a walk of one of the
pages `vas` of the address space reads, and no other memory (05 R138). -/
def State.writePte (s : State) (asid : Nat) (vas : List Nat) (e : BitVec 52 × Word) : State :=
  if s.physOk e.1.toNat && vas.any fun va => (s.walkAddrs asid va).contains e.1.toNat then
    { s with mem := setBytes s.mem e.1.toNat (toBytes 8 e.2.toNat) }
  else s

/-- The pages of a span of the spill area. -/
def Context.spillPages (c : Context) (o n : Nat) : List Nat :=
  (pageRuns (n / 4096 + 2) (c.spillVa o) n).map Prod.fst

/-- The trailer of a spill block of `n` records (R282). -/
def trailer (n : Nat) : List Byte := padTo 64 (le 8 n)

/-- Firmware maps a page for the access of its service to the spill area (12 R282, 22 R412): of the block that an
overflow writes, or of what an underflow may read. -/
def State.mapSpill (s : State) (b : Fin 8) (q : Fin 4) (e : BitVec 52 × Word) : State :=
  let c := s.ctx b q
  if c.awaits 0x20 then s.writePte c.asid (c.spillPages c.sp (c.tapec.toNat - c.tapeb.toNat + 64)) e
  else if c.awaits 0x21 then s.writePte c.asid (c.spillPages 0 c.sp) e
  else s

/-- TAPE_OVERFLOW_SERVICE (R283). Firmware may map a page of the area first (`State.mapSpill`); an area that it cannot
reach then ends in a kill (R282). A push that is in flight performs at its own beat
after the service, as R283 has it, and not during the freeze as 08 R196 says (DEDUCED, assumption 21). A pop that is
still in flight, of the time before a change to the forward mode, reads below the emptied cursor, for R283 writes the
whole tape out (DEDUCED, assumption 37). -/
def execTapeOverflowService (b : Fin 8) (q : Fin 4) (s : State) :
    Host.Outcome State Fault Refusal :=
  let c := s.ctx b q
  .next (if c.awaits 0x20 then
      let n := (c.tapec.toNat - c.tapeb.toNat) / 8
      if n = 0 then s.setCtx b q { c with svcDone := true }
      else match s.spillWrite b c c.sp (getBytes c.spad c.tapeb.toNat (8 * n) ++ trailer n) with
        | some s1 => s1.setCtx b q
            { c with sp := c.sp + 8 * n + 64, tapec := c.tapeb, tapes := c.tapes + 1, svcDone := true }
        | none => s.killOwn b q
    else s)

/-- Records that the faulting access of a tape underflow pops (R278). -/
def Context.popsOf (c : Context) (k : Fin 8) : Nat :=
  let v := c.view
  let recs (l : List (Nat × Nat)) (w : Nat) (scatter : Bool) : Nat :=
    (storeRecs (c.covers true l w) scatter).length
  match slotInstr c.bundle k with
  | some (.ok (.tmark _ _)) => 1
  | some (.ok (.sts _ a disp _ ty)) =>
    recs [(0, (v.xr a + dispVal (scalarBytes ty) disp).toNat)] (scalarBytes ty) false
  | some (.ok (.vst g a disp _ ty)) =>
    let w := vecBytes ty
    recs (laneList (v.pr g) (.contig (v.xr a + dispVal w disp).toNat) w) w false
  | some (.ok (.vscat g a e _ ty)) =>
    let w := vecBytes ty
    recs (laneList (v.pr g) (.indexed (v.xr a).toNat (v.vr e)) w) w true
  | _ => 0

/-- Pending pushes (R284). -/
def Context.pendingPushes (c : Context) : Nat :=
  c.timed.foldl (fun a t => a + (if 0 < t.eff.tapeMove then t.eff.tapeMove.toNat else 0)) 0

/-- The loop of R284; none where an access to the spill area faults. The count is that of the records
refilled. -/
def refill (b : Fin 8) (r : Nat) : Nat → State → Context → Nat → Option (State × Context × Nat)
  | 0, s, c, got => some (s, c, got)
  | f + 1, s, c, got =>
    if c.sp = 0 || (c.tapeb.toNat : Int) ≤ c.projected - 8 * r then some (s, c, got)
    else match s.spillRead b c (c.sp - 64) 8 with
      | none => none
      | some t =>
        let n := ofBytes t
        let held := (c.tapec.toNat - c.tapeb.toNat) / 8
        let cap := (c.tapel.toNat - c.tapeb.toNat) / 8
        let m := min n (cap - held - c.pendingPushes)
        if m = 0 then some (s, c, got)
        else match s.spillRead b c (c.sp - 64 - 8 * m) (8 * m) with
          | none => none
          | some new =>
            let base := c.tapeb.toNat
            let c1 := c.writeSpad (bytesAt base (new ++ getBytes c.spad base (8 * held)))
            let c2 := { c1 with tapec := c1.tapec + BitVec.ofNat 27 (8 * m) }
            if m = n then refill b r f s { c2 with sp := c.sp - 8 * n - 64 } (got + m)
            else match s.spillWrite b c (c.sp - 64 - 8 * m) (trailer (n - m)) with
              | none => none
              | some s1 => refill b r f s1 { c2 with sp := c.sp - 8 * m } (got + m)

/-- TAPE_UNDERFLOW_SERVICE (R284): with nothing spilled, or an area that cannot be reached, the kernel
is killed. Firmware may map a page of the area first (`State.mapSpill`). -/
def execTapeUnderflowService (b : Fin 8) (q : Fin 4) (s : State) :
    Host.Outcome State Fault Refusal :=
  let c := s.ctx b q
  .next (if c.awaits 0x21 then
      let k : Fin 8 := match c.phase with
        | .split k => k
        | _ => 0
      match refill b (c.popsOf k) (c.sp / 64 + 1) s c 0 with
      | none => s.killOwn b q
      | some (s1, c1, got) =>
        if c1.sp = 0 && got == 0 then s.killOwn b q
        else s1.setCtx b q { c1 with svcDone := true }
    else s)

/-- The fetcher discards what it staged for the failed step and later ones, and fetches again
(10 R239). -/
def Cmd.refetch (m : Cmd) : Cmd :=
  match m.failed with
  | some (j, _) => { m with failed := none, stagedP := min m.stagedP j, stagedQ := min m.stagedQ j }
  | none => m

/-- STREAM_TRANSLATION_SERVICE (10 R239, 05 R138): firmware maps the page, or declines and the kernel is
killed. -/
def execStreamTranslationService (b : Fin 8) (q : Fin 4) (entry : Option (BitVec 52 × Word))
    (s : State) : Host.Outcome State Fault Refusal :=
  let c := s.ctx b q
  .next (if c.awaits 0x22 then
      match entry with
      | some e =>
        let s1 := s.writePte c.asid [c.tinfo.toNat] e
        s1.setCtx b q { c with cmds := c.cmds.map Cmd.refetch, pre := c.pre.map Cmd.refetch, svcDone := true }
      | none => s.killOwn b q
    else s)

/-- SATURATION_POLICY_SERVICE (05 R145): flag and continue, or abort, as the launch record says. -/
def execSaturationPolicyService (b : Fin 8) (q : Fin 4) (s : State) :
    Host.Outcome State Fault Refusal :=
  let c := s.ctx b q
  .next (if c.awaits 0x28 then
      if (s.kernel c.kernel).any (·.satAbort) then s.killOwn b q
      else s.setCtx b q
        { c with scst := c.scst ||| c.tinfo.truncate 16, crossed := 0, svcDone := true }
    else s)

/-- TRAP_RESUME (05 R137): the context goes on; a task whose crossing fell on its `halt` beat ends
(03 R109) once no further beat-boundary trap is pending (R140). -/
def execTrapResume (b : Fin 8) (q : Fin 4) (s : State) : Host.Outcome State Fault Refusal :=
  let c := s.ctx b q
  .next (if c.run.inService && c.svcDone then
      if c.haltTaken then
        if c.pending.isEmpty then s.haltTask b q else (s.closeFreeze b c).takePending b q c.cbc
      else (s.closeFreeze b c).setCtx b q c.resume
    else s)

/-- A context that has started, whatever has become of it since. -/
def Run.begun : Run → Bool
  | .empty | .armed _ => false
  | _ => true

/-- Every task of a kernel that has not reported is held by its seat and committed, and until the first of them has
started no seat table of their bricks stands refused for its spacing: so all start together or none does (R39, R41;
assumption 29). -/
def State.allCommitted (s : State) (kernel : Nat) : Bool :=
  match s.kernel kernel with
  | some k =>
    let held (p : Fin 8 × Fin 4) : Bool := (s.ctx p.1 p.2).kernel == kernel
    (k.seats.zipIdx.all fun e => k.reports.any (fun r => r.1 == e.2) ||
      (held e.1 && (s.ctx e.1.1 e.1.2).run != .armed false && (s.ctx e.1.1 e.1.2).run != .empty)) &&
    ((k.seats.any fun p => held p && (s.ctx p.1 p.2).run.begun) || k.seats.all fun p => !(s.brick p.1).tableBad)
  | none => true

/-- TASK_START (R41): a committed context takes the first owned cycle at or after GBCS, with every task of its kernel
committed and no seat table refused for its spacing (R39). -/
def execTaskStart (b : Fin 8) (q : Fin 4) (s : State) : Host.Outcome State Fault Refusal :=
  let x := s.brick b
  let c := s.ctx b q
  .next (if s.power == .on && x.inService && x.cycleNow && x.owns q && c.run == .armed true &&
        c.gbcs ≤ x.gbc && s.allCommitted c.kernel && !x.tableBad then
      s.setSeat b q { s.seat b q with
        ctx := { c with run := .running, phase := .entry }
        armedReg := false, runReg := true }
    else s)

end Sys2Proof.Machine
end

