-- ==== Sys2Proof/Machine/Traffic.lean ====
section
/-! DEFINITION. Variable-latency traffic of the copy engines, fences, the scale queue and the fetcher of
global streams (04 R114, R115, R119-R122, 13 R289-R301, 10 R236-R240). Each event takes place when its
condition holds; otherwise nothing happens. -/

namespace Sys2Proof.Machine

/-! ### Completion of operations (13 R289) -/

def OpKind.isCopy : OpKind → Bool
  | .cpld | .cpst | .cpfill | .cpga | .cpsc | .cpsq | .cpat => true
  | _ => false

/-- Priority of token causes (05 R133). -/
def causeOf (errs : List (Nat × BitVec 8)) : Option (BitVec 8) :=
  [4, 6, 1, 5, 7, 3].find? fun k => errs.any fun e => e.2 == k

/-- An operation that a fence or an `xbar` covered has completed (04 R122, 13 R308). -/
def Op.covered (o : Op) (id : Nat) (bad : Bool) : Op :=
  if o.covers.contains id then
    { o with covers := o.covers.filter (· != id), coveredError := o.coveredError || bad }
  else o

/-- An operation leaves with its token in a final state, that of an earlier error where it has met one. -/
def Context.finish (c : Context) (o : Op) (t : Token) : Context :=
  { c with
    tok := if o.tokenOver then c.tok else c.tok.set o.token.val t
    ops := (c.ops.filter (·.id != o.id)).map fun p => p.covered o.id t.isErr }

/-- The brick cycle in which a completion takes effect for a seat (04 R114): the present one until the seat has come to
issue in it, else the next. Completions of one cycle are those that the same tagged read meets first, which 02 R84 calls
those at one beat (DEDUCED, assumption 25). -/
def State.cycleOf (s : State) (b : Fin 8) (q : Fin 4) : Nat :=
  let x := s.brick b
  if x.cycleNow && (s.turns || s.agenda.contains (.bundleEntry b q)) then x.bcyc.toNat else x.bcyc.toNat + 1

/-- The tag of tile `i` set by a completion, in cycle `cyc`, of an operation issued at `iss`; the completion of a
later-issued operation in the same cycle keeps its tag (02 R84). -/
def Context.setTag (c : Context) (cyc iss : Nat) (i : Nat) (tag : BitVec 32) : Context :=
  if c.tagBy.any fun e => e.1 == i && e.2.1 == cyc && decide (iss < e.2.2) then c
  else { c with
    tags := mapSet 0 c.tags i tag
    tagBy := (i, (cyc, iss)) :: c.tagBy.filter fun e => e.1 != i }

/-- The tags of the landing tiles that a span touches (02 R72). -/
def Context.setTags (c : Context) (cyc iss a n : Nat) (tag : BitVec 32) : Context :=
  c.tiles.zipIdx.foldl (fun m t => if overlaps t.1 4096 a n then m.setTag cyc iss t.2 tag else m) c

/-- An event on one operation of a seat. -/
def State.onOp (s : State) (b : Fin 8) (q : Fin 4) (id : Nat) (f : Context → Op → State) : State :=
  let c := s.ctx b q
  match c.op id with
  | some o => if c.run.live then f c o else s
  | none => s

/-! ### Copy engines (13 R294) -/

/-- The copy engine that an operation runs on: the quadrant of its scratchpad span, which is that of operand B, for a
gather or scatter the data and not the address list; of a `cpsq` from memory, which has none, engine 0 (DEDUCED,
assumption 25). -/
def Op.engine (c : Context) (o : Op) : Nat := o.b.toNat / 2 ^ (25 - c.frac) % 4

/-- COPY_ENGINE_START (R292, R294): the beat b + DEFER has been taken, and the operations before it on the
engine whose defer has run out have started. -/
def execCopyEngineStart (b : Fin 8) (q : Fin 4) (id : Nat) (s : State) :
    Host.Outcome State Fault Refusal :=
  .next (s.onOp b q id fun c o =>
    let ready (p : Op) : Bool := p.kind.isCopy && !p.started && p.startBeat < c.cbc
    if ready o && !c.ops.any fun p => ready p && p.id < o.id && p.engine c == o.engine c then
      s.setCtx b q (c.setOp { o with started := true, startCycle := (s.brick b).gbc })
    else s)

/-! ### Accesses at the home (04 R119, 02 R81-R83, R125) -/

/-- Row of span `i` of a gather or scatter. -/
def Op.rowOf (o : Op) (i : Nat) : Nat := i / nbits o.c.toNat 12 6

/-- The address-list entry of a row: as first read, or as it stands. -/
def Op.entry (o : Op) (c : Context) (r : Nat) : Word :=
  match o.rows.find? (·.1 == r) with
  | some e => e.2
  | none => wd (getN c.spad (o.a.toNat + 8 * r) 8)

/-- The global address of span `i`, or the cause that rejects it. -/
def Op.globalAddr (o : Op) (c : Context) (i : Nat) : Except (BitVec 8) Nat :=
  let row := match o.kind with
    | .cpga | .cpsc => true
    | _ => false
  let base := if row then (o.entry c (o.rowOf i)).toNat else o.a.toNat
  let va := if row then base + 64 * (i % nbits o.c.toNat 12 6) else base + 64 * i
  if 2 ^ 52 ≤ base then .error 5
  else if row && base % 64 != 0 then .error 7
  else if 2 ^ 52 ≤ va then .error 5
  else .ok va

/-- A `cpsq` whose entry comes from scratchpad (R297). -/
def Op.fromSpad (o : Op) : Bool := o.kind == .cpsq && o.c == 1

/-- Whether an operation's spans need read and write permission. -/
def Op.needs (o : Op) : Bool × Bool :=
  match o.kind with
  | .cpld | .cpga | .cpsq => (true, false)
  | .cpat => (true, true)
  | _ => (false, true)

/-- The scratchpad address of the source or destination of span `i`. -/
def Op.local (o : Op) (i : Nat) : Nat :=
  match o.kind with
  | .cpfill | .cpat => o.b.toNat
  | _ => o.b.toNat + 64 * i

/-- The 64 bytes of a `cpat` span after the operation (R298). -/
def atomicSpan (w : Nat) (old opd : Nat) : List Byte :=
  let op := (cpatOp w).getD .add
  let ty := (cpatTy w).getD .s32
  (List.range 16).flatMap fun i =>
    toBytes 4 (atomNew ty op (BitVec.ofNat 32 (nbits old (32 * i) 32))
      (BitVec.ofNat 32 (nbits opd (32 * i) 32))).toNat

/-- A span is performed at its home, physical address `pa`. -/
def State.performAt (s : State) (b : Fin 8) (q : Fin 4) (c : Context) (o : Op) (i pa : Nat) : State :=
  let src := getBytes c.spad (o.local i) 64
  let got := BitVec.ofNat 512 (getN s.mem pa 64)
  let o1 := { o with performed := i :: o.performed }
  match o.kind with
  | .cpld | .cpga | .cpsq => s.setCtx b q (c.setOp { o1 with data := (i, got) :: o.data })
  | .cpat =>
    let s1 := { s with mem := setBytes s.mem pa (atomicSpan o.c.toNat got.toNat (ofBytes src)) }
    s1.setCtx b q (c.setOp (if o.lands then { o1 with data := (i, got) :: o.data } else o1))
  | _ => { s with mem := setBytes s.mem pa src }.setCtx b q (c.setOp o1)

/-- Whether span `i` is still to be performed. -/
def Op.pendingSpan (o : Op) (i : Nat) : Bool :=
  decide (i < o.spans) && !o.performed.contains i && !o.errs.any fun e => e.1 == i

/-- HOME_ACCESS (R83, R119, R121, 13 R296-R298): one 64-byte span of a started copy. A span without a
translation waits for firmware (R299). -/
def execHomeAccess (b : Fin 8) (q : Fin 4) (id i : Nat) (s : State) :
    Host.Outcome State Fault Refusal :=
  .next (s.onOp b q id fun c o =>
    if !(o.kind.isCopy && o.started && decide (o.startCycle < (s.brick b).gbc) && o.pendingSpan i) then s
    else
      let o1 := match o.kind with
        | .cpga | .cpsc =>
          if o.rows.any fun e => e.1 == o.rowOf i then o
          else { o with rows := (o.rowOf i, o.entry c (o.rowOf i)) :: o.rows }
        | _ => o
      let reject (k : BitVec 8) : State := s.setCtx b q (c.setOp { o1 with errs := (i, k) :: o.errs })
      if o.fromSpad then
        s.setCtx b q (c.setOp { o with
          performed := i :: o.performed
          data := (i, BitVec.ofNat 512 (getN c.spad (o.local i) 64)) :: o.data })
      else match o1.globalAddr c i with
        | .error k => reject k
        | .ok va =>
          match s.translate b c.asid c.gen va o.needs.1 o.needs.2 with
          | none => s
          | some pa => if s.genOk pa c.asid c.gen then s.performAt b q c o1 i pa else reject 1)

/-- TRANSLATION_SERVICE (13 R299, 22 R412): firmware writes a table entry, or declines, and every span of
the operation that has no translation is rejected. Operations are numbered from 1; 0 names firmware's own access to the
spill area in the service of a tape trap (12 R282). -/
def execTranslationService (b : Fin 8) (q : Fin 4) (id : Nat) (entry : Option (BitVec 52 × Word))
    (s : State) : Host.Outcome State Fault Refusal :=
  .next (if id = 0 && ((s.ctx b q).op 0).isNone then
      match entry with
      | some e => s.mapSpill b q e
      | none => s
    else s.onOp b q id fun c o =>
    if !(o.kind.isCopy && o.started) || o.fromSpad then s
    else
      let miss := (List.range o.spans).filterMap fun i =>
        if !o.pendingSpan i then none
        else match o.globalAddr c i with
          | .ok va => if (s.translate b c.asid c.gen va o.needs.1 o.needs.2).isNone then some (i, va) else none
          | .error _ => none
      match entry with
      | some e => s.writePte c.asid (miss.map Prod.snd) e
      | none => s.setCtx b q (c.setOp { o with errs := miss.map (fun m => (m.1, 5)) ++ o.errs }))

/-! ### Landing and completion (04 R113-R115, 13 R299, R300) -/

/-- A granule is applied: in phase 2 of the beat that the context is taking (`now`), or at once in a cycle in which
it takes none (R114). None in a cycle whose beat has been taken already. -/
def Context.applyGranule (c : Context) (now : Bool) (key a : Nat) (d : BitVec 512) : Option Context :=
  if now then some { c with phase2 := c.phase2 ++ [(key, a, d)] }
  else if c.beatThisCycle then none
  else some (c.writeSpad (bytesAt a (toBytes 64 d.toNat)))

/-- LANDING_GRANULE (R115, R118). -/
def execLandingGranule (b : Fin 8) (q : Fin 4) (id g : Nat) (s : State) :
    Host.Outcome State Fault Refusal :=
  .next (s.onOp b q id fun c o =>
    match (if o.lands then o.data.find? (·.1 == g) else none) with
    | none => s
    | some e =>
      match c.applyGranule (s.beatNow b q) o.issuedAt (o.local g) e.2 with
      | none => s
      | some c1 => s.setCtx b q (c1.setOp { o with
          landed := g :: o.landed
          data := o.data.filter (·.1 != g)
          lastCycle := (s.brick b).gbc }))

/-- Every span is performed or rejected, and every granule of a performed span has been applied. -/
def Op.settled (o : Op) : Bool :=
  (List.range o.spans).all fun i =>
    (o.performed.contains i && (!o.lands || o.landed.contains i)) || o.errs.any fun e => e.1 == i

/-- The span and tag of a tagged copy (R300). -/
def Op.tag (o : Op) : Option (BitVec 32) :=
  if o.lands && nbit o.c.toNat 24 then some (BitVec.ofNat 32 (nbits o.c.toNat 32 32)) else none

/-- COPY_COMPLETION (R121, R133, R299, R300): in a cycle after that of its last granule. A `cpsq` completes
here only with an error. -/
def execCopyCompletion (b : Fin 8) (q : Fin 4) (id : Nat) (s : State) :
    Host.Outcome State Fault Refusal :=
  .next (s.onOp b q id fun c o =>
    let g := (s.brick b).gbc
    if !(o.kind.isCopy && o.started && o.settled && decide (o.startCycle < g) &&
        decide (o.lastCycle < g)) then s
    else match causeOf o.errs with
      | some k => (s.setCtx b q (c.finish o (.error k))).progress c.kernel
      | none =>
        if o.kind == .cpsq then s
        else
          let c1 := match o.tag with
            | some t => c.setTags (s.cycleOf b q) o.issuedAt o.landing.1 o.landing.2 t
            | none => c
          (s.setCtx b q (c1.finish o .good)).progress c.kernel)

/-- FENCE_COMPLETION (R122, R453): every covered operation has completed. -/
def execFenceCompletion (b : Fin 8) (q : Fin 4) (id : Nat) (s : State) :
    Host.Outcome State Fault Refusal :=
  .next (s.onOp b q id fun c o =>
    if o.kind == .fence && o.covers.isEmpty then
      s.setCtx b q (c.finish o (if o.coveredError then .error 2 else .good))
    else s)

/-- The entry of a `cpsq` whose spans have all been read. -/
def Op.queueEntry (o : Op) : BitVec 2048 :=
  BitVec.ofNat 2048 ((List.range 4).foldl (fun a i =>
    a + ((o.data.find? (·.1 == i)).elim 0 fun e => e.2.toNat) * 2 ^ (512 * i)) 0)

/-- SCALE_QUEUE_PUSH (10 R236, 13 R297): the entry of the oldest `cpsq` enters when there is room, and its
token completes. -/
def execScaleQueuePush (b : Fin 8) (q : Fin 4) (id : Nat) (s : State) :
    Host.Outcome State Fault Refusal :=
  .next (s.onOp b q id fun c o =>
    if o.kind == .cpsq && o.started && o.settled && o.errs.isEmpty && decide (c.sq.length < 16) &&
        !c.ops.any fun p => p.kind == .cpsq && decide (p.id < o.id) then
      (s.setCtx b q ({ c with sq := c.sq ++ [o.queueEntry] }.finish o .good)).progress c.kernel
    else s)

/-! ### Draining (22 R404, R405) -/

/-- A `cpsq` whose data has been fetched and is held back, 16 entries being held or pending before it (10 R236). -/
def Context.heldBack (c : Context) (o : Op) : Bool :=
  o.kind == .cpsq && o.started && o.settled && o.errs.isEmpty &&
    decide (16 ≤ c.sq.length + (c.ops.filter fun p => p.kind == .cpsq && decide (p.id < o.id)).length)

/-- The drain has ended: every started operation has completed but the held pushes. -/
def Context.drained (c : Context) : Bool := c.ops.all fun o => c.heldBack o || decide (c.cbc ≤ o.startBeat)

/-- A drain that has ended within its budget is noted in its count: a save may then be captured (R404). -/
def Seat.tickDrain (x : Seat) (gbc : Word) : Seat :=
  match x.ctx.run with
  | .saving _ since _ =>
    if x.ctx.drained && decide ((gbc - since).toNat < x.ctx.budget) then { x with captured := true } else x
  | _ => x

/-- The drain of a released context ends with its last operation, or with its budget in any case; the scrub of its share
may then begin (R416). -/
def State.tickRelease (s : State) (b : Fin 8) (q : Fin 4) : State :=
  let c := s.ctx b q
  match c.run with
  | .released since =>
    if c.drained || decide (c.budget ≤ ((s.brick b).gbc - since).toNat) then s.endDrain b q else s
  | _ => s

/-! ### Global streams (10 R238-R240) -/

/-- The 64-byte spans that K-step `j` of a side reads, ascending along its lines, without repeats. -/
def stepSpans (d : Strm) (kb j : Nat) : List Nat :=
  ((List.range d.lines).flatMap fun l =>
    (d.lineSpan l (j * kb) (min ((j + 1) * kb) d.len)).map fun a => a / 64 * 64).foldl
      (fun acc a => if acc.contains a then acc else acc ++ [a]) []

/-- The bytes of spans whose translation and generation hold, or the address of the first that fails. -/
def State.fetchSpans (s : State) (b : Fin 8) (c : Context) : List Nat → Except Nat (List (Nat × Byte))
  | [] => .ok []
  | va :: t =>
    match (if 2 ^ 52 ≤ va then none else s.translate b c.asid c.gen va true false) with
    | none => .error va
    | some pa =>
      if !s.genOk pa c.asid c.gen then .error va
      else match s.fetchSpans b c t with
        | .ok l => .ok (bytesAt va (getBytes s.mem pa 64) ++ l)
        | .error x => .error x

/-- The staging tiles are written with the spans of a step and with tags that are the fetcher's; which granule of
them holds which span is a free value (assumption 8). Tables over them become invalid (R240, 11 R263). -/
def Context.stageTiles (c : Context) (d : Strm) (n : Nat) (spans : List (List (Nat × Byte))) : Context :=
  let c1 := (List.range d.nst).foldl (fun a i =>
    { a with tags := mapSet 0 a.tags (d.stage + i) (Config.stagingTag n) }) c
  spans.zipIdx.foldl (fun a e =>
    let g := Config.choice (n + e.2) % max (64 * d.nst) 1
    a.writeSpad (bytesAt (c.tiles.getD (d.stage + g / 64) 0 + g % 64 * 64) (e.1.map Prod.snd))) c1

/-- The bytes of a list in groups of 64. -/
def spansOf : Nat → List (Nat × Byte) → List (List (Nat × Byte))
  | 0, _ => []
  | n + 1, l => if l.isEmpty then [] else l.take 64 :: spansOf n (l.drop 64)

/-- A command by its number, the one that is about to issue among them (R238). -/
def Context.streamCmd (c : Context) (id : Nat) : Option Cmd := c.streamCmds.find? (·.id == id)

/-- What the fetcher has done for a command: kept in the command, or beside it until it issues. -/
def Context.setStream (c : Context) (m : Cmd) : Context :=
  if (c.cmd m.id).isSome then c.setCmd m else { c with pre := some m }

/-- GLOBAL_STREAM_FETCH (R238, R239): the next K-step of one side is staged, or marked failed; of two steps that fail
the lower is marked, and steps before it are still fetched. For a command that its bundle is about to issue nothing is
read while the bundle waits on anything else. -/
def execGlobalStreamFetch (b : Fin 8) (q : Fin 4) (id : Nat) (side : Bool) (j : Nat) (s : State) :
    Host.Outcome State Fault Refusal :=
  let c := s.ctx b q
  .next (match c.streamCmd id with
    | none => s
    | some m =>
      let d := if side then strm m.q else strm m.p
      let kb := (kbeat (strm m.p) (strm m.q)).getD 1
      if !(c.run.live && ((c.cmd m.id).isSome || c.fetchesAhead) && m.kind == .mxmm && d.global &&
        m.failed.all (fun f => decide (j < f.1)) &&
          decide (j < m.steps) && j == (if side then m.stagedQ else m.stagedP)) then s
      else match s.fetchSpans b c (stepSpans d kb j) with
        | .error va => s.setCtx b q (c.setStream { m with failed := some (j, BitVec.ofNat 52 va) })
        | .ok l =>
          let base := if side then 2 ^ 53 else 0
          let m1 := { m with
            staged := l.foldl (fun a e => mapSet 0 a (base + e.1) e.2) m.staged
            stagedP := if side then m.stagedP else j + 1
            stagedQ := if side then j + 1 else m.stagedQ }
          let sp := spansOf l.length l
          { (s.setCtx b q ((c.setStream m1).stageTiles d s.freeCtr sp)) with
            freeCtr := s.freeCtr + 1 + sp.length })

end Sys2Proof.Machine
end

