-- ==== Sys2Proof/Machine/Links.lean ====
section
/-! DEFINITION. Mortar links: flits, acknowledgement and replay, training and failure, time
synchronisation, detours (24 R433-R442), what exchanges send (13 R303-R309), and the tick of the global beat
counter (01 R26, R51). -/

namespace Sys2Proof.Machine

/-! ### The CRC of a flit (R436) -/

/-- One bit of CRC-32C, the register reflected: 0x1EDC_6F41 backwards is 0x82F6_3B78. -/
def crcBit : Nat → Nat → Nat
  | 0, c => c
  | n + 1, c => crcBit n (if c % 2 = 1 then c / 2 ^^^ 0x82F63B78 else c / 2)

/-- CRC-32C of bytes, with the register all ones before and inverted after (PRESUMED, assumption 26). -/
def crc32c (l : List Byte) : BitVec 32 :=
  BitVec.ofNat 32 (l.foldl (fun c x => crcBit 8 (c ^^^ x.toNat)) 0xFFFFFFFF ^^^ 0xFFFFFFFF)

/-- What a flit carries, as bytes that tell one payload from another; the spec gives them no layout (DESIGN CHOICE,
assumption 26). -/
def payloadBytes : Payload → List Byte
  | .keepAlive => [0]
  | .granule k id xcc len fn off dest data =>
    [1, if xcc then 1 else 0] ++ le 8 k ++ le 8 id ++ le 4 len ++ le 1 fn ++ le 4 off ++ le 4 dest ++ le 64 data.toNat
  | .done k id xcc len fn dest tag =>
    [2, if xcc then 1 else 0] ++ le 8 k ++ le 8 id ++ le 4 len ++ le 1 fn ++ le 4 dest ++ le 4 tag.toNat
  | .xat k id op ty dest len l =>
    [3, by8 op.ctorIdx, by8 ty.ctorIdx] ++ le 8 k ++ le 8 id ++ le 4 dest ++ le 4 len ++ l.flatMap fun v => le 4 v.toNat
  | .bar k i => 4 :: (le 8 k ++ le 1 i)
  | .sync g => 5 :: le 8 g.toNat
  | .commit k t q => [6, by8 t.val, by8 q.val] ++ le 8 k
  | .other data => 7 :: le 64 data.toNat

/-- The CRC of a flit's header, its final destination and sequence number, and of its payload (R436). -/
def flitCrc (f : Flit) : BitVec 32 := crc32c (le 2 f.dest.toNat ++ le 4 f.seq.toNat ++ payloadBytes f.payload)

/-- A flit has come through whole. -/
def crcGood (f : Flit) : Bool := f.crc == flitCrc f

/-- A flit with its CRC. -/
def sealFlit (f : Flit) : Flit := { f with crc := flitCrc f }

/-! ### Sending (R436, R439) -/

/-- The dimension that carries the flits of a link: its own, or the relay's (R439). -/
def State.route (s : State) (b : Fin 8) (d : Fin 12) : Fin 12 :=
  if (s.link b d).active then Fin.ofNat 12 (s.link b d).via.toNat else d

/-- Whether new flits may leave: the link is up or detoured, nothing holds them back, and the replay
buffer of 512 flits has room. -/
def Link.open (l : Link) : Bool :=
  (l.state == .up || l.active) && !l.closing && l.downing.isNone && decide (l.unacked.length < 512)

/-- Flits put on the wire over the dimension that carries them. -/
def State.transmit (s : State) (b : Fin 8) (d : Fin 12) (l : List Flit) : State :=
  s.modLink b (s.route b d) fun x => { x with wire := x.wire ++ l, lastTx := (s.brick b).gbc }

/-- One payload as the next flit of its pair and dimension. -/
def State.emit (s : State) (b : Fin 8) (d : Fin 12) (p : Payload) : State :=
  let l := s.link b d
  let f := sealFlit
    { src := BitVec.ofNat 12 b.val, dest := BitVec.ofNat 12 (b.val ^^^ 2 ^ d.val), dim := d, seq := l.txSeq
      crc := 0, payload := p }
  (s.setLink b d { l with txSeq := l.txSeq + 1, unacked := l.unacked ++ [f] }).transmit b d [f]

/-- A payload leaves now, or waits behind those that are held. -/
def State.sendOn (s : State) (b : Fin 8) (d : Fin 12) (p : Payload) : State :=
  let l := s.link b d
  if l.open && l.held.isEmpty then s.emit b d p else s.setLink b d { l with held := l.held ++ [p] }

/-- A flit of a kernel that leaves is progress of its partition (01 R51). -/
def State.progressOf (s : State) (p : Payload) : State :=
  match payloadKernel p with
  | some k => s.progress k
  | none => s

/-- Held payloads leave while they may. -/
def State.flush (b : Fin 8) (d : Fin 12) : Nat → State → State
  | 0, s => s
  | n + 1, s =>
    match (s.link b d).held with
    | [] => s
    | p :: t =>
      if (s.link b d).open then
        State.flush b d n (((s.modLink b d fun x => { x with held := t }).emit b d p).progressOf p)
      else s

/-- How often a flit has been replayed without an acknowledgement of it (R437). -/
def Link.replaysOf (l : Link) (f : Flit) : Nat := ((l.replayed.find? (·.1 == f.seq)).map Prod.snd).getD 0

/-- Replays in a row of the first unacknowledged flit, which has had the most (R437). -/
def Link.replayCount (l : Link) : Nat := (l.unacked.head?.map l.replaysOf).getD 0

/-- Every unacknowledged flit has been replayed once more. -/
def Link.countReplay (l : Link) : Link := { l with replayed := l.unacked.map fun f => (f.seq, l.replaysOf f + 1) }

/-- Every unacknowledged flit again, in order, and counted as replayed (R436, 25 R449). -/
def State.resend (s : State) (b : Fin 8) (d : Fin 12) : State :=
  let l := s.link b d
  ((s.setLink b d { l with
    askReplay := false
    replays := BitVec.ofNat 32 (min (l.replays.toNat + l.unacked.length) (2 ^ 32 - 1)) }).transmit b d
      l.unacked).tel b 0x03 d.val 1 l.unacked.length

/-! ### Start commits (21 R398) -/

/-- The COMMIT for a seat of brick `t` reaches the brick `b`: it is there, or goes on over the lowest dimension in which
they differ (assumption 29). -/
def State.passCommit (s : State) (b : Fin 8) (kernel : Nat) (t : Fin 8) (q : Fin 4) : State :=
  match setBits 12 0 (b.val ^^^ t.val) with
  | [] => if (s.ctx b q).kernel == kernel then s.setSeat b q { s.seat b q with commitIn := true } else s
  | d :: _ => s.sendOn b (Fin.ofNat 12 d) (.commit kernel t q)

/-- The entry of a kernel's start (23 R428). -/
def State.logStart (s : State) (k : Kernel) : State :=
  s.logEvent 0 0x0020 k.queue.val (le 8 k.tag.toNat ++ le 8 k.asid.toNat ++ le 8 k.pfree.toNat ++
    le 8 k.pbase.toNat ++ le 8 k.gbcs.toNat ++ (mrBytes k.image.nhash).take 32)

/-- The chief steward sends the commits of a kernel whose arms it has collected, in this count or a later one (a free
choice, assumption 4). -/
def State.sendCommits (s : State) : State :=
  match s.kernels.find? fun k => !k.commitSent with
  | none => s
  | some k =>
    let s1 := { s with freeCtr := s.freeCtr + 1 }
    if nbit (Config.choice s.freeCtr) 0 then s1
    else k.seats.foldl (fun t p => t.passCommit 0 k.id p.1 p.2)
      ((s1.setKernel { k with commitSent := true }).logStart k)

/-! ### What the exchange units send (13 R303-R309) -/

/-- The bits of `n` bytes as 32-bit values of elements of `w` bytes. -/
def elements (w : Nat) (d : Nat) : List (BitVec 32) :=
  (List.range (64 / w)).map fun i => BitVec.ofNat 32 (nbits d (8 * w * i) (8 * w))

/-- Granule `i` of an exchange as it leaves, read now (R292). -/
def granulePayload (c : Context) (o : Op) (i : Nat) : Payload :=
  let d := getN c.spad (o.src + 64 * i) 64
  match o.kind with
  | .xat => .xat c.kernel o.id ((atomOfCode o.fn).getD .add) o.ety (o.dest + 64 * i) o.len
      (elements (atomBytes o.ety) d)
  | _ => .granule c.kernel o.id (o.kind == .xcc) o.len o.fn (64 * i) (o.dest + 64 * i)
      (BitVec.ofNat 512 d)

/-- Logical dimensions of an `xbar`, ascending (R308). -/
def Op.dims (o : Op) : List Nat := setBits 12 0 o.mask.toNat

/-- A barrier step that has been sent and received is done. -/
def Op.stepBar : Nat → Op → Op
  | 0, o => o
  | n + 1, o =>
    if o.barStep < o.barSent && o.barGot.contains (o.dims.getD o.barStep 12) then
      ({ o with barStep := o.barStep + 1 } : Op).stepBar n
    else o

/-- The barrier goes on; after its last dimension its token completes good. -/
def Context.advanceBar (c : Context) (o : Op) : Context :=
  let o1 := o.stepBar 12
  if o1.barStep = o1.dims.length then c.finish o1 .good else c.setOp o1

/-- An exchange of a context that has granules or its notice to send over a physical dimension. -/
def Context.sends (c : Context) (d : Nat) (o : Op) : Bool :=
  (o.kind == .xsend || o.kind == .xcc || o.kind == .xat) && o.pdim == d && !o.doneSent && !o.tokenDone &&
    decide (o.startBeat < c.cbc)

/-- The exchange of a brick that sends next over a physical dimension, with its seat: the first that was issued of
those that have not sent everything, whatever its context (R126). -/
def State.nextSend (s : State) (b : Fin 8) (d : Fin 12) : Option (Fin 4 × Op) :=
  let all := (List.finRange 4).flatMap fun q =>
    let c := s.ctx b q
    if c.run.live then (c.ops.filter (c.sends d.val)).map fun o => (q, o) else []
  (sortBy (fun e => e.2.issuedAt) all).head?

/-- The granule that an exchange sends next: any that it has not sent, by the choice `n` (R115); those of an `xat` go
in order (R309). -/
def Op.sendNext (o : Op) (n : Nat) : Option Nat :=
  let l := (List.range o.spans).filter fun i => !o.performed.contains i
  if o.kind == .xat then l.head? else l[n % max l.length 1]?

/-- What is sent counts as progress when it leaves (01 R51); a payload that is held counts when it does. -/
def State.sendOp (s : State) (b : Fin 8) (d : Fin 12) (p : Payload) : State :=
  let l := s.link b d
  if l.open && l.held.isEmpty then (s.emit b d p).progressOf p else s.sendOn b d p

/-- One granule or the completion notice of the exchange that is next over a dimension leaves. -/
def State.sendGranule (s : State) (b : Fin 8) (d : Fin 12) (n : Nat) : State :=
  match s.nextSend b d with
  | none => s
  | some (q, o) =>
    let c := s.ctx b q
    match o.sendNext n with
    | some i =>
      let own := (i, BitVec.ofNat 512 (getN c.spad (o.src + 64 * i) 64))
      let c1 := c.setOp { o with
        performed := o.performed ++ [i], data := if o.kind == .xcc then o.data ++ [own] else o.data }
      (s.setCtx b q c1).sendOp b d (granulePayload c o i)
    | none =>
      (s.setCtx b q (c.setOp { o with doneSent := true })).sendOp b d
        (.done c.kernel o.id (o.kind == .xcc) o.len o.fn o.dest (BitVec.ofNat 32 (nbits o.b.toNat 32 32)))

/-- An earlier `xbar` of the context has finished its steps over the dimensions of this one (R308). -/
def Context.barFree (c : Context) (o : Op) : Bool :=
  c.ops.all fun p => p.kind != .xbar || decide (o.id ≤ p.id) ||
    p.dims.zipIdx.all fun e => !nbit o.mask.toNat e.1 || decide (e.2 < p.barStep)

/-- The next barrier flit of an `xbar` that waits for nothing earlier leaves. -/
def State.sendBar (s : State) (b : Fin 8) (q : Fin 4) : State :=
  let c := s.ctx b q
  match c.ops.find? fun o => o.kind == .xbar && o.covers.isEmpty && c.barFree o && o.barSent == o.barStep &&
      decide (o.barSent < o.dims.length) && decide (o.startBeat < c.cbc) with
  | none => s
  | some o =>
    let d : Fin 12 := Fin.ofNat 12 (c.pd (o.dims.getD o.barSent 0))
    (s.setCtx b q (c.advanceBar { o with barSent := o.barSent + 1 })).sendOp b d (.bar c.kernel o.barSent)

/-- What the exchange unit of a brick sends in one count: a free choice of nothing, a barrier flit of each seat, or a
granule over each dimension, and of the granule (assumption 4). -/
def State.sendSome (s : State) (b : Fin 8) : State :=
  if (List.finRange 4).all fun q => !(s.ctx b q).run.live || (s.ctx b q).ops.isEmpty then s
  else
    let n := Config.choice s.freeCtr
    let m := Config.choice (s.freeCtr + 1)
    let s0 := { s with freeCtr := s.freeCtr + 2 }
    let s1 := (List.finRange 4).foldl (fun t q =>
      if nbit n (12 + q.val) && (t.ctx b q).run.live then t.sendBar b q else t) s0
    (List.finRange 12).foldl (fun t d => if nbit n d.val then t.sendGranule b d m else t) s1

/-! ### The tick (01 R26, R51, R143, 24 R438) -/

/-- What is left to slew after a count, and the step of the counter in it: 0, 1 or 2 (R438). -/
def slewStep (slew : Int) : Int × Word :=
  if 0 < slew then (slew - 1, 2) else if slew < 0 then (slew + 1, 0) else (0, 1)

/-- The global beat counter advances as it slews toward its source; LOCK follows the offset that is left, and sync
flits are due over the dimensions that others take their time from, when a multiple of 2^12 is reached or passed
(R438). -/
def Brick.tickGbc (x : Brick) (b : Fin 8) : Brick :=
  let r := slewStep x.slew
  let g := x.gbc + r.2
  { x with
    gbc := g
    slew := r.1
    lock := if x.slew = 0 || x.lost then x.lock else decide (r.1.natAbs ≤ 2)
    syncOwed := if g.toNat / 4096 = x.gbc.toNat / 4096 then x.syncOwed
      else [0, 1, 2].filter fun d => decide (b.val < 2 ^ d) }

/-- A brick without a context and without a scrub: Idle, its clocks gated (25 R445). -/
def Brick.idle (x : Brick) : Bool :=
  x.seats.toList.all (fun t => t.ctx.run.over) && x.quarters.toList.all (· != .busy)

/-- The brick's own clock, in steps of 1/32 of the nominal 2 GHz (25 R446): BCYC advances when a cycle
begins (21 R396). It stands still while the brick is Idle (R445). A count in which GBC adds 0 as it slews (24 R438) may
hold a cycle all the same: SLIP, by the formula of 01 R28, then falls by one (DEDUCED, assumption 34). -/
def Brick.tickClock (x : Brick) : Brick :=
  let acc := x.clockAcc + x.clock
  if x.idle then { x with cycleNow := false }
  else if 32 ≤ acc then
    { x with
      clockAcc := acc - 32, cycleNow := true, bcyc := x.bcyc + 1
      seats := x.seats.map fun t => { t with ctx := { t.ctx with beatThisCycle := false } } }
  else { x with clockAcc := acc, cycleNow := false }

/-- The window counters of the partitions, once in each count (R51, R143). -/
def State.tickWindows (s : State) : State :=
  (List.finRange 64).foldl (fun t p =>
    if t.monitored p then t.setQueue p { t.queue p with window := (t.queue p).window + 1 } else t) s

/-- The drains of a brick's seats in a count (22 R404). -/
def Brick.tickDrains (x : Brick) : Brick := { x with seats := x.seats.map fun t => t.tickDrain x.gbc }

/-- An acknowledgement reaches the far end over the link or its detour, which forgets what has been accepted; it is
lost where an end has neither (R436). -/
def State.deliverAck (s : State) (b : Fin 8) (d : Fin 12) (next : BitVec 32) : State :=
  let far := farOf b d
  let carries (l : Link) : Bool := l.state == .up || l.active
  if carries (s.link b d) && carries (s.link far d) then
    s.modLink far d fun l => { l with
      unacked := l.unacked.filter fun f => decide ((f.seq - next).toNat < 2 ^ 31) }
  else s

/-- The acknowledgements that a brick has on their way over a link arrive in its next count. -/
def State.deliverAcks (s : State) (b : Fin 8) (d : Fin 12) : State :=
  match (s.link b d).acks with
  | [] => s
  | l => l.foldl (fun t n => t.deliverAck b d n) (s.modLink b d fun x => { x with acks := [] })

/-- What brick 0 does in a count: reports whose traffic is gone are posted, a flash write ends (25 R450), and the chief
steward sends commits. -/
def State.chiefTurn (s : State) : State := { s.postReady.sendCommits with flashWriting := false }

/-- GBC_TICK: a reference count of one brick; brick 0's count also moves the progress monitors. -/
def execGbcTick (b : Fin 8) (s : State) : Host.Outcome State Fault Refusal :=
  .next (if s.power == .off then s
    else
      let s1 := s.setBrick b ((s.brick b).tickGbc b).tickClock.tickDrains
      let s2 := (List.finRange 4).foldl (fun t q => t.tickRelease b q) (if b = 0 then s1.tickWindows else s1)
      let s3 := (List.finRange 12).foldl (fun t d =>
        let t0 := t.deliverAcks b d
        let t1 := State.flush b d ((t0.link b d).held.length) t0
        if (t1.link b d).active then t1.tel b 0x03 d.val 9 1 else t1) s2
      let s4 := s3.sendSome b
      if b = 0 then s4.chiefTurn else s4)

/-! ### Training and failure (R434, R435, R437) -/

/-- The steward takes up a link: its interrupt is answered. -/
def State.answerIrq (s : State) (b : Fin 8) (d : Fin 12) : State :=
  s.setBrick b { s.brick b with linkIrq := (s.brick b).linkIrq.filter (· != d.val) }

/-- Both bricks of a link are in service; of the far end of a link that leaves the module nothing is known. -/
def State.servedLink (s : State) (b : Fin 8) (d : Fin 12) : Bool :=
  !inModule d || ((s.brick b).inService && (s.brick (farOf b d)).inService)

/-- LINK_TRAIN: LNKCTL.TRAIN, ignored while STATE is up or detour (R434, R435). A link of a brick out of service goes on
reading failed (25 R448). -/
def execLinkTrain (b : Fin 8) (d : Fin 12) (s : State) : Host.Outcome State Fault Refusal :=
  let l := s.link b d
  .next (if !s.stewardUp b || !s.servedLink b d then s
    else match l.state with
      | .down | .failed | .training =>
        (s.answerIrq b d).modLink b d fun l => { l with state := .training, trainSince := (s.brick b).gbc }
      | _ => s)

/-- The dimension that a brick's time comes from: the highest set bit of its coordinate (R438). -/
def srcDim (b : Fin 8) : Nat := if b = 0 then 15 else Nat.log2 b.val

/-- A counter set to `g`; what the brick measures by it goes on from where it was. -/
def Brick.setTime (x : Brick) (g : Word) : Brick :=
  let k := g - x.gbc
  { x with
    gbc := g, lock := true, lastSync := g, slew := 0, offset := 0
    lastDelta := x.lastDelta + k
    throttle := x.throttle.map (· + k)
    links := x.links.map fun l => { l with
      lastRx := l.lastRx + k, lastTx := l.lastTx + k, trainSince := l.trainSince + k
      downing := l.downing.map (· + k) } }

/-- The count that a joining brick takes: its source's, which half the round trip corrects to one count (a free choice,
assumption 4), within one of the master's, as any two bricks agree to within 2 counts (01 R26; DEDUCED, assumption
34). -/
def State.joinCount (s : State) (src : Fin 8) : Word :=
  let m := (s.brick 0).gbc.toNat
  wd (max (m - 1) (min (m + 1) ((s.brick src).gbc.toNat + Config.choice s.freeCtr % 3 - 1)))

/-- A brick whose source link has come up joins: it sets its counter once, before any of its contexts starts (R438). -/
def State.joinTime (s : State) (b : Fin 8) (d : Fin 12) : State :=
  let x := s.brick b
  if d.val == srcDim b && !x.lock && x.lastSync == 0 && !(List.finRange 4).any fun q => (s.ctx b q).run.live then
    { s.setBrick b (x.setTime (s.joinCount (farOf b d))) with freeCtr := s.freeCtr + 1 }
  else s

/-- One end of a link comes up, with the round trip that it has measured: a free value below 2^10 counts, the time
between keep-alives (assumptions 4 and 34). -/
def State.linkUp (s : State) (b : Fin 8) (d : Fin 12) : State :=
  { (s.modLink b d fun l => { l with
      state := .up, roundTrip := Config.choice s.freeCtr % 2 ^ 10, wire := []
      lastRx := (s.brick b).gbc, lastTx := (s.brick b).gbc
      peer := BitVec.ofNat 12 (b.val ^^^ 2 ^ d.val), askReplay := !l.unacked.isEmpty }) with
    freeCtr := s.freeCtr + 1 }

/-- Flits of a detour that a failed relay link lost are sent again once links come up (R436, R442). -/
def State.askDetours (s : State) : State :=
  { s with bricks := s.bricks.map fun x => { x with
      links := x.links.map fun l => if l.active && !l.unacked.isEmpty then { l with askReplay := true } else l } }

/-- A link trains, and its time has not run out. -/
def State.trains (s : State) (b : Fin 8) (d : Fin 12) : Bool :=
  (s.link b d).state == .training && decide (((s.brick b).gbc - (s.link b d).trainSince).toNat < 2 ^ 22)

/-- LINK_TRAINING_DONE (R435): a link whose two ends train comes up when each peer is right, or this end fails. -/
def execLinkTrainingDone (b : Fin 8) (d : Fin 12) (peer : BitVec 12) (s : State) :
    Host.Outcome State Fault Refusal :=
  let far := farOf b d
  .next (if !s.trains b d || (inModule d && !(s.trains far d && s.servedLink b d)) then s
    else if peer.toNat ≠ b.val ^^^ 2 ^ d.val then (s.modLink b d fun l => { l with peer := peer }).failLink b d 6
    else if inModule d then ((((s.linkUp b d).linkUp far d).joinTime b d).joinTime far d).askDetours
    else s.linkUp b d)

/-- TRAINING_TIMEOUT (R435). -/
def execTrainingTimeout (b : Fin 8) (d : Fin 12) (s : State) : Host.Outcome State Fault Refusal :=
  let l := s.link b d
  .next (if l.state == .training && decide (2 ^ 22 ≤ ((s.brick b).gbc - l.trainSince).toNat) then
      s.failLink b d 4
    else s)

/-- LINK_DOWN: LNKCTL.DOWN, over a TRAIN written with it (R437, R442). A link that is up first waits for the
flits in flight; one that has failed stays so, with WHY 0x5. -/
def execLinkDown (b : Fin 8) (d : Fin 12) (_train : Bool) (s : State) :
    Host.Outcome State Fault Refusal :=
  let l := s.link b d
  .next (if !s.stewardUp b then s
    else match l.state with
      | .absent => s
      | .up =>
        if l.unacked.isEmpty then s.failLink b d 5
        else s.setLink b d { l with downing := some (s.brick b).gbc }
      | .failed => s.setLink b d { l with why := 5 }
      | _ => s.failLink b d 5)

/-- DOWN_WAIT_EXPIRY (R437): the wait of DOWN has ended, by acknowledgement or after 2^14 counts. -/
def execDownWaitExpiry (b : Fin 8) (d : Fin 12) (s : State) : Host.Outcome State Fault Refusal :=
  let l := s.link b d
  .next (match l.downing with
    | some g =>
      if l.unacked.isEmpty || decide (2 ^ 14 ≤ ((s.brick b).gbc - g).toNat) then s.failLink b d 5 else s
    | none => s)

/-- A keep-alive flit: no payload, and no place in the sequence of the pair. -/
def keepAliveFlit (b : Fin 8) (d : Fin 12) (l : Link) : Flit :=
  sealFlit
    { src := BitVec.ofNat 12 b.val, dest := BitVec.ofNat 12 (b.val ^^^ 2 ^ d.val), dim := d, seq := l.txSeq
      crc := 0, payload := .keepAlive }

/-- KEEP_ALIVE (R437): a flit without payload every 2^10 counts of idle, over the link itself also while a detour
carries its traffic, and outside the sequence of the pair (assumption 26). -/
def execKeepAlive (b : Fin 8) (d : Fin 12) (s : State) : Host.Outcome State Fault Refusal :=
  let l := s.link b d
  .next (if l.state == .up && decide (2 ^ 10 ≤ ((s.brick b).gbc - l.lastTx).toNat) then
      s.modLink b d fun l => { l with
        lastTx := (s.brick b).gbc
        wire := l.wire ++ [keepAliveFlit b d l] }
    else s)

/-- KEEP_ALIVE_TIMEOUT (R437). -/
def execKeepAliveTimeout (b : Fin 8) (d : Fin 12) (s : State) : Host.Outcome State Fault Refusal :=
  let l := s.link b d
  .next (if l.state == .up && decide (2 ^ 14 ≤ ((s.brick b).gbc - l.lastRx).toNat) then s.failLink b d 2
    else s)

/-- LOSS_OF_SIGNAL (R437). -/
def execLossOfSignal (b : Fin 8) (d : Fin 12) (s : State) : Host.Outcome State Fault Refusal :=
  .next (if (s.link b d).state == .up then s.failLink b d 3 else s)

/-! ### Receiving (R436, R439) -/

/-- A cumulative acknowledgement sets out for the far end (R436). -/
def State.acknowledge (s : State) (b : Fin 8) (d : Fin 12) (next : BitVec 32) : State :=
  if inModule d then s.modLink b d fun l => { l with acks := l.acks ++ [next] } else s

/-- The sender of a flit is asked to replay, also by a relay that the flit reached with a bad CRC. -/
def State.requestReplay (s : State) (f : Flit) : State :=
  if f.src.toNat < 8 then s.modLink (Fin.ofNat 8 f.src.toNat) f.dim fun l => { l with askReplay := true } else s

/-- A payload that its receiver keeps for the events that act on it. -/
def Link.deliver (l : Link) (p : Payload) : Link :=
  match p with
  | .keepAlive => l
  | .commit _ _ _ => l
  | .other _ => l
  | p => { l with rx := l.rx ++ [p] }

/-- A flit for this brick: accepted, a duplicate, or after a gap (R436). -/
def State.accept (s : State) (b : Fin 8) (f : Flit) : State :=
  let l := s.link b f.dim
  if f.seq = l.rxSeq then
    let s1 := s.setLink b f.dim ({ l with rxSeq := l.rxSeq + 1 }.deliver f.payload)
    let s2 := (s1.acknowledge b f.dim (l.rxSeq + 1)).progressOf f.payload
    match f.payload with
    | .commit k t q => s2.passCommit b k t q
    | _ => s2
  else if (f.seq - l.rxSeq).toNat < 2 ^ 31 then s.requestReplay f
  else s.acknowledge b f.dim l.rxSeq

/-- The relay entry for a destination (R439). -/
def Brick.relay (x : Brick) (dest : BitVec 12) : Option (Fin 12) :=
  (x.rly.toList.find? fun r => r.en && r.dest == dest).map fun r => Fin.ofNat 12 r.out.toNat

/-- FLIT_RECEIVE (R436, R439): the flit that comes next over a link, with the CRC that has arrived with it. Between
bricks of the module it is the next that the far end sent; over another dimension it is the outside's. After 2^14
counts without one the link has failed (R437). -/
def execFlitReceive (b : Fin 8) (d : Fin 12) (f : Flit) (s : State) :
    Host.Outcome State Fault Refusal :=
  let far := farOf b d
  let there := if inModule d then
      (match (s.link far d).wire with
        | g :: _ => f == { g with crc := f.crc }
        | [] => false)
    else true
  .next (if (s.link b d).state != .up || !there then s
    else if 2 ^ 14 ≤ ((s.brick b).gbc - (s.link b d).lastRx).toNat then s.failLink b d 2
    else
      let s0 := if inModule d then s.modLink far d fun l => { l with wire := l.wire.tail } else s
      let s1 := s0.modLink b d fun l => { l with lastRx := (s.brick b).gbc }
      if !crcGood f then
        ((s1.modLink b d fun l => { l with
            crcErr := BitVec.ofNat 32 (min (l.crcErr.toNat + 1) (2 ^ 32 - 1)) }).tel b 0x03 d.val 0 1
          ).requestReplay f
      else if f.payload == .keepAlive then s1
      else if f.dest.toNat == b.val then s1.accept b f
      else match (s.brick b).relay f.dest with
        | some out =>
          if (s1.link b out).state == .up then
            s1.modLink b out fun l => { l with wire := l.wire ++ [f], lastTx := (s.brick b).gbc }
          else s1
        | none => s1)

/-- REPLAY (R436, R437): the sender resends from the first unacknowledged flit; where that one has been replayed eight
times in a row the link fails instead. -/
def execReplay (b : Fin 8) (d : Fin 12) (s : State) : Host.Outcome State Fault Refusal :=
  let l := s.link b d
  .next (if l.askReplay && !l.unacked.isEmpty && (l.state == .up || l.active) then
      if l.replayCount == 8 then s.failLink b d 1
      else (s.setLink b d l.countReplay).resend b d
    else s)

/-! ### Time (R438) -/

/-- SYNC_FLIT_SEND: every 2^12 counts a source sends its GBC to the brick that takes it over `d`. -/
def execSyncFlitSend (b : Fin 8) (d : Fin 12) (s : State) : Host.Outcome State Fault Refusal :=
  .next (if s.power != .off && inModule d && decide (srcDim (farOf b d) = d.val) && decide (b.val < 2 ^ d.val) &&
        (s.brick b).syncOwed.contains d.val then
      (s.setBrick b { s.brick b with syncOwed := (s.brick b).syncOwed.filter (· != d.val) }).sendOn b d
        (.sync (s.brick b).gbc)
    else s)

/-- The first payload of a kind in a receive queue, and the rest. -/
def takeSync : List Payload → List Payload → Option (Word × List Payload)
  | [], _ => none
  | .sync g :: t, before => some (g, before.reverse ++ t)
  | p :: t, before => takeSync t (p :: before)

/-- Half the round trip of the link that a brick takes its time over: how long a flit is on its way (R435, R438). -/
def State.flight (s : State) (b : Fin 8) : Nat := (s.link b (Fin.ofNat 12 (srcDim b))).roundTrip / 2

/-- Counts since the source of a brick sent the sync flit that carries `g`. -/
def State.syncAge (s : State) (b : Fin 8) (g : Word) : Nat :=
  ((s.brick (farOf b (Fin.ofNat 12 (srcDim b)))).gbc - g).toNat

/-- SYNC_FLIT_RECEIVE: a flit is there once it has been on its way for half the round trip. The offset to its count
with half the measured round trip is taken, and slewed away. A flit that has come later, held back by a failure, a
replay or a detour, is received and measures nothing, LOCK being kept (R442; DESIGN CHOICE, assumption 34). -/
def execSyncFlitReceive (b : Fin 8) (g : Word) (s : State) : Host.Outcome State Fault Refusal :=
  let d : Fin 12 := Fin.ofNat 12 (srcDim b)
  let l := s.link b d
  .next (match (if b = 0 then none else takeSync l.rx []) with
    | some (g', rest) =>
      if g' ≠ g || s.syncAge b g < s.flight b then s
      else
        let x := s.brick b
        let off : Int := (g + wd (s.flight b) - x.gbc).toInt
        let s1 := s.setLink b d { l with rx := rest }
        if s.flight b + 1 < s.syncAge b g then s1.setBrick b { s1.brick b with lastSync := x.gbc }
        else s1.setBrick b { s1.brick b with
          offset := BitVec.ofInt 8 off, slew := off, lock := decide (off.natAbs ≤ 2), lastSync := x.gbc }
    | none => s)

/-- SYNC_LOST: no sync flit for 2^20 counts. The brick's contexts take machine check 0x04 and it leaves
service (R132, 25 R448). -/
def execSyncLost (b : Fin 8) (s : State) : Host.Outcome State Fault Refusal :=
  let x := s.brick b
  .next (if b ≠ 0 ∧ x.inService ∧ 2 ^ 20 ≤ (x.gbc - x.lastSync).toNat then
      ((s.setBrick b { x with lock := false, lost := true }).logMachineCheck b 4).leaveService b 4
    else s)

/-! ### Detours (R439-R441) -/

/-- DETOUR_OPEN: DETCTL written with GO (R439): the replay buffer goes first, then what was held. RELAYDIM takes the
value also where no detour can be opened over it (00 R7). -/
def execDetourOpen (b : Fin 8) (d : Fin 12) (v : Word) (s : State) : Host.Outcome State Fault Refusal :=
  let l := s.link b d
  let j := v.truncate 4
  .next (if !s.stewardUp b then s
    else if l.state == .absent || decide (12 ≤ j.toNat) || decide (j.toNat = d.val) then
      s.setLink b d { l with relayDim := j }
    else
      let s1 := (s.answerIrq b d).setLink b d
        { l with relayDim := j, via := j, active := true, state := .detour, closing := false, downing := none }
      let s2 := (s1.logEvent b 0x0040 0xFFFF (le 8 d.val ++ le 8 j.toNat)).tel b 0x03 d.val 8 1
      s2.resend b d)

/-- DETOUR_CLOSE: new flits for the peer are held back (R441). -/
def execDetourClose (b : Fin 8) (d : Fin 12) (s : State) : Host.Outcome State Fault Refusal :=
  .next (if s.stewardUp b && (s.link b d).active then s.modLink b d fun l => { l with closing := true } else s)

/-- DETOUR_CLOSE_DONE: every detoured flit is acknowledged, and the direct link carries traffic again
(R441). -/
def execDetourCloseDone (b : Fin 8) (d : Fin 12) (s : State) : Host.Outcome State Fault Refusal :=
  let l := s.link b d
  .next (if l.active && l.closing && l.unacked.isEmpty && l.state == .up then
      (s.setLink b d { l with active := false, closing := false }).logEvent b 0x0041 0xFFFF
        (le 8 d.val ++ le 8 l.via.toNat)
    else s)

/-- A link of the module is up at both ends. -/
def State.upBoth (s : State) (b : Fin 8) (d : Fin 12) : Bool :=
  inModule d && (s.link b d).state == .up && (s.link (farOf b d) d).state == .up

/-- The three links of the path over relay dimension `j` from `b` to its neighbour over `d` are up (R439). -/
def State.relayOk (s : State) (b : Fin 8) (d j : Fin 12) : Bool :=
  j != d && s.upBoth b j && s.upBoth (farOf b j) d && s.upBoth (farOf b d) j

/-- The four relay entries of a detour of the link of `a` over `d`: the relay, the destination and the dimension, in the
order of the procedure (R439). -/
def relayEntries (a : Fin 8) (d j : Fin 12) : List (Fin 8 × Fin 8 × Fin 12) :=
  let b := farOf a d
  [(farOf a j, b, d), (farOf a j, a, j), (farOf b j, b, j), (farOf b j, a, d)]

/-- A brick has an entry. -/
def State.hasRelay (s : State) (e : Fin 8 × Fin 8 × Fin 12) : Bool :=
  (s.brick e.1).relay (BitVec.ofNat 12 e.2.1.val) == some e.2.2

/-- The relays have the entries of a detour, or room for them: none has the destination under another dimension. -/
def State.relayRoom (s : State) (a : Fin 8) (d j : Fin 12) : Bool :=
  let miss := (relayEntries a d j).filter fun e => !s.hasRelay e
  miss.all fun e => ((s.brick e.1).relay (BitVec.ofNat 12 e.2.1.val)).isNone &&
    decide ((miss.filter fun x => x.1 == e.1).length ≤ ((s.brick e.1).rly.toList.filter fun r => !r.en).length)

/-- A dimension is free for a kernel placed on a brick (01 R15). -/
def State.freeDim (s : State) (b : Fin 8) (j : Fin 12) : Bool :=
  (List.finRange 4).any fun q => !(s.ctx b q).run.over && nbit (s.ctx b q).scmask.toNat j.val

/-- The relay dimension that firmware chooses: the lowest that qualifies among the free dimensions of kernels placed on
either end, else the lowest that qualifies (R439). One whose relays have no room for the entries does not (DESIGN
CHOICE, assumption 27). -/
def State.chooseRelay (s : State) (b : Fin 8) (d : Fin 12) : Option (Fin 12) :=
  let l := (List.finRange 12).filter fun j => s.relayOk b d j && s.relayRoom b d j
  match l.find? fun j => s.freeDim b j || s.freeDim (farOf b d) j with
  | some j => some j
  | none => l.head?

/-- A link's traffic has no way: the link has failed and no detour is active, or a link of the detour's path is not up
(R440, R442). -/
def State.cutOff (s : State) (b : Fin 8) (d : Fin 12) : Bool :=
  let l := s.link b d
  if l.active then inModule d && !s.relayOk b d (Fin.ofNat 12 l.via.toNat) else l.state == .failed

/-- The write that gives a relay an entry: none where it has it, else into a free one. -/
def State.relayWrite (s : State) (e : Fin 8 × Fin 8 × Fin 12) : Option Instr :=
  if s.hasRelay e then none
  else ((List.finRange 16).find? fun i => !((s.brick e.1).rly.get i).en).map fun i =>
    .registerWrite (.rly e.1 i) (wd (e.2.1.val + e.2.2.val * 2 ^ 12 + 2 ^ 16))

/-- One end of a link is under a detour and the other not, while the direct link is not up at both. -/
def State.halfOpen (s : State) (b : Fin 8) (d : Fin 12) : Bool :=
  inModule d && ((s.link b d).active != (s.link (farOf b d) d).active) && !s.upBoth b d

/-- The relay dimension of the detour that a link is to have at both ends: that of an end whose detour holds, else the
one that firmware chooses (R439, R442). -/
def State.detourDim (s : State) (a : Fin 8) (d : Fin 12) : Option (Fin 12) :=
  match [a, farOf a d].find? fun x => (s.link x d).active && !s.cutOff x d with
  | some x => some (Fin.ofNat 12 (s.link x d).via.toNat)
  | none => s.chooseRelay a d

/-- The next write of firmware's procedure for a link that is cut off at an end, or has a detour at one end alone, in
its fixed order: two entries at each relay, then GO at both ends (R439). -/
def State.detourNext (s : State) (a : Fin 8) (d : Fin 12) : Option Instr :=
  if !(inModule d && (s.cutOff a d || s.cutOff (farOf a d) d || s.halfOpen a d)) then none
  else match s.detourDim a d with
    | none => none
    | some j =>
      let go (x : Fin 8) : Option Instr :=
        let l := s.link x d
        if l.active && l.via.toNat == j.val then none else some (.detourOpen x d (wd (j.val + 16)))
      ((relayEntries a d j).map s.relayWrite ++ [go a, go (farOf a d)]).findSome? id

/-- The end of a link of the module for which firmware's procedure is reckoned: the lower brick (R439). -/
def lowEnd (b : Fin 8) (d : Fin 12) : Fin 8 := if b ≤ farOf b d then b else farOf b d

/-- Firmware closes the detour of a link that has trained up again, at this end (R441). -/
def State.closeNext (s : State) (b : Fin 8) (d : Fin 12) : Option Instr :=
  let l := s.link b d
  if s.upBoth b d && l.active && !l.closing then some (.detourClose b d) else none

/-- Firmware opens a detour somewhere. -/
def State.detouring (s : State) : Bool :=
  (List.finRange 8).any fun a => (List.finRange 3).any fun k => (s.detourNext a (Fin.ofNat 12 k.val)).isSome

/-- An active detour needs a relay entry. -/
def State.relayNeeded (s : State) (e : Fin 8 × Fin 8 × Fin 12) : Bool :=
  (List.finRange 8).any fun a => (List.finRange 3).any fun k =>
    let l := s.link a (Fin.ofNat 12 k.val)
    l.active && (relayEntries a (Fin.ofNat 12 k.val) (Fin.ofNat 12 l.via.toNat)).contains e

/-- The write that clears the next of the four relay entries of a detour that is closed at both ends (R441). Entries
that another detour uses stay. -/
def State.clearNext (s : State) (b : Fin 8) (d : Fin 12) : Option Instr :=
  let l := s.link b d
  if !(s.upBoth b d && !l.active && !(s.link (farOf b d) d).active && decide (l.via.toNat < 3)) then none
  else
    ((relayEntries b d (Fin.ofNat 12 l.via.toNat)).filter fun e =>
        s.hasRelay e && !s.relayNeeded e && !s.detouring).findSome? fun e =>
      ((List.finRange 16).find? fun i =>
        let r := (s.brick e.1).rly.get i
        r.en && r.dest.toNat == e.2.1.val && r.out.toNat == e.2.2.val).map fun i =>
        .registerWrite (.rly e.1 i) 0

/-- A context that runs, frozen ones among them (01 R31). -/
def Run.runs : Run → Bool
  | .running => true
  | r => r.serviceSince.isSome

/-- A payload of a kernel that has ended. -/
def State.ofEnded (s : State) (p : Payload) : Bool :=
  match payloadKernel p with
  | some id => (s.kernel id).all (·.endGbc.isSome)
  | none => false

/-- What an end of a link without a detour holds for kernels that have ended is discarded (04 R124, R128). A flit of the
replay buffer keeps its place in the sequence of the pair, with nothing in it (assumption 27). -/
def State.dropLost (s : State) (b : Fin 8) (d : Fin 12) : State :=
  s.modLink b d fun l => { l with
    held := l.held.filter fun p => !s.ofEnded p
    unacked := l.unacked.map fun f => if s.ofEnded f.payload then sealFlit { f with payload := .other 0 } else f }

/-- LOST_LINK_WITH_NO_DETOUR (R440): machine check 0x02 on both ends' running contexts whose placement includes the
dimension, each of which is logged and counted on its brick. What the link holds of ended kernels goes. -/
def execLostLinkWithNoDetour (b : Fin 8) (d : Fin 12) (s : State) : Host.Outcome State Fault Refusal :=
  let ends : List (Fin 8) := if inModule d then [b, farOf b d] else [b]
  .next (if s.cutOff b d && !(inModule d && (s.chooseRelay b d).isSome) then
      let hit := (ends.flatMap fun e => (List.finRange 4).map fun q => (e, q)).filter fun p =>
        let c := s.ctx p.1 p.2
        c.run.runs && nbit c.scmask.toNat d.val
      let s1 := hit.foldl (fun t p =>
        if (t.ctx p.1 p.2).run.over then t
        else t.killKernel (t.ctx p.1 p.2).kernel 0x3C fun b' q' x =>
          if hit.contains (b', q') then some (asyncEnd x .machineCheck 0x3C 2) else none)
        (hit.foldl (fun t p => t.logMachineCheck p.1 2) s)
      (ends.foldl (fun t e => t.dropLost e d) s1).postReady
    else s)

end Sys2Proof.Machine
end

