-- ==== Sys2Proof/Machine/Exchange.lean ====
section
/-! DEFINITION. What arrives at a brick task over mortar: exchange granules, completions, combines, remote
atomics and barrier flits (13 R303-R309, 04 R113-R117, R126). Payloads of one kernel over one dimension are
taken in their order. -/

namespace Sys2Proof.Machine

/-! ### The receiving task -/

/-- Whether a payload that has arrived and not been taken holds back a later one of its link: exchange data,
completions and `xat` operations keep their order whatever their kernels (04 R126); a barrier flit keeps its place
within its kernel (assumption 26). -/
def holdsBack (x p : Payload) : Bool :=
  match x, p with
  | .sync _, _ => false
  | _, .sync _ => false
  | .bar k _, p => payloadKernel p == some k
  | x, .bar k _ => payloadKernel x == some k
  | _, _ => true

/-- The first payload of a receive queue that `ok` accepts and that no earlier one holds back, with the rest. A
barrier flit that its receiver has not yet matched holds back the data of its kernel behind it (DESIGN CHOICE,
assumption 26). -/
def takeFirst (ok : Payload → Bool) : List Payload → List Payload → Option (Payload × List Payload)
  | [], _ => none
  | p :: t, before =>
    if ok p && !before.any fun x => holdsBack x p then some (p, before.reverse ++ t)
    else takeFirst ok t (p :: before)

/-- An event on the first payload of link (b, d) that `ok` accepts; `f` answers the state after it, the payload
taken. -/
def State.onPayload (s : State) (b : Fin 8) (d : Fin 12) (ok : Payload → Bool)
    (f : Payload → State → State) : State :=
  match takeFirst ok (s.link b d).rx [] with
  | some (p, rest) => f p (s.modLink b d fun l => { l with rx := rest })
  | none => s

/-- Whether the context can take an arriving granule in this cycle (04 R114). -/
def State.takesGranule (s : State) (b : Fin 8) (q : Fin 4) : Bool :=
  s.beatNow b q || !(s.ctx b q).beatThisCycle

/-- A granule applied; nothing changes where the cycle does not take it. -/
def Context.landed (c : Context) (now : Bool) (key a : Nat) (d : BitVec 512) : Context :=
  (c.applyGranule now key a d).getD c

/-- Bytes 12 to 15 of the task record of an ended task count the arrivals discarded (R44, 21 R400). -/
def patchDiscard (r : List Byte) : List Byte :=
  r.take 12 ++ le 4 (ofBytes ((r.drop 12).take 4) + 1) ++ r.drop 16

/-- An arrival for a task that has ended is discarded and counted in its record (R44); the task's COORD is its
place among the kernel's seats. A kernel that has ended may now post its report (04 R124). -/
def State.discard (s : State) (b : Fin 8) (kernel : Nat) : State :=
  match s.kernel kernel with
  | some k =>
    let co := k.seats.findIdx fun p => p.1 == b
    let patch (r : Nat × List Byte) : Nat × List Byte := if r.1 == co then (r.1, patchDiscard r.2) else r
    (s.setKernel { k with reports := k.reports.map patch, relRecs := k.relRecs.map patch }).checkComplete kernel
  | none => s

/-- The sender's operation. -/
def State.senderOp (s : State) (b : Fin 8) (d : Fin 12) (kernel id : Nat) : Option Op :=
  match (if inModule d then s.liveTask (farOf b d) kernel else none) with
  | some q => (s.ctx (farOf b d) q).op id
  | none => none

/-- The place of the sender's operation in the order of issue (R113). -/
def State.issueOf (s : State) (b : Fin 8) (d : Fin 12) (kernel id : Nat) : Nat :=
  (s.senderOp b d kernel id).elim 0 (·.issuedAt)

/-- The sender's token completes. An `xcc` whose own arrivals are still to come stays to receive them. -/
def State.endSend (s : State) (b : Fin 8) (d : Fin 12) (kernel id : Nat) (t : Token) : State :=
  s.atSender b d kernel id fun c o =>
    if o.kind == .xcc && !o.partnerDone && t == .good then
      let c1 := { c with
        tok := if o.tokenOver then c.tok else c.tok.set o.token.val t
        ops := c.ops.map fun (p : Op) => p.covered o.id false : Context }
      c1.setOp { o with tokenDone := true }
    else c.finish o t

/-! ### Arrivals (R303) -/

/-- EXCHANGE_ARRIVAL: a granule of an `xch`, `xsib` or `xgs` is applied, or discarded when the task has
ended. -/
def execExchangeArrival (b : Fin 8) (d : Fin 12) (s : State) : Host.Outcome State Fault Refusal :=
  let ok (p : Payload) : Bool := match p with
    | .granule k _ false _ _ _ _ _ =>
      (match s.liveTask b k with
        | some q => s.takesGranule b q
        | none => true)
    | _ => false
  .next (s.onPayload b d ok fun p s1 =>
    match p with
    | .granule k id _ _ _ off dest data =>
      (match s1.liveTask b k with
        | some q => (s1.modCtx b q fun c =>
            c.landed (s1.beatNow b q) (s1.issueOf b d k id) dest data).noteArrival b d k id (off / 64)
        | none => s1.discard b k)
    | _ => s1)

/-! ### `xcc` (R305) -/

/-- The receiver's own `xcc` that an arrival over a physical dimension is paired with. -/
def Context.ownXcc (c : Context) (d : Nat) : Option Op :=
  c.ops.find? fun o => o.kind == .xcc && o.pdim == d && !o.partnerDone

/-- The combine of one 32-bit element (R305). -/
def combine (fn : Nat) (a b : BitVec 32) : BitVec 32 :=
  match fn with
  | 0 => f32Add a b
  | 1 => BitVec.ofNat 32
      (bf16.encode ((b16v a.toNat).add (b16v b.toNat)) +
        bf16.encode ((b16v (a.toNat / 2 ^ 16)).add (b16v (b.toNat / 2 ^ 16))) * 2 ^ 16)
  | 2 => a + b
  | 3 => toF32 ((f32v a).max (f32v b))
  | 4 => toF32 ((f32v a).min (f32v b))
  | 5 => if a.slt b then b else a
  | _ => if b.slt a then b else a

/-- The combine of a landing granule. -/
def combineGranule (fn : Nat) (own arr : BitVec 512) : BitVec 512 :=
  BitVec.ofNat 512 ((List.range 16).foldl (fun a i =>
    a + (combine fn (own.extractLsb' (32 * i) 32) (arr.extractLsb' (32 * i) 32)).toNat * 2 ^ (32 * i)) 0)

/-- The kernel is killed for a fault raised at a receiver, which writes no trap status (05 R131, R142). -/
def State.receiverFault (s : State) (b : Fin 8) (q : Fin 4) (code cause : Nat) (info : Nat) : State :=
  s.killKernel (s.ctx b q).kernel code fun b' q' x =>
    if b' = b && q' = q then some { asyncEnd x .killed code cause with tinfo := info } else none

/-- XCC_COMBINE: the arrival is paired with the receiver's own `xcc`, which waits for it; one that disagrees in
LEN or FN raises the schedule fault. -/
def execXccCombine (b : Fin 8) (d : Fin 12) (s : State) : Host.Outcome State Fault Refusal :=
  let ok (p : Payload) : Bool := match p with
    | .granule k _ true len fn off _ _ =>
      (match s.liveTask b k with
        | some q =>
          let c := s.ctx b q
          (match c.ownXcc d.val with
            | some o => (o.len ≠ len || o.fn ≠ fn) ||
                (o.data.any (fun e => e.1 == off / 64) && s.takesGranule b q)
            | none => false)
        | none => true)
    | _ => false
  .next (s.onPayload b d ok fun p s1 =>
    match p with
    | .granule k id _ len fn off _ data =>
      (match s1.liveTask b k with
        | some q =>
          let c := s1.ctx b q
          (match c.ownXcc d.val with
            | some o =>
              if o.len ≠ len || o.fn ≠ fn then s1.receiverFault b q 0x0A 7 o.dim
              else
                let own := (o.data.find? (·.1 == off / 64)).elim 0 Prod.snd
                let c1 := c.landed (s1.beatNow b q) (s1.issueOf b d k id) (o.dest + off)
                  (combineGranule fn own data)
                (s1.setCtx b q (c1.setOp { o with landed := off / 64 :: o.landed })).noteArrival b d k id
                  (off / 64)
            | none => s1)
        | none => s1.discard b k)
    | _ => s1)

/-! ### Completion (R303) -/

/-- The receiver's part of a completion: the tags of the destination, and for an `xcc` the receiver's own. A completion
with an error (`good` false) leaves the tags (R303). -/
def Context.receiveDone (c : Context) (cyc iss d : Nat) (xcc good : Bool) (len dest : Nat)
    (tag : BitVec 32) : Context :=
  if xcc then
    match c.ownXcc d with
    | some o =>
      let c1 := if good then c.setTags cyc iss o.dest o.len (BitVec.ofNat 32 (nbits o.b.toNat 32 32)) else c
      if o.tokenDone then { c1 with ops := c1.ops.filter (·.id != o.id) }
      else c1.setOp { o with partnerDone := true }
    | none => c
  else if good then c.setTags cyc iss dest len tag
  else c

/-- The completion of an exchange is good: no error has met it at its sender (R303). -/
def State.sentGood (s : State) (b : Fin 8) (d : Fin 12) (kernel id : Nat) : Bool :=
  !inModule d || (s.senderOp b d kernel id).any fun o => !o.spoiled

/-- EXCHANGE_COMPLETION: in a count after that of the last granule, tags are set and the sender's token completes
good; with cause 0x03 when the receiver has ended. A token that an error has completed stays as it is, and leaves the
tags. An `xat` completes once performed, also when its target has ended
since (R117). -/
def execExchangeCompletion (b : Fin 8) (d : Fin 12) (s : State) : Host.Outcome State Fault Refusal :=
  let isXat (k id : Nat) : Bool := (s.senderOp b d k id).any (·.kind == .xat)
  let ok (p : Payload) : Bool := match p with
    | .done k id xcc len _ _ _ =>
      (match s.liveTask b k with
        | some q =>
          let c := s.ctx b q
          (s.senderOp b d k id).all (fun o => decide (o.lastCycle < (s.brick b).gbc)) &&
            (!isXat k id || (s.senderOp b d k id).all Op.sendDone) && c.phase2.isEmpty &&
            (!xcc || (match c.ownXcc d.val with
              | some o => (List.range (len / 64)).all fun i => o.landed.contains i
              | none => false))
        | none => true)
    | _ => false
  .next (s.onPayload b d ok fun p s1 =>
    match p with
    | .done k id xcc len _ dest tag =>
      (match s1.liveTask b k with
        | some q =>
          let s2 := if isXat k id then s1 else s1.modCtx b q fun c =>
            c.receiveDone (s1.cycleOf b q) (s1.issueOf b d k id) d.val xcc (s1.sentGood b d k id) len dest tag
          s2.endSend b d k id .good
        | none => (s1.endSend b d k id (if isXat k id && (s.senderOp b d k id).all Op.sendDone then .good
            else .error 3)).checkComplete k)
    | _ => s1)

/-! ### `xat` (R117, R309) -/

/-- Remote atomics applied at once by the bank unit of a stopped context (R117). -/
def Context.remoteNow (c : Context) (op : AtomOp) (ty : Ty) (a : Nat) (l : List (BitVec 32)) : Context :=
  let w := (Writes.mk c [] [] []).remote op ty a l
  w.ctx.invalidate w.touched

/-- A context that is stopped before a Q bundle applies remote atomics without a beat, whether or not a save drains
it (R117), and so does one that is released, as it drains (22 R416). -/
def Run.applies : Run → Bool
  | .stopped => true
  | .released _ => true
  | .saving _ _ none => true
  | _ => false

/-- XAT_ARRIVAL: in phase 3 of a beat that the target takes, or at once while it is stopped; into the closed tape
window it raises the mode-conflict fault. -/
def execXatArrival (b : Fin 8) (d : Fin 12) (s : State) : Host.Outcome State Fault Refusal :=
  let hit (c : Context) (ty : Ty) (dest : Nat) (l : List (BitVec 32)) : Option Nat :=
    c.windowHit dest (atomBytes ty * l.length)
  let ok (p : Payload) : Bool := match p with
    | .xat k _ _ ty dest _ l =>
      (match s.liveTask b k with
        | some q =>
          let c := s.ctx b q
          (hit c ty dest l).isSome || c.run.applies || s.beatNow b q
        | none => true)
    | _ => false
  .next (s.onPayload b d ok fun p s1 =>
    match p with
    | .xat k id op ty dest _ l =>
      (match s1.liveTask b k with
        | some q =>
          let c := s1.ctx b q
          (match hit c ty dest l with
            | some a => (s1.endSend b d k id (.error 4)).receiverFault b q 0x0C 1 a
            | none =>
              if c.run.applies then
                let i := (s1.senderOp b d k id).elim 0 fun o => (dest - o.dest) / 64
                (s1.setCtx b q (c.remoteNow op ty dest l)).noteArrival b d k id i
              else s1.setCtx b q { c with phase3 := c.phase3 ++ [⟨dest, op, ty, l, d, id⟩] })
        | none => s1.discard b k)
    | _ => s1)

/-! ### `xbar` (R308) -/

/-- The `xbar` that a flit over a physical dimension is matched with: the oldest that still waits for one. -/
def Context.barFor (c : Context) (d : Nat) : Option (Op × Nat) :=
  c.ops.findSome? fun o =>
    if o.kind == .xbar then
      match o.dims.find? fun i => c.pd i == d with
      | some i => if o.barGot.contains i then none else some (o, i)
      | none => none
    else none

/-- BARRIER_FLIT: the flit advances the `xbar` that waits for it, or waits for the `xbar`. -/
def execBarrierFlit (b : Fin 8) (d : Fin 12) (s : State) : Host.Outcome State Fault Refusal :=
  let ok (p : Payload) : Bool := match p with
    | .bar k _ =>
      (match s.liveTask b k with
        | some q => ((s.ctx b q).barFor d.val).isSome
        | none => true)
    | _ => false
  .next (s.onPayload b d ok fun p s1 =>
    match p with
    | .bar k _ =>
      (match s1.liveTask b k with
        | some q =>
          s1.modCtx b q fun c => match c.barFor d.val with
            | some (o, i) => c.advanceBar { o with barGot := i :: o.barGot }
            | none => c
        | none => s1.discard b k)
    | _ => s1)

end Sys2Proof.Machine
end

