-- ==== Sys2Proof/Machine/Launch.lean ====
section
/-! DEFINITION. The host port and launch: doorbells, kernel images and their certificates, validation and
placement of launch records, seat tables, arm and commit (20 R376-R383, 19 R370, 21 R388-R402, 25 R443). -/

namespace Sys2Proof.Machine

/-! ### Kernel images (20 R376-R382) -/

/-- A little-endian field of `n` bytes at offset `o`. -/
def fieldAt (l : List Byte) (o n : Nat) : Nat := ofBytes ((l.drop o).take n)

/-- `n` bytes at offset `o`, all there. -/
def sliceAt (l : List Byte) (o n : Nat) : List Byte := (l.drop o).take n

/-- A directory entry (R377). -/
structure Sect where
  type : Nat
  off : Nat
  len : Nat
  deriving DecidableEq, Repr

/-- The directory; none where its 12 to 15 bytes are not zero. -/
def directory (img : List Byte) : Nat → Nat → Option (List Sect)
  | 0, _ => some []
  | n + 1, o =>
    if fieldAt img (o + 12) 4 ≠ 0 then none
    else (directory img n (o + 16)).map (⟨fieldAt img o 4, fieldAt img (o + 4) 4, fieldAt img (o + 8) 4⟩ :: ·)

/-- Types ascend from above `ty`; sections follow one another from `pos` inside the image. -/
def sectsOk (total : Nat) : Nat → Nat → List Sect → Bool
  | _, _, [] => true
  | ty, pos, e :: t =>
    decide (ty < e.type) && decide (e.type ≤ 7) && e.off % 8 == 0 && decide (pos ≤ e.off) &&
      decide (e.off + e.len ≤ total) && sectsOk total e.type (e.off + e.len) t

/-- The bytes of a section, if the image has it. -/
def sectBytes (img : List Byte) (l : List Sect) (type : Nat) : Option (List Byte) :=
  (l.find? (·.type == type)).map fun e => sliceAt img e.off e.len

/-- NDIM of a LOOP section (R378); none where it breaks the rule. -/
def loopDims (l : Option (List Byte)) : Option Nat :=
  match l with
  | none => some 0
  | some b =>
    let n := b.length / 2
    let lev := (List.range n).map fun i => (fieldAt b (2 * i) 1, fieldAt b (2 * i + 1) 1)
    let sum : Nat := lev.foldl (fun a p => a + p.2) 0
    if b.length % 2 == 0 && decide (1 ≤ n) && decide (n ≤ 8) && decide (sum ≤ 12) &&
        lev.all fun p => (p.1 == 0 && p.2 == 0) || (p.1 == 1 && decide (1 ≤ p.2)) then some sum else none

/-- Stream descriptors (R379). -/
def streamDescs (l : Option (List Byte)) : Option (List (BitVec 192)) :=
  match l with
  | none => some []
  | some b =>
    let n := b.length / 24
    if b.length % 24 == 0 && decide (1 ≤ n) && decide (n ≤ 4096) then
      some ((List.range n).map fun i => BitVec.ofNat 192 (fieldAt b (24 * i) 24))
    else none

/-- Region declarations (R380): those whose PRESENT bit is set. -/
def regionDecls (l : Option (List Byte)) : Option (List (Option (BitVec 128))) :=
  match l with
  | none => some []
  | some b =>
    let pres := fieldAt b 0 2
    if b.length == 272 && fieldAt b 2 14 == 0 &&
        (List.range 16).all fun n => nbit pres n || fieldAt b (16 + 16 * n) 16 == 0 then
      some ((List.range 16).map fun n =>
        if nbit pres n then some (BitVec.ofNat 128 (fieldAt b (16 + 16 * n) 16)) else none)
    else none

/-- Landing tiles in the order of their numbers (R381). -/
def landingTiles (l : Option (List Byte)) : Option (List Nat) :=
  match l with
  | none => some []
  | some b =>
    let recs := (List.range (b.length / 8)).map fun i => (fieldAt b (8 * i) 4, fieldAt b (8 * i + 4) 4)
    if b.length % 8 == 0 && recs.all fun r => r.1 % 4096 == 0 && decide (1 ≤ r.2) && decide (r.2 ≤ 2048) then
      some (recs.flatMap fun r => (List.range r.2).map fun i => r.1 + 4096 * i)
    else none

/-- DATA records (R381). -/
def dataRecs : Nat → List Byte → Option (List (Nat × List Byte))
  | _, [] => some []
  | 0, _ => none
  | f + 1, b =>
    let len := fieldAt b 4 4
    let whole := 8 + cdiv len 8 * 8
    if b.length < whole || fieldAt b (8 + len) (whole - 8 - len) ≠ 0 then none
    else (dataRecs f (b.drop whole)).map ((fieldAt b 0 4, sliceAt b 8 len) :: ·)

/-- No two of these half-open spans have a byte in common. -/
def disjointSpans : List (Nat × Nat) → Bool
  | [] => true
  | a :: t => t.all (fun b => !overlaps a.1 a.2 b.1 b.2) && disjointSpans t

/-- The spans of a region declaration: primal and adjoint. -/
def regionSpans (r : Option (BitVec 128)) : List (Nat × Nat) :=
  match r with
  | none => []
  | some a => [(agPbase a, agLen a), (agAbase a, agAlen a)]

/-- A name is padded with zeros (R376). -/
def paddedName (l : List Byte) : Bool := (l.dropWhile (· != 0)).all (· == 0)

/-- Every section but the text and the certificate, the header and directory first (R369, R377). -/
def thashBytes (img : List Byte) (dir : List Sect) : List Byte :=
  img.take (64 + 16 * dir.length) ++
    (dir.filter fun e => e.type != 1 && e.type != 7).flatMap fun e => sliceAt img e.off e.len

/-- An image that passes R382 apart from its certificate, its placement and its parameter count. A section that
breaks its own rule, R379 to R381, is refused with them (DEDUCED, assumption 28). -/
def parseImage (img : List Byte) : Option (Image × List Sect) :=
  let nsect := fieldAt img 6 2
  let fr := fieldAt img 16 1
  let entry := fieldAt img 8 4
  let qi := fieldAt img 12 4
  if img.length < 64 || fieldAt img 0 4 ≠ 0x4C59_4B49 || fieldAt img 4 2 ≠ 1 || nsect < 2 || 8 < nsect ||
      img.length < 64 + 16 * nsect || fieldAt img 19 13 ≠ 0 || fieldAt img 17 1 ≠ 0 || 2 < fr || qi = 0 ||
      !paddedName (sliceAt img 32 32) then none
  else match directory img nsect 64 with
    | none => none
    | some dir =>
      if !sectsOk img.length 0 (64 + 16 * nsect) dir then none
      else match sectBytes img dir 1, loopDims (sectBytes img dir 2), streamDescs (sectBytes img dir 3),
          regionDecls (sectBytes img dir 4), landingTiles (sectBytes img dir 5),
          dataRecs ((sectBytes img dir 6).getD []).length ((sectBytes img dir 6).getD []) with
        | some text, some nd, some st, some rg, some tl, some da =>
          let share := 2 ^ (27 - fr)
          let tsp := tl.map fun t => (t, 4096)
          let dsp := da.map fun d => (d.1, d.2.length)
          let inside (p : Nat × Nat) : Bool := decide (p.1 + p.2 ≤ share)
          if text.length % 48 == 0 && entry % 48 == 0 && decide (entry < text.length) &&
              decide (text.length ≤ 2 ^ 21 / 2 ^ fr) && decide (tl.length ≤ 2048 / 2 ^ fr) &&
              tsp.all inside && dsp.all inside && (rg.flatMap regionSpans).all inside &&
              disjointSpans tsp && disjointSpans dsp then
            some ({ name := (sliceAt img 32 32).takeWhile (· != 0), entry := entry, qi := qi, frac := fr
                    nparam := fieldAt img 18 1, ndim := nd, text := text, streams := st
                    regions := rg, tiles := tl, data := da, nhash := sha384 text
                    cert := (sectBytes img dir 7).getD [], thash := sha384 (thashBytes img dir) }, dir)
          else none
        | _, _, _, _, _, _ => none

/-! ### Certificates (19 R369, R370) -/

/-- KEYID (23 R422). -/
def Key.id (k : Key) : Nat := ofBytes ((sha384Bytes (k.ed ++ k.ml)).take 8)

/-- Both parts of a signature verify under a key (23, opening; R370). -/
def Key.verifies (k : Key) (msg s1 s2 : List Byte) : Bool :=
  Config.verifyEd25519 k.ed msg s1 && Config.verifyMlDsa k.ml msg s2

/-- R370, of a certificate with the digest of what its THASH covers. LS-A, coded 0, is the one latency set of the part
(18 R343, R356). -/
def State.certFits (s : State) (im : Image) (c : List Byte) (thash : BitVec 384) : Bool :=
  c.length == 3557 && fieldAt c 0 4 == 0x4C59_5843 && fieldAt c 4 2 == 1 && fieldAt c 6 2 == 0 &&
    fieldAt c 13 3 == 0 && fieldAt c 8 4 == Config.stepping.toNat && fieldAt c 12 1 == 0 &&
    ((List.range (im.text.length / 48)).all fun i => nbits (fieldAt im.text (48 * i) 1) 5 3 == 0) &&
    fieldAt c 16 48 == im.nhash.toNat && fieldAt c 64 48 == thash.toNat &&
    s.slots.toList.any fun k => match k with
      | some k => k.id == fieldAt c 160 8 && k.verifies (c.take 184) (sliceAt c 184 64) (c.drop 248)
      | none => false

/-- The checks of R370 at a launch, on the image's bytes. -/
def State.certOk (s : State) (img : List Byte) (im : Image) (dir : List Sect) : Bool :=
  match sectBytes img dir 7 with
  | none => false
  | some c => s.certFits im c (sha384 (thashBytes img dir))

/-- The checks of R370 at a later load of an image. -/
def State.certStands (s : State) (im : Image) : Bool := s.certFits im im.cert im.thash

/-- The record of a refused certificate (23 R428). -/
def State.logCert (s : State) (q : Fin 64) (c : List Byte) : State :=
  s.logEvent 0 0x0012 q.val (le 8 (fieldAt c 160 8) ++ le 8 (fieldAt c 8 4) ++ padTo 32 (sliceAt c 16 32))

/-! ### Host registers (21 R388-R391) -/

/-- The host reaches the registers of a module that runs, whose boot has begun (23 R418) and has not failed (R421). -/
def State.hostUp (s : State) : Bool := s.power != .off && s.stage != 0 && s.stage != 15

/-- DOORBELL (R391). -/
def execDoorbell (q : Fin 64) (t : BitVec 16) (s : State) : Host.Outcome State Fault Refusal :=
  let u := s.queue q
  .next (if !s.hostUp then s
    else if u.n < (t - u.headIx).toNat || u.n < (t - u.tail).toNat then s.setQueue q { u with badTail := true }
    else s.setQueue q { u with tail := t })

/-- CHEAD_WRITE (R391). -/
def execCheadWrite (q : Fin 64) (h : BitVec 16) (s : State) : Host.Outcome State Fault Refusal :=
  let u := s.queue q
  .next (if !s.hostUp then s
    else if (u.ctail - u.chead).toNat < (h - u.chead).toNat then s.setQueue q { u with badChead := true }
    else s.setQueue q { u with chead := h })

/-! ### Seat tables (01 R39, 21 R396) -/

/-- Whether the entries of a seat are those of some fraction and offset, or none (R39). -/
def seatSpaced (tab : BitVec 256) (q : Nat) : Bool :=
  let own := ownedEntries tab q
  own.isEmpty || [0, 1, 2].any fun s => (List.range (2 ^ s)).any fun a =>
    own == (List.range 64).filter fun i => i % 2 ^ s == a

/-- R39 for every seat. -/
def tableSpaced (tab : BitVec 256) : Bool := (List.range 4).all (seatSpaced tab)

/-- Whether some entry has bit 2 set (R396). -/
def tableBit2 (tab : BitVec 256) : Bool := (List.range 64).any fun e => nbit tab.toNat (4 * e + 2)

/-- A seat whose context has neither ended nor been released. -/
def State.occupied (s : State) (b : Fin 8) (q : Fin 4) : Bool := !(s.ctx b q).run.over

/-- A seat that holds a context, and with it the entries of its seat: from its arm until the context ends or is released
(R396). A restored context that is not armed leaves them open (22 R408). -/
def State.holds (s : State) (b : Fin 8) (q : Fin 4) : Bool :=
  s.occupied b q && ((s.ctx b q).run != .restored || (s.seat b q).armedReg)

/-- The reason for which an apply of the staged table is refused; 0 when it is not (R396). -/
def State.applyWhy (s : State) (b : Fin 8) : Nat :=
  let x := s.brick b
  if tableBit2 x.staged then 3
  else if !tableSpaced x.staged then 1
  else if (List.finRange 4).any fun q =>
      s.holds b q && ownedEntries x.staged q.val != ownedEntries x.seattab q.val then 2
  else 0

/-- The stopped contexts of a brick that a refused table has kept from going on do so now (01 R39), but for those that
never run again (22 R455). -/
def Brick.goOn (x : Brick) : Brick :=
  { x with seats := x.seats.map fun t => if t.resumeOwed && !t.detained && !x.passed t then t.goOn x.gbc else t }

/-- The staged table applied as a whole, or refused. After one that breaks R39, whatever else is wrong with it, no
context of the brick starts or resumes until another is applied (01 R39). -/
def State.applyTable (s : State) (b : Fin 8) : State :=
  let x := s.brick b
  let why := s.applyWhy b
  if why = 0 then
    (s.setBrick b
      { x with seattab := x.staged, seatBad := false, seatWhy := 0, tableBad := false : Brick }.goOn).logEvent b 0x0036
      0xFFFF (le 32 x.staged.toNat)
  else s.setBrick b { x with
    seatBad := true, seatWhy := BitVec.ofNat 2 why, tableBad := x.tableBad || !tableSpaced x.staged }

/-- SEAT_TABLE_APPLY (R396). -/
def execSeatTableApply (b : Fin 8) (s : State) : Host.Outcome State Fault Refusal :=
  .next (if s.stewardUp b then s.applyTable b else s)

/-! ### Arm, commit, cancel (01 R19, R39-R41, 21 R398) -/

/-- The PD_i of DIMMAP for the job's dimensions. -/
def Context.pds (c : Context) : List Nat := (List.range c.ndim).map c.pd

/-- The placement registers agree (R19). -/
def Context.placed (c : Context) : Bool :=
  let f := nbits c.scmask.toNat 0 12
  let base := nbits c.scmask.toNat 16 12
  let pc := nbits c.crd.toNat 16 12
  decide c.pds.Nodup && c.pds.all (fun d => d < 12 && nbit f d) && popcount 12 f == c.ndim &&
    f &&& base == 0 && (List.range 12).all fun i => nbit f i || nbit pc i == nbit base i

/-- Counts until GBC has reached `g`, with what it has still to slew (24 R438). -/
def Brick.countsTo (x : Brick) (g : Word) : Nat :=
  let n := (g - x.gbc).toNat
  if x.slew < 0 then n + x.slew.natAbs
  else if n ≤ 2 * x.slew.natAbs then cdiv n 2 else n - x.slew.natAbs

/-- Number of the first brick cycle that begins at or after the moment GBC reaches `g`, at the present clock
(R396). -/
def Brick.cycleAt (x : Brick) (g : Word) : Nat :=
  let n := x.countsTo g
  x.bcyc.toNat + (x.clockAcc + (n - 1) * x.clock) / 32 + 1

/-- The cause for which an arm is refused; 0 when it is not (R398). -/
def State.armCause (s : State) (b : Fin 8) (q : Fin 4) : Nat :=
  let x := s.brick b
  let c := s.ctx b q
  let own := ownedEntries x.seattab q.val
  if !c.placed then 1
  else if x.tableBad || !tableSpaced x.seattab || own.length != 64 / 2 ^ c.frac ||
    !own.contains (x.cycleAt c.gbcs % 64) then 2
  else if (x.quartersOf q c.frac).any fun i => x.quarters.toList.getD i .dirty != .clean then 3
  else if c.run != .empty && (c.run != .restored || (s.seat b q).armedReg) then 4
  else if (c.gbcs - x.gbc).toNat < 2 ^ 16 || 2 ^ 63 ≤ (c.gbcs - x.gbc).toNat then 5
  else 0

/-- The seat is armed and holds for GBCS, or the arm is refused. The quarters of its share are its context's from then
on; a restored context keeps with them those that the restore filled (22 R415). -/
def State.arm (s : State) (b : Fin 8) (q : Fin 4) : State :=
  let x := s.seat b q
  let k := s.armCause b q
  let qs := (s.brick b).quartersOf q x.ctx.frac
  if k = 0 then
    s.setSeat b q { x with
      ctx := if x.ctx.run = .empty then { x.ctx with run := .armed false } else x.ctx
      armedReg := true, committed := false, cause := 0
      share := if x.ctx.run = .empty then qs else x.share ++ qs.filter fun i => !x.share.contains i }
  else s.setSeat b q { x with cause := BitVec.ofNat 4 k }

/-- The arm is dropped: a seat whose context has not run becomes free; a restored context stays (R398). -/
def State.cancel (s : State) (b : Fin 8) (q : Fin 4) : State :=
  let x := s.seat b q
  match x.ctx.run with
  | .armed _ =>
    s.setSeat b q { x with ctx := Context.reset, armedReg := false, committed := false }
  | _ => if x.armedReg then s.setSeat b q { x with armedReg := false, committed := false } else s

/-- START_ARM (R398). -/
def execStartArm (b : Fin 8) (q : Fin 4) (s : State) : Host.Outcome State Fault Refusal :=
  .next (if s.power == .on && (s.brick b).inService then s.arm b q else s)

/-- START_CANCEL (R398). -/
def execStartCancel (b : Fin 8) (q : Fin 4) (s : State) : Host.Outcome State Fault Refusal :=
  .next (s.cancel b q)

/-- START_COMMIT (R398): the commit reaches an armed seat, in time or too late. -/
def execStartCommit (b : Fin 8) (q : Fin 4) (s : State) : Host.Outcome State Fault Refusal :=
  let x := { s.seat b q with commitIn := false }
  let g := (s.brick b).gbc
  .next (if !x.armedReg || x.committed || s.power != .on || !(s.brick b).inService then s.setSeat b q x
    else if (x.ctx.gbcs - g).toNat < 1024 || 2 ^ 63 ≤ (x.ctx.gbcs - g).toNat then
      ((s.setSeat b q { x with cause := 6 }).logMachineCheck b 5).machineCheck b q 5
    else s.setSeat b q { x with
      committed := true
      ctx := if x.ctx.run = .armed false then { x.ctx with run := .armed true } else x.ctx })

/-! ### Launch records (21 R393) -/

/-- A launch record. -/
structure LaunchRec where
  image : Nat
  imageLen : Nat
  flags : Nat
  pfree : Nat
  pbase : Nat
  fbudReq : Nat
  nparam : Nat
  params : List Word
  report : Nat
  reportLen : Nat
  tag : Word
  deriving DecidableEq, Repr

def LaunchRec.satAbort (r : LaunchRec) : Bool := nbit r.flags 0
def LaunchRec.nowait (r : LaunchRec) : Bool := nbit r.flags 1
def LaunchRec.fixed (r : LaunchRec) : Bool := nbit r.flags 2

def parseRec (l : List Byte) : LaunchRec where
  image := fieldAt l 0 8
  imageLen := fieldAt l 8 4
  flags := fieldAt l 12 4
  pfree := fieldAt l 16 2
  pbase := fieldAt l 18 2
  fbudReq := fieldAt l 24 4
  nparam := fieldAt l 28 1
  params := (List.range 8).map fun k => wd (fieldAt l (32 + 8 * k) 8)
  report := fieldAt l 96 8
  reportLen := fieldAt l 104 4
  tag := wd (fieldAt l 112 8)

/-- Step 1 of R394: reserved bytes, alignments and ranges. -/
def recOk (l : List Byte) : Bool :=
  let r := parseRec l
  fieldAt l 20 4 == 0 && fieldAt l 29 3 == 0 && fieldAt l 108 4 == 0 && fieldAt l 120 136 == 0 &&
    r.image % 8 == 0 && r.report % 4096 == 0 && decide (64 ≤ r.reportLen) && decide (r.flags < 8) &&
    (if r.fixed then decide (r.pfree < 4096) && decide (r.pbase < 4096) else r.pfree == 0 && r.pbase == 0)

/-! ### Placement (21 R395, 25 R443) -/

/-- MAXFRAC and NCTX of ALLOC, with the values that are taken for others. -/
def Queue.maxFrac (u : Queue) : Nat := min (nbits u.alloc.toNat 8 2) 2
def Queue.nctx (u : Queue) : Nat := min (nbits u.alloc.toNat 10 3) 4

/-- FBUDLOG, at most 30 (R443). -/
def Queue.fbudLog (u : Queue) : Nat := min (nbits u.alloc.toNat 16 5) 30

/-- The dimensions of a set F, ascending. -/
def dimsOf (f : Nat) : List Nat := setBits 12 0 f

/-- The brick of a logical coordinate (01 R16). -/
def brickAt (f base coord : Nat) : Nat :=
  (dimsOf f).zipIdx.foldl (fun a p => if nbit coord p.2 then a + 2 ^ p.1 else a) base

/-- The bricks of a subcube in COORD order; none where the module lacks one. -/
def subcube (f base : Nat) : Option (List (Fin 8)) :=
  if f < 8 && base < 8 && f &&& base == 0 then
    some ((List.range (2 ^ (dimsOf f).length)).map fun c => Fin.ofNat 8 (brickAt f base c))
  else none

/-- Contexts of a queue on a brick. -/
def State.contextsOf (s : State) (q : Fin 64) (b : Fin 8) : Nat :=
  ((List.finRange 4).filter fun i => s.occupied b i &&
    match s.kernel (s.ctx b i).kernel with
    | some k => k.queue == q
    | none => false).length

/-- Whether the entries of offset `a` at fraction 2^-fr are free of seats that hold contexts. -/
def State.offsetFree (s : State) (b : Fin 8) (fr a : Nat) : Bool :=
  (List.range 64).all fun e => e % 2 ^ fr != a ||
    match entryOwner (s.brick b).seattab e with
    | some q => !s.occupied b (Fin.ofNat 4 q)
    | none => true

/-- The lowest free seat of a brick; one whose released context still drains is not free (22 R416). -/
def State.freeSeat (s : State) (b : Fin 8) : Option (Fin 4) :=
  (List.finRange 4).find? fun q => !s.occupied b q && !(s.ctx b q).run.live

/-- Whether a brick can take a task of queue `q` at fraction 2^-fr (R395, R443, R448). -/
def State.brickTakes (s : State) (q : Fin 64) (fr : Nat) (b : Fin 8) : Bool :=
  let u := s.queue q
  nbit u.alloc.toNat b.val && (s.brick b).inService && decide (s.contextsOf q b < u.nctx) &&
    (s.freeSeat b).isSome && (List.range (2 ^ fr)).any (s.offsetFree b fr)

/-- A placed task: brick, seat and offset. -/
structure Place where
  brick : Fin 8
  seat : Fin 4
  offset : Nat
  deriving DecidableEq, Repr

/-- The seats of a subcube that own the cycle at count `g`. -/
def State.placesAt (s : State) (fr : Nat) (g : Word) (l : List (Fin 8)) : Option (List Place) :=
  l.mapM fun b =>
    let a := (s.brick b).cycleAt g % 2 ^ fr
    match s.freeSeat b with
    | some q => if s.offsetFree b fr a then some ⟨b, q, a⟩ else none
    | none => none

/-- GBCS and the seats for a subcube: the earliest count, at least 2^16 ahead on every brick, that serves.
At a constant clock the owners of cycles recur after 128 counts. -/
def State.chooseGbcs (s : State) (fr : Nat) (l : List (Fin 8)) : Option (Word × List Place) :=
  let g0 := l.foldl (fun a b => max a (s.brick b).gbc.toNat) 0 + 2 ^ 16
  firstSome (fun i => (s.placesAt fr (wd (g0 + i)) l).map fun p => (wd (g0 + i), p)) (List.range 128)

/-- A placement: F, B, GBCS and the seats. -/
structure Placement where
  f : Nat
  base : Nat
  gbcs : Word
  places : List Place
  deriving DecidableEq, Repr

/-- Every link inside a subcube is up, or under an active detour (24 R435). -/
def State.linksUp (s : State) (f : Nat) (l : List (Fin 8)) : Bool :=
  l.all fun b => (dimsOf f).all fun d =>
    let x := s.link b (Fin.ofNat 12 d)
    x.state == .up || x.active

/-- A candidate subcube (R395); the default policy also looks at the links inside it (24 R435). -/
def State.tryPlace (s : State) (q : Fin 64) (im : Image) (fixed : Bool) (f base : Nat) : Option Placement :=
  if im.frac < (s.queue q).maxFrac || popcount 12 f != im.ndim then none
  else match subcube f base with
    | none => none
    | some l =>
      if l.all (s.brickTakes q im.frac) && (fixed || s.linksUp f l) then
        (s.chooseGbcs im.frac l).map fun p => ⟨f, base, p.1, p.2⟩
      else none

/-- The placement of the default policy, or of the record when it is FIXED (R395). -/
def State.place (s : State) (q : Fin 64) (im : Image) (r : LaunchRec) : Option Placement :=
  if r.fixed then s.tryPlace q im true r.pfree r.pbase
  else firstSome (fun p : Nat × Nat => s.tryPlace q im false p.1 p.2)
    ((List.range 8).flatMap fun f => (List.range 8).map fun b => (f, b))

/-! ### Programming the bricks (21 R396, R397) -/

/-- A table of 64 entries. -/
def tableOf (f : Nat → Nat) : BitVec 256 :=
  BitVec.ofNat 256 ((List.range 64).foldl (fun a e => a + f e * 16 ^ e) 0)

/-- The table of a brick with a seat's entries set; the entries of seats that hold no context are freed. -/
def State.seatTable (s : State) (b : Fin 8) (q : Fin 4) (fr a : Nat) : BitVec 256 :=
  tableOf fun e =>
    if e % 2 ^ fr = a then 8 + q.val
    else match entryOwner (s.brick b).seattab e with
      | some o => if s.occupied b (Fin.ofNat 4 o) && o != q.val then 8 + o else 0
      | none => 0

/-- DIMMAP of a placement (01 R18). -/
def dimmapOf (f : Nat) : Word :=
  let l := dimsOf f
  wd ((List.range 12).foldl (fun a i => a + l.getD i 15 * 16 ^ i) 0 + l.length * 2 ^ 48)

/-- What the loader fills from the image: instruction memory, descriptors, declarations and initial data
(20 R379-R381, 02 R66). -/
def Context.loadImage (c : Context) (im : Image) : Context :=
  { c with
    pc := im.entry
    qi := BitVec.ofNat 32 im.qi
    imem := setBytes [] 0 im.text
    streams := im.streams
    regions := im.regions
    tiles := im.tiles
    spad := setAll [] (im.data.flatMap fun d => bytesAt d.1 d.2)
    nhash := im.nhash }

/-- The context of a task before its start (R397, 01 R42, 20 R383). -/
def setupContext (kernel : Nat) (im : Image) (r : LaunchRec) (p : Placement) (coord : Nat) (pl : Place)
    (asgen : Word) (fbud : BitVec 32) : Context :=
  let x := (List.range im.nparam).foldl
    (fun v k => v.setIfInBounds (k + 1) (r.params.getD k 0)) Context.reset.x
  { Context.reset.loadImage im with
    kernel := kernel
    crd := wd (coord + im.ndim * 2 ^ 12 + pl.brick.val * 2 ^ 16)
    scmask := wd (p.f + p.base * 2 ^ 16)
    dimmap := dimmapOf p.f
    seatf := wd (im.frac + pl.seat.val * 4)
    asgen := asgen
    gbcs := p.gbcs
    fbud := fbud
    x := x }

/-- FBUD.BUDGET of a launch (R397). -/
def LaunchRec.budget (r : LaunchRec) (u : Queue) : BitVec 32 :=
  BitVec.ofNat 32 (min (if r.fbudReq = 0 then 2 ^ 24 else r.fbudReq) (2 ^ u.fbudLog))

/-- One brick programmed: its table applied, the set-up block and the image written. -/
def State.program (s : State) (im : Image) (pl : Place) (c : Context) : State :=
  let s1 := s.setBrick pl.brick { s.brick pl.brick with
    staged := s.seatTable pl.brick pl.seat im.frac pl.offset }
  let s2 := s1.applyTable pl.brick
  s2.setSeat pl.brick pl.seat { s2.seat pl.brick pl.seat with
    ctx := c, preEn := false, preTarget := 0, runReg := false, committed := false, commitIn := false
    resumeOwed := false }

/-! ### Taking a record (21 R394, 23 R430) -/

/-- HEAD moves on; the record no longer waits. -/
def State.takeHead (s : State) (q : Fin 64) : State :=
  let u := s.queue q
  s.setQueue q { u with headIx := u.headIx + 1, waiting := false, stale := u.stale - 1 }

/-- A refusal: the entry, and a report of its header alone (R394, R399, R400). The header has the task count and NDIM of
an image that has been read, and the placement of one that has been placed. -/
def State.refuse (s : State) (q : Fin 64) (r : LaunchRec) (reason : Nat) (im : Option Image) (p : Option Placement)
    (armCause first : Nat) : State :=
  let u := s.queue q
  let g := (s.brick 0).gbc.toNat
  let hdr := reportHeader r.tag u.headIx 2 reason (im.elim 0 fun i => 2 ^ i.ndim) (im.elim 0 (·.ndim)) (16 * armCause)
    (p.elim 0 (·.gbcs.toNat)) g (p.elim 0 (·.f)) (p.elim 0 (·.base)) first
  (s.takeHead q).post q r.tag u.headIx 2 reason g r.report (if r.reportLen < 64 then [] else hdr)

/-- The record at HEAD waits (R394). -/
def State.waitRec (s : State) (q : Fin 64) : State := s.setQueue q { s.queue q with waiting := true }

/-- The bricks are programmed and armed; every arm accepted, the kernel is launched and its commits are to be sent, else
the arms are cancelled (R398). -/
def State.launch (s : State) (q : Fin 64) (r : LaunchRec) (im : Image) (p : Placement) (gen : Nat) : State :=
  let u := s.queue q
  let id := s.nextKernel
  let asgen := wd (gen + u.asid.toNat * 2 ^ 16)
  let s1 := p.places.zipIdx.foldl (fun t x =>
    t.program im x.1 (setupContext id im r p x.2 x.1 asgen (r.budget u))) s
  let s2 := p.places.foldl (fun t x => t.arm x.brick x.seat) s1
  match p.places.find? fun x => !(s2.seat x.brick x.seat).armedReg with
  | some bad =>
    let s3 := p.places.foldl (fun t x => t.cancel x.brick x.seat) s2
    let s4 := s3.setSeat bad.brick bad.seat { s3.seat bad.brick bad.seat with ctx := Context.reset }
    s4.refuse q r 0x07 (some im) (some p) (s2.seat bad.brick bad.seat).cause.toNat bad.brick.val
  | none =>
    let k : Kernel :=
      { id := id, queue := q, seq := u.headIx, tag := r.tag, asid := u.asid, report := r.report
        reportLen := r.reportLen, satAbort := r.satAbort, ndim := im.ndim, pfree := BitVec.ofNat 12 p.f
        pbase := BitVec.ofNat 12 p.base, gbcs := p.gbcs, image := im
        seats := p.places.map fun x => (x.brick, x.seat), firstKill := none, reports := []
        tibeats := [], relErrs := [], relRecs := [], endGbc := none, endPos := 0, commitSent := false
        lapsed := false }
    { s2.takeHead q with kernels := s2.kernels ++ [k], nextKernel := id + 1 }

/-- Whether every quarter of a placement's seats is clean (step 7). -/
def State.scrubbed (s : State) (im : Image) (p : Placement) : Bool :=
  p.places.all fun x => (quartersAt im.frac x.offset).all fun i =>
    (s.brick x.brick).quarters.toList.getD i .dirty == .clean

/-- Steps 2 to 8 of R394 on a record that passes step 1. -/
def State.validate (s : State) (q : Fin 64) (r : LaunchRec) : State :=
  let u := s.queue q
  let a := u.asid.toNat
  match s.astEntry a, s.vread a r.image r.imageLen, s.vruns a r.report r.reportLen false true with
  | some (_, gen), some img, some _ =>
    if u.stale ≠ 0 then s.refuse q r 0x02 none none 0 0
    else match parseImage img with
      | none => s.refuse q r 0x03 none none 0 0
      | some (im, dir) =>
        if !s.certOk img im dir then (s.logCert q im.cert).refuse q r 0x04 (some im) none 0 0
        else if r.nparam ≠ im.nparam || 8 < r.nparam then s.refuse q r 0x05 (some im) none 0 0
        else match s.place q im r with
          | none => if r.nowait || r.fixed then s.refuse q r 0x06 (some im) none 0 0 else s.waitRec q
          | some p => if s.scrubbed im p then s.launch q r im p gen else s.waitRec q
  | _, _, _ => s.refuse q r 0x02 none none 0 0

/-- Whether the steward may take a record of the queue: enabled, pending, and with room for its completion
entry (R389, R391). -/
def State.canTake (s : State) (q : Fin 64) : Bool :=
  let u := s.queue q
  s.power == .on && s.stage == 3 && (s.brick 0).inService && u.en && decide (4 ≤ u.log2n.toNat) &&
    decide (u.log2n.toNat ≤ 12) && u.headIx != u.tail && decide ((u.headIx - u.chead).toNat < u.n)

/-- LAUNCH_RECORD_TAKE (R394): the record at HEAD is refused, waits, or is launched. -/
def execLaunchRecordTake (q : Fin 64) (s : State) : Host.Outcome State Fault Refusal :=
  let u := s.queue q
  .next (if !s.canTake q then s
    else match s.vread u.asid.toNat (u.lbase.toNat + 256 * (u.headIx.toNat % u.n)) 256 with
      | none => s
      | some l =>
        if s.logFull then s.refuse q (parseRec l) 0x08 none none 0 0
        else if !recOk l then s.refuse q (parseRec l) 0x01 none none 0 0
        else s.validate q (parseRec l))

end Sys2Proof.Machine
end

