-- ==== Sys2Proof/Machine/Contexts.lean ====
section
/-! DEFINITION. Pre-emption, save, restore and release of contexts, the walker and TLB maintenance,
generations, and the scrub (01 R45-R48, 22 R403-R417, R455). -/

namespace Sys2Proof.Machine

/-! ### Stopping (22 R403, R404) -/

/-- PREEMPTION_TARGET: PREEMPT is written. A stopped context whose target is gone resumes at its Q bundle; one
saved in trap service is in service again (R404). On a brick whose seat table stands refused for its spacing it does so
once the table is corrected (01 R39); one whose generation has passed never does (R455). -/
def execPreemptionTarget (b : Fin 8) (q : Fin 4) (v : Word) (s : State) :
    Host.Outcome State Fault Refusal :=
  let x := { s.seat b q with preTarget := v.truncate 32, preEn := v.getLsbD 32, resumeOwed := false }
  let stands := match x.ctx.run with
    | .stopped | .saved _ => true
    | _ => false
  .next (if !s.stewardUp b then s
    else if !stands || x.detained || (s.brick b).passed x then s.setSeat b q x
    else s.setSeat b q (if (s.brick b).tableBad then { x with resumeOwed := true } else x.goOn (s.brick b).gbc))

/-- CTXCTL.AREA. -/
def areaOf (v : Word) : BitVec 52 := BitVec.ofNat 52 (nbits v.toNat 12 40 * 4096)

/-- AREA takes what is written to CTXCTL while the steward runs, in standby and beside a running command too (R403,
00 R7). -/
def State.writeArea (s : State) (b : Fin 8) (q : Fin 4) (v : Word) : State :=
  if s.stewardUp b then s.setSeat b q { s.seat b q with area := areaOf v } else s

/-- Commands of a seat are taken: the steward runs, and no command is running (R403). In standby, of which the spec does
not say it, CMD starts nothing (DESIGN CHOICE, assumption 30). -/
def State.takesCmd (s : State) (b : Fin 8) (q : Fin 4) : Bool :=
  s.power == .on && s.stewardUp b && !(s.seat b q).busy

/-- A command that failed: ERR holds its cause, and DONE is no longer that of the last command (R403, R406). -/
def State.ctxFail (s : State) (b : Fin 8) (q : Fin 4) (err : Nat) : State :=
  s.setSeat b q { s.seat b q with done := false, err := BitVec.ofNat 4 err }

/-- A save begins: the drain runs until SAVE_COMPLETE or SAVE_DRAIN_TIMEOUT (R404). `again` tells how long the service
had lasted of a context that is saved already. -/
def State.beginSave (s : State) (b : Fin 8) (q : Fin 4) (heavy : Bool) (v : Word) (trap again : Option Word) :
    State :=
  let x := s.seat b q
  s.setSeat b q { x with
    saveTo := areaOf v, busy := true, done := false, captured := false, resaved := again
    ctx := { x.ctx with run := .saving heavy (s.brick b).gbc trap } }

/-- LIGHT_SAVE (R404, R406). A command written while one runs is discarded, but for its AREA. -/
def execLightSave (b : Fin 8) (q : Fin 4) (v : Word) (s : State) : Host.Outcome State Fault Refusal :=
  let s1 := s.writeArea b q v
  .next (if !s.takesCmd b q then s1
    else match (s.ctx b q).run with
      | .stopped => s1.beginSave b q false v none none
      | _ => (s1.ctxFail b q 1).logContext b q 0x0030 0 1)

/-- HEAVY_SAVE (R404, R406, R417). A context that has been saved in trap service still reads INTRAP, and may be saved
again; its service has lasted no longer for it. -/
def execHeavySave (b : Fin 8) (q : Fin 4) (v : Word) (s : State) : Host.Outcome State Fault Refusal :=
  let s1 := s.writeArea b q v
  .next (if !s.takesCmd b q then s1
    else match (s.ctx b q).run with
      | .stopped => s1.beginSave b q true v none none
      | .service g => s1.beginSave b q true v (some g) none
      | .saved spent => s1.beginSave b q true v (some ((s.brick b).gbc - spent)) (some spent)
      | _ => (s1.ctxFail b q 1).logContext b q 0x0030 1 1)

/-! ### The save record (22 R407) -/

/-- Bytes as cells from an address up, without those that are 0. -/
def cellsAt (a : Nat) (l : List Byte) : List Host.Cell := (bytesAt a l).filter fun c => c.2 != 0

/-- A memory in which the span [a, a + n) holds the cells of `src` below `n`, and 0 elsewhere. -/
def placeSpan (m : List Host.Cell) (a n : Nat) (src : List Host.Cell) : List Host.Cell :=
  setAll (clearSpan m a n) ((src.filter fun c => decide (c.1 < n)).map fun c => (a + c.1, c.2))

/-- The cells of the span [a, a + n), numbered from 0. -/
def takeSpan (m : List Host.Cell) (a n : Nat) : List Host.Cell :=
  (m.filter fun c => decide (a ≤ c.1) && decide (c.1 < a + n)).map fun c => (c.1 - a, c.2)

/-- Code of a token's state and its cause, one byte each. -/
def Token.bytes : Token → List Byte
  | .free => [0, 0]
  | .outstanding => [1, 0]
  | .good => [2, 0]
  | .error k => [3, k]

def tokenOf (st : Nat) (k : Nat) : Token :=
  match st with
  | 0 => .free
  | 1 => .outstanding
  | 2 => .good
  | _ => .error (BitVec.ofNat 8 k)

/-- The REGS section. -/
def Context.regsBytes (c : Context) : List Byte :=
  c.x.toList.flatMap (fun w => le 8 w.toNat) ++ c.v.toList.flatMap (fun w => le 2048 w.toNat) ++
    c.p.toList.flatMap (fun w => le 64 w.toNat) ++ c.s.toList.flatMap (fun w => le 24 w.toNat) ++
    c.tok.toList.flatMap Token.bytes ++
    (List.finRange 16).flatMap (fun k =>
      le 8 (c.count.get k).toNat ++ le 8 (c.amax.get k).toNat ++ le 8 (c.limit.get k).toNat) ++
    le 8 c.scst.toNat ++ c.ag.toList.flatMap (fun w => le 16 w.toNat) ++
    le 8 c.tapeb.toNat ++ le 8 c.tapel.toNat ++ le 8 c.tapec.toNat ++ le 8 c.tapes.toNat ++
    le 8 c.tapesa.toNat ++ le 8 c.sq.length ++
    (List.range 16).flatMap (fun i => le 256 (c.sq.getD i 0).toNat) ++
    (List.range c.tileShare).flatMap fun i => le 4 (mapGet 0 c.tags i).toNat

/-- The BANKS section. -/
def Context.banksBytes (c : Context) : List Byte :=
  (sortBy Prod.fst c.held).flatMap fun g =>
    le 4 g.1 ++ le 4 g.2 ++ (List.range g.2).flatMap fun i => le 2048 (bankOf c.banks (g.1 + i)).toNat

/-- The TABLES section: every live table (11 R271). -/
def Context.tablesBytes (c : Context) : List Byte :=
  (c.tables.filter fun t => t.2.valid).flatMap fun t => le 8 t.1 ++ spillRecord t.2

/-- K-cursor of an engine command at the beat that comes next (10 R239). -/
def Cmd.cursor (m : Cmd) (cbc : Nat) : Nat := min (cbc - m.start) m.steps

/-- The LANDSET section of a heavy save; the opaque records are free values (assumption 9). -/
def Context.landsetBytes (c : Context) (n : Nat) : List Byte :=
  le 8 c.cmds.length ++ c.cmds.flatMap (fun m => le 8 (m.cursor c.cbc)) ++
    (List.range (512 * min (1 + c.lset.length) 96)).map fun i => Config.landsetByte (n + i)

/-- The `cpsq` operations that a save holds, in issue order (R405). -/
def Context.heldOps (c : Context) : List Op := sortBy Op.id (c.ops.filter c.heldBack)

/-- The SQHELD section. -/
def Context.sqheldBytes (c : Context) : List Byte :=
  let l := c.heldOps
  if l.isEmpty then []
  else le 8 l.length ++ l.flatMap fun o => le 8 o.token.val ++ le 256 o.queueEntry.toNat

/-- Sections placed one after another at multiples of 4,096 bytes: offset and length of each, and the end. -/
def layout : Nat → List Nat → List (Nat × Nat) × Nat
  | pos, [] => ([], pos)
  | pos, 0 :: t =>
    let r := layout pos t
    ((0, 0) :: r.1, r.2)
  | pos, n :: t =>
    let r := layout (pos + cdiv n 4096 * 4096) t
    ((pos, n) :: r.1, r.2)

/-- The mark of a redirect entry that holds an address. -/
def redirBytes (r : Option (BitVec 64)) : List Byte :=
  match r with
  | some a => le 8 (a.toNat % 2 ^ 63 + 2 ^ 63)
  | none => le 8 0

/-- The header. SLIP is that of the Q bundle or the faulting bundle (01 R55). -/
def Context.headerBytes (c : Context) (heavy : Bool) (dir : List (Nat × Nat)) : List Byte :=
  padTo 256 <|
    le 4 0x4C59_4358 ++ le 2 1 ++ le 1 (if heavy then 1 else 0) ++ le 1 c.frac ++
    le 4 Config.stepping.toNat ++ mrBytes c.nhash ++ le 2 c.asid ++ le 2 c.gen ++ le 8 c.pc ++
    redirBytes c.redir0 ++ redirBytes c.redir1 ++
    le 8 c.cbc ++ le 8 c.slipHeld.toNat ++ le 8 c.slipOffset.toNat ++
    le 4 c.qcnt.toNat ++ le 4 c.qiCount ++
    (match c.pin with
      | some (a, n) => le 8 (a + n * 2 ^ 32)
      | none => le 8 0) ++
    le 1 c.dmode.code ++ le 1 (if c.wcol then 1 else 0) ++ le 2 c.ltgen.toNat ++ le 1 c.rrb.toNat ++ le 3 0 ++
    le 4 c.lc.toNat ++ le 8 c.sp ++ le 4 c.srw.toNat ++ le 8 c.tstat.toNat ++ le 8 c.taddr.toNat ++
    le 8 c.tbeat.toNat ++ le 8 c.tinfo.toNat ++ le 8 c.tibeat.toNat ++ le 4 c.fbud.toNat ++
    le 2 c.coord ++ le 2 c.ndim ++ le 8 0 ++
    dir.flatMap fun e => le 4 e.1 ++ le 4 e.2

/-- The record as cells from 0 up, and its whole length. -/
def Context.record (c : Context) (heavy : Bool) (n : Nat) : List Host.Cell × Nat :=
  let regs := c.regsBytes
  let banks := c.banksBytes
  let tables := c.tablesBytes
  let land := if heavy then c.landsetBytes n else []
  let held := c.sqheldBytes
  let lay := layout 4096 [regs.length, banks.length, tables.length, c.spadShare, land.length, held.length]
  let at' (i : Nat) (l : List Byte) : List Host.Cell := cellsAt (lay.1.getD i (0, 0)).1 l
  (cellsAt 0 (c.headerBytes heavy lay.1) ++ at' 0 regs ++ at' 1 banks ++ at' 2 tables ++
    c.spad.map (fun e => ((lay.1.getD 3 (0, 0)).1 + e.1, e.2)) ++ at' 4 land ++ at' 5 held, lay.2)

/-- What the opaque records of a heavy save stand for; `trap` is the time that the service of its trap had lasted. -/
def Context.savedSet (c : Context) (bytes : List Byte) (trap : Option Word) : SavedSet where
  bytes := bytes
  timed := c.timed
  lset := c.lset
  cmds := c.cmds
  pendTables := c.pendTables
  pending := c.pending
  phase := c.phase
  run := match trap with
    | some w => .saved w
    | none => .stopped
  halting := c.halting
  takenTo := c.takenTo
  idleLeft := c.idleLeft
  free := [c.mxFree, c.wbFree, c.lookFree, c.tabFree, c.nextId]
  ops := c.ops.filter fun o => !c.heldBack o
  late := c.late
  crossed := c.crossed
  svcDone := c.svcDone
  serviced := c.serviced
  held := c.heldOps.map Op.id

/-- How a context stands after a save: stopped, or in the service of its trap, saved when the save is good. One that was
saved before is so still, whatever the end (R406). -/
def Seat.afterSave (x : Seat) (gbc : Word) (trap : Option Word) (good : Bool) : Run :=
  match trap, x.resaved with
  | none, _ => .stopped
  | some _, some spent => .saved spent
  | some g, none => if good then .saved (gbc - g) else .service g

/-- A save ends: the context stays stopped, or in the service of its trap (R404). -/
def State.endSave (s : State) (b : Fin 8) (q : Fin 4) (trap : Option Word) (err : Nat) : State :=
  let x := s.seat b q
  s.setSeat b q { x with
    busy := false
    captured := false
    areaErr := false
    resaved := none
    done := err == 0
    err := if err = 0 then x.err else BitVec.ofNat 4 err
    ctx := { x.ctx with
      recorded := x.ctx.recorded || err == 0
      run := x.afterSave (s.brick b).gbc trap (err == 0) } }

/-- Whether every 4 KiB of a physical span is memory of one home. -/
def State.areaOk (s : State) (a n : Nat) : Bool :=
  (List.range (cdiv n 4096)).all (fun i => s.physOk (a + 4096 * i)) && homeOf a == homeOf (a + n - 1)

/-- SAVE_COMPLETE (R404): the drain has ended in time; the record is written and performed, then DONE is set. An area
that is no memory of one home, or that meets an uncorrectable error, ends the save with ERR 0x3 (R406). -/
def execSaveComplete (b : Fin 8) (q : Fin 4) (s : State) : Host.Outcome State Fault Refusal :=
  let x := s.seat b q
  let c := x.ctx
  .next (match c.run with
    | .saving heavy _ trap =>
      if !x.captured then s
      else
        let a := x.saveTo.toNat
        let r := c.record heavy s.freeCtr
        let kind := if heavy then 1 else 0
        if x.areaErr || !s.areaOk a r.2 then (s.endSave b q trap 3).logContext b q 0x0030 kind 3
        else
          let s1 := { s with
            mem := placeSpan s.mem a r.2 r.1
            freeCtr := s.freeCtr + 512 * min (1 + c.lset.length) 96
            savedSets := if heavy then
                c.savedSet (c.landsetBytes s.freeCtr) (trap.map fun g => x.resaved.getD ((s.brick b).gbc - g)) ::
                  s.savedSets
              else s.savedSets }
          (s1.endSave b q trap 0).logContext b q 0x0030 kind 0
    | _ => s)

/-- SAVE_DRAIN_TIMEOUT (R404): the drain has not ended within the budget, and the context is left as it stood. -/
def execSaveDrainTimeout (b : Fin 8) (q : Fin 4) (s : State) : Host.Outcome State Fault Refusal :=
  let c := s.ctx b q
  .next (match c.run with
    | .saving heavy g0 trap =>
      if !(s.seat b q).captured && decide (c.budget ≤ ((s.brick b).gbc - g0).toNat) then
        (s.endSave b q trap 2).logContext b q 0x0030 (if heavy then 1 else 0) 2
      else s
    | _ => s)

/-! ### Restore (22 R408) -/

/-- The directory entry `i` of a header, SQHELD being entry 5. -/
def recSect (h : List Byte) (i : Nat) : Nat × Nat := (fieldAt h (208 + 8 * i) 4, fieldAt h (212 + 8 * i) 4)

/-- A header that R407 allows, for a share of this size: its fields, and sections that start at multiples of 4,096
bytes and do not overlap. -/
def recHeaderOk (h : List Byte) : Bool :=
  let fr := fieldAt h 7 1
  let secs := ((List.range 6).map (recSect h)).filter fun e => e.2 != 0
  fieldAt h 0 4 == 0x4C59_4358 && fieldAt h 4 2 == 1 && decide (fieldAt h 6 1 ≤ 1) && decide (fr ≤ 2) &&
    fieldAt h 64 8 % 48 == 0 && decide (fieldAt h 128 1 ≤ 2) && decide (fieldAt h 129 1 ≤ 1) &&
    decide (fieldAt h 132 1 < 32) && fieldAt h 133 3 == 0 && fieldAt h 200 8 == 0 &&
    (secs.all fun e => e.1 % 4096 == 0 && decide (4096 ≤ e.1)) && disjointSpans secs &&
    (recSect h 0).2 == 137592 + 4 * (2048 / 2 ^ fr) && (recSect h 3).2 == 2 ^ (27 - fr) &&
    (fieldAt h 6 1 == 1) == decide (0 < (recSect h 4).2)

/-- A BANKS section: groups that `acq` can give, ascending from `lo` and inside the share (02 R75). -/
def banksOk (share : Nat) : Nat → Nat → List Byte → Bool
  | _, _, [] => true
  | 0, _, _ => false
  | f + 1, lo, l =>
    let a := fieldAt l 0 4
    let n := fieldAt l 4 4
    [1, 2, 4, 8].contains n && a % n == 0 && decide (lo ≤ a) && decide (a + n ≤ share) &&
      decide (8 + 2048 * n ≤ l.length) && banksOk share f (a + n) (l.drop (8 + 2048 * n))

/-- A TABLES section: valid tables of different numbers inside the share. -/
def tablesOk (share : Nat) (l : List Byte) : Bool :=
  let at' := (List.range (l.length / 72)).map (72 * ·)
  l.length % 72 == 0 && decide (at'.map fun o => fieldAt l o 8).Nodup &&
    at'.all fun o => decide (fieldAt l o 8 < share) && nbit (fieldAt l (o + 40) 1) 0

/-- A LANDSET section: the K-cursors and at most 96 opaque records. -/
def landsetOk (l : List Byte) : Bool :=
  let n := 8 + 8 * fieldAt l 0 8
  l.isEmpty || (decide (n ≤ l.length) && (l.length - n) % 512 == 0 && decide (l.length - n ≤ 512 * 96))

/-- A REGS section and the SQHELD section with it: legal token states, a queue of at most 16, and held pushes whose
tokens are outstanding (R405). -/
def heldOk (regs l : List Byte) : Bool :=
  let n := fieldAt l 0 8
  ((List.range 32).all fun k => decide (fieldAt regs (132736 + 2 * k) 1 ≤ 3)) &&
    decide (fieldAt regs 133488 8 ≤ 16) &&
    (l.isEmpty || (decide (1 ≤ n) && l.length == 8 + 264 * n &&
      (List.range n).all fun i =>
        let t := fieldAt l (8 + 264 * i) 8
        decide (t < 32) && fieldAt regs (132736 + 2 * t) 1 == 1))

/-- Section `i` of the record at `a`. -/
def State.recSec (s : State) (a : Nat) (h : List Byte) (i : Nat) : List Byte :=
  getBytes s.mem (a + (recSect h i).1) (recSect h i).2

/-- The sections of a record hold what R407 gives them. -/
def State.recSectsOk (s : State) (a : Nat) (h : List Byte) : Bool :=
  let share := 8192 / 2 ^ fieldAt h 7 1
  banksOk share (share + 1) 0 (s.recSec a h 1) && tablesOk share (s.recSec a h 2) &&
    landsetOk (s.recSec a h 4) && heldOk (s.recSec a h 0) (s.recSec a h 5)

/-- The end of a record: that of its last section. -/
def recEnd (h : List Byte) : Nat := ((List.range 6).map fun i => (recSect h i).1 + (recSect h i).2).foldl max 256

/-- What a LANDSET section stands for: the set that the save which wrote it captured, or else a free value
(assumption 9). -/
def State.landset (s : State) (l : List Byte) : Option SavedSet :=
  match s.savedSets.find? (·.bytes == l) with
  | some z => some z
  | none => Config.landsetDecode l

/-- The groups of a BANKS section and their banks. -/
def groupsOf : Nat → List Byte → List (Nat × Nat) × List (Nat × VReg)
  | 0, _ => ([], [])
  | f + 1, l =>
    if l.length < 8 then ([], [])
    else
      let a := fieldAt l 0 4
      let n := fieldAt l 4 4
      let r := groupsOf f (l.drop (8 + 2048 * n))
      let bk := (List.range n).map fun i => (a + i, BitVec.ofNat 16384 (fieldAt l (8 + 2048 * i) 2048))
      ((a, n) :: r.1, bk.filter (fun e => e.2 != 0) ++ r.2)

/-- The tables of a TABLES section. -/
def tablesOf (l : List Byte) : List (Nat × Table) :=
  (List.range (l.length / 72)).map fun i =>
    let o := 72 * i
    (fieldAt l o 8,
      { entries := BitVec.ofNat 256 (fieldAt l (o + 8) 32), meta0 := wd (fieldAt l (o + 40) 8)
        meta1 := wd (fieldAt l (o + 48) 8), copy := BitVec.ofNat 40 (fieldAt l (o + 56) 5) })

/-- The held pushes of an SQHELD section as operations whose data has arrived (R405), with the numbers `ids`. -/
def pushesOf (ids : Nat → Nat) (asgen : Word) (l : List Byte) : List Op :=
  (List.range (fieldAt l 0 8)).map fun i =>
    let o := 8 + 264 * i
    { id := ids i, kind := .cpsq, token := Fin.ofNat 32 (fieldAt l o 8), a := 0, b := 0, c := 1, fn := 0
      ety := .none, dim := 0, pdim := 0, mask := 0, startBeat := 0, started := true, startCycle := 0
      asgen := asgen, performed := [0, 1, 2, 3], errs := []
      data := (List.range 4).map fun k => (k, BitVec.ofNat 512 (fieldAt l (o + 8 + 64 * k) 64))
      landed := [], rows := [], covers := [], coveredError := false, doneSent := false, partnerDone := false
      tokenDone := false, barSent := 0, barStep := 0, barGot := [], lastCycle := 0
      issuedAt := 0, delivered := [], spoiled := false }

/-- The registers of a REGS section. -/
def Context.loadRegs (c : Context) (l : List Byte) : Context :=
  { c with
    x := Vector.ofFn fun i : Fin 32 => wd (fieldAt l (8 * i.val) 8)
    v := Vector.ofFn fun i : Fin 64 => BitVec.ofNat 16384 (fieldAt l (256 + 2048 * i.val) 2048)
    p := Vector.ofFn fun i : Fin 16 => BitVec.ofNat 512 (fieldAt l (131328 + 64 * i.val) 64)
    s := Vector.ofFn fun i : Fin 16 => BitVec.ofNat 192 (fieldAt l (132352 + 24 * i.val) 24)
    tok := Vector.ofFn fun i : Fin 32 =>
      tokenOf (fieldAt l (132736 + 2 * i.val) 1) (fieldAt l (132737 + 2 * i.val) 1)
    count := Vector.ofFn fun i : Fin 16 => BitVec.ofNat 48 (fieldAt l (132800 + 24 * i.val) 8)
    amax := Vector.ofFn fun i : Fin 16 => BitVec.ofNat 32 (fieldAt l (132808 + 24 * i.val) 8)
    limit := Vector.ofFn fun i : Fin 16 => BitVec.ofNat 48 (fieldAt l (132816 + 24 * i.val) 8)
    scst := BitVec.ofNat 16 (fieldAt l 133184 8)
    ag := Vector.ofFn fun i : Fin 16 => BitVec.ofNat 128 (fieldAt l (133192 + 16 * i.val) 16)
    tapeb := BitVec.ofNat 27 (fieldAt l 133448 8)
    tapel := BitVec.ofNat 27 (fieldAt l 133456 8)
    tapec := BitVec.ofNat 27 (fieldAt l 133464 8)
    tapes := BitVec.ofNat 32 (fieldAt l 133472 8)
    tapesa := BitVec.ofNat 52 (fieldAt l 133480 8)
    sq := (List.range (min 16 (fieldAt l 133488 8))).map fun i =>
      BitVec.ofNat 2048 (fieldAt l (133496 + 256 * i) 256)
    tags := ((List.range c.tileShare).map fun i => (i, BitVec.ofNat 32 (fieldAt l (137592 + 4 * i) 4))).filter
      fun e => e.2 != 0 }

/-- The redirect entry of a field. -/
def redirOf (n : Nat) : Option (BitVec 64) :=
  if nbit n 63 then some (BitVec.ofNat 64 (n % 2 ^ 63)) else none

def modeOf (n : Nat) : Mode :=
  match n with
  | 1 => .fwd
  | 2 => .rev
  | _ => .off

/-- The items of a header. -/
def Context.loadHeader (c : Context) (h : List Byte) : Context :=
  { c with
    pc := fieldAt h 64 8
    redir0 := redirOf (fieldAt h 72 8)
    redir1 := redirOf (fieldAt h 80 8)
    cbc := fieldAt h 88 8
    slipOffset := wd (fieldAt h 104 8)
    qcnt := BitVec.ofNat 32 (fieldAt h 112 4)
    qiCount := fieldAt h 116 4
    pin := if fieldAt h 120 8 = 0 then none else some (fieldAt h 120 4, nbits (fieldAt h 124 4) 0 9)
    dmode := modeOf (fieldAt h 128 1)
    wcol := fieldAt h 129 1 == 1
    ltgen := BitVec.ofNat 16 (fieldAt h 130 2)
    rrb := BitVec.ofNat 5 (fieldAt h 132 1)
    lc := BitVec.ofNat 32 (fieldAt h 136 4)
    sp := fieldAt h 140 8
    srw := BitVec.ofNat 4 (fieldAt h 148 4)
    tstat := wd (fieldAt h 152 8)
    taddr := BitVec.ofNat 21 (fieldAt h 160 8)
    tbeat := wd (fieldAt h 168 8)
    tinfo := wd (fieldAt h 176 8)
    tibeat := wd (fieldAt h 184 8)
    fbud := BitVec.ofNat 32 (fieldAt h 192 4)
    slipHeld := wd (fieldAt h 96 8)
    restoring := some (wd (fieldAt h 96 8), none)
    recorded := true }

/-- The frozen landing set of a heavy save (R408), and the held pushes of its SQHELD section under the numbers that
they had. -/
def Context.loadSet (c : Context) (z : SavedSet) (sqheld : List Byte) : Context :=
  let next := z.free.getD 4 1
  let pushes := pushesOf (fun i => z.held.getD i (next + i)) c.asgen sqheld
  { c with
    timed := z.timed, lset := z.lset, cmds := z.cmds, pendTables := z.pendTables, pending := z.pending
    phase := z.phase, halting := z.halting, takenTo := z.takenTo, idleLeft := z.idleLeft
    mxFree := z.free.getD 0 0, wbFree := z.free.getD 1 0, lookFree := z.free.getD 2 0
    tabFree := z.free.getD 3 0, nextId := next + pushes.length
    ops := sortBy Op.id (pushes ++ z.ops)
    late := z.late, crossed := z.crossed, svcDone := z.svcDone, serviced := z.serviced
    restoring := c.restoring.map fun r => (r.1, match z.run with
      | .saved w => some w
      | _ => none) }

/-- The ERR of a restore from the record at `a` with header `h` (R406); 0 where it may go on. -/
def State.restoreErr (s : State) (b : Fin 8) (q : Fin 4) (h : List Byte) (a : Nat) : Nat :=
  let x := s.brick b
  let c := s.ctx b q
  if c.run ≠ .empty || !recHeaderOk h || fieldAt h 196 2 ≠ c.coord || fieldAt h 198 2 ≠ c.ndim then 8
  else if fieldAt h 8 4 ≠ Config.stepping.toNat || fieldAt h 12 48 ≠ c.nhash.toNat then 4
  else if !s.areaOk a (recEnd h) then 3
  else if !s.recSectsOk a h || (fieldAt h 6 1 == 1 && (s.landset (s.recSec a h 4)).isNone) then 8
  else if fieldAt h 7 1 ≠ c.frac then 5
  else if (x.quartersOf q c.frac).any (fun i => x.quarters.toList.getD i .dirty != .clean) ||
      (x.quartersOf q c.frac).isEmpty then 6
  else if fieldAt h 60 2 ≠ c.asid || fieldAt h 62 2 ≠ c.gen || (x.genOf c.asid).toNat ≠ c.gen then 7
  else 0

/-- A task that is restored has its seat in its kernel's list, and is a released one no more. -/
def Kernel.reseat (k : Kernel) (coord : Nat) (p : Fin 8 × Fin 4) : Kernel :=
  { k with
    seats := k.seats.set coord p, relRecs := k.relRecs.filter fun r => r.1 != coord
    tibeats := k.tibeats.filter fun r => r.1 != coord }

/-- Every saved item loaded from the record at `a` (R408). -/
def State.restored (s : State) (c : Context) (a : Nat) (h : List Byte) : Context :=
  let sec := s.recSec a h
  let c1 := (c.loadHeader h).loadRegs (sec 0)
  let g := groupsOf (c.bankShare + 1) (sec 1)
  let c2 := { c1 with
    run := .restored
    held := g.1.foldl (fun m e => mapSet 0 m e.1 e.2) []
    banks := g.2.foldl (fun m e => mapSet 0 m e.1 e.2) []
    tables := (tablesOf (sec 2)).foldl (fun m e => mapSet Table.zero m e.1 e.2) []
    spad := takeSpan s.mem (a + (recSect h 3).1) (recSect h 3).2
    ops := pushesOf (1 + ·) c.asgen (sec 5)
    nextId := 1 + fieldAt (sec 5) 0 8 }
  match (if fieldAt h 6 1 = 1 then s.landset (sec 4) else none) with
  | some z => c2.loadSet z (sec 5)
  | none => c2

/-- The saved generation of the record with header `h` has passed: its context never runs again (R455). -/
def State.genPassed (s : State) (b : Fin 8) (q : Fin 4) (h : List Byte) : Bool :=
  let asid := (s.ctx b q).asid
  fieldAt h 60 2 == asid && ((s.brick b).genOf asid).toNat != fieldAt h 62 2

/-- A kernel that never runs again posts nothing (R455). -/
def State.lapse (s : State) (kernel : Nat) : State :=
  match s.kernel kernel with
  | some k => (s.setKernel { k with lapsed := true }).checkComplete kernel
  | none => s

/-- CONTEXT_RESTORE (R406, R408): the record is checked and loaded, or ERR is set. A record of another stepping kills
the kernel too (19 R371), and one whose generation has passed ends it without a report (R455). -/
def execContextRestore (b : Fin 8) (q : Fin 4) (v : Word) (s : State) :
    Host.Outcome State Fault Refusal :=
  let x := s.seat b q
  let a := (areaOf v).toNat
  let h := getBytes s.mem a 256
  .next (if !s.takesCmd b q then s.writeArea b q v
    else
      let s0 := (s.writeArea b q v).setSeat b q { (s.writeArea b q v).seat b q with areaErr := false }
      let err := if s.physOk a && !x.areaErr then s.restoreErr b q h a else 3
      if err ≠ 0 then
        let s1 := (s0.ctxFail b q err).logContext b q 0x0031 (fieldAt h 6 1) err
        if err = 4 && fieldAt h 8 4 ≠ Config.stepping.toNat then s1.killKernel x.ctx.kernel 0 fun _ _ _ => none
        else if err = 7 && s.genPassed b q h then s1.lapse x.ctx.kernel
        else s1
      else
        let s1 := s0.setSeat b q { s0.seat b q with
          done := true, ctx := s.restored x.ctx a h, share := (s.brick b).quartersOf q x.ctx.frac }
        let s2 := match s1.kernel x.ctx.kernel with
          | some k => s1.setKernel (k.reseat x.ctx.coord (b, q))
          | none => s1
        s2.logContext b q 0x0031 (fieldAt h 6 1) 0)

/-- A context that a release ends: stopped, or saved in trap service, or restored and not resumed (R409). -/
def Run.releasable : Run → Bool
  | .stopped | .saved _ | .restored => true
  | _ => false

/-- What a kernel keeps of a task that is released: its record and its unconsumed errors (R417). A task that no save
record stands for cannot run again, so its record joins the report (assumption 30). -/
def Kernel.release (k : Kernel) (coord cbc : Nat) (rec0 : List Byte) (errs : BitVec 32) (recorded : Bool) : Kernel :=
  { k.putTibeat coord cbc with
    relErrs := if errs = 0 then k.relErrs else (coord, errs) :: k.relErrs
    relRecs := (coord, rec0) :: k.relRecs.filter fun r => r.1 != coord
    reports := if recorded then k.reports else k.reports ++ [(coord, rec0)] }

/-- CONTEXT_RELEASE (R409, R417, R455): a stopped or saved context ends without running. Its share becomes dirty, and
what it has started drains before the scrub (R416). A kernel of which a released context never runs again posts nothing
(R455). -/
def execContextRelease (b : Fin 8) (q : Fin 4) (s : State) : Host.Outcome State Fault Refusal :=
  let x := s.seat b q
  let c := x.ctx
  .next (if !s.takesCmd b q then s
    else if !c.run.releasable then (s.ctxFail b q 8).logContext b q 0x0032 0 8
    else
      let errs := BitVec.ofNat 32 (tokMask c Token.isErr) ||| c.unconsumed
      let s1 := match s.kernel c.kernel with
        | some k =>
          s.setKernel (k.release c.coord c.cbc (taskRecord s b q (s.withRelErr c) (siblingEnd c)) errs c.recorded)
        | none => s
      let s2 := (s1.closeFreeze b c).logContext b q 0x0032 0 0
      let s3 := (s2.setSeat b q { s2.seat b q with
        done := true, armedReg := false, runReg := false, committed := false, resumeOwed := false
        ctx := { c with
          run := .released (s.brick b).gbc, phase := .entry, cmds := [] } }).dirty b q
      if (s.brick b).passed x then s3.lapse c.kernel else s3.checkComplete c.kernel)

/-- Every task of a kernel is ready to go on from its restore at the common count `t`: it is restored and committed at
`t`, or has resumed from there already, or it ended before (R408). -/
def State.togetherAt (s : State) (kernel : Nat) (t : Word) : Bool :=
  match s.kernel kernel with
  | some k => k.relRecs.isEmpty && k.seats.zipIdx.all fun e =>
      let y := s.seat e.1.1 e.1.2
      k.reports.any (·.1 == e.2) || (y.ctx.kernel == kernel && match y.ctx.run with
        | .restored => y.armedReg && y.committed && y.ctx.gbcs == t
        | _ => y.ctx.resumedAt == some t)
  | none => true

/-- CONTEXT_RESUME (R408): a restored and committed context resumes at T, with GBCS rewritten so that SLIP reads
its saved value (01 R55). One whose generation has passed never does (R455). -/
def execContextResume (b : Fin 8) (q : Fin 4) (s : State) : Host.Outcome State Fault Refusal :=
  let x := s.brick b
  let y := s.seat b q
  let c := y.ctx
  .next (if s.power == .on && x.inService && x.cycleNow && x.owns q && c.run == .restored && y.armedReg &&
        y.committed && decide (c.gbcs.toNat ≤ x.gbc.toNat) && s.togetherAt c.kernel c.gbcs && !x.tableBad &&
        !x.passed y then
      let r := c.restoring.getD (0, none)
      s.setSeat b q { y with
        ctx := { c with
          run := match r.2 with
            | some spent => .service (x.gbc - spent)
            | none => .running
          recorded := false
          resumedAt := some c.gbcs
          svcCounted := r.2.getD 0
          gbcs := c.gbcs - (wd c.cbc + r.1 - c.slipOffset) * wd (2 ^ c.frac)
          restoring := none }
        armedReg := false, committed := false, runReg := true }
    else s)

/-! ### Scrub (22 R415, R416) -/

/-- The steward of a brick may scrub: it runs, and no stage of the boot has failed (23 R418, R421). -/
def State.scrubs (s : State) (b : Fin 8) : Bool := s.power == .on && s.stewardUp b && s.stage != 15

/-- SCRUB: a dirty quarter is taken up once the drain of a released context has ended (step 1); its seats' register
files, tokens, counters and shares are cleared (steps 2 to 6). A seat's share is that of the context it last held,
whatever table is in force now. -/
def execScrub (b : Fin 8) (k : Fin 4) (s : State) : Host.Outcome State Fault Refusal :=
  let x := s.brick b
  let on (q : Fin 4) : Bool := (s.seat b q).share.contains k.val
  let stale (q : Fin 4) (c : Context) : Bool := (c.run == .ended || c.run == .killed) && on q
  let draining := (List.finRange 4).any fun q => match (s.ctx b q).run with
    | .released _ => on q
    | _ => false
  .next (if !s.scrubs b || x.quarters.get k != .dirty || draining then s
    else
      let s1 := s.setBrick b { x with quarters := x.quarters.set k.val .busy }
      (List.finRange 4).foldl (fun t q =>
        if stale q (s.ctx b q) then t.setCtx b q Context.reset else t) s1)

/-- SCRUB_COMPLETE: the check pass ends. A failure raises machine check 0x06 and the brick leaves service
(R416, 25 R447). -/
def execScrubComplete (b : Fin 8) (k : Fin 4) (ok : Bool) (s : State) :
    Host.Outcome State Fault Refusal :=
  let x := s.brick b
  .next (if !s.scrubs b || x.quarters.get k != .busy then s
    else if ok then
      (s.setBrick b { x with quarters := x.quarters.set k.val .clean }).logEvent b 0x0033 0xFFFF (le 8 k.val)
    else
      (((s.setBrick b { x with quarters := x.quarters.set k.val .failed }).logEvent b 0x0034 0xFFFF
        (le 8 k.val)).logMachineCheck b 6).leaveService b 6)

/-! ### Translation (22 R410-R413) -/

/-- The entry that a walk inserts for an access under `gen`. -/
def entryOf (asid gen : BitVec 16) (va : Nat) (x : Xlat) : TlbEntry :=
  ⟨asid, gen, va / x.size * x.size, x.size, x.base, x.rd, x.wr⟩

/-- An entry inserted; a TLB that holds 2,048 entries loses one, by a free choice (02 R82, assumption 4). -/
def State.insertTlb (s : State) (b : Fin 8) (e : TlbEntry) : State :=
  let t := (s.brick b).tlb
  if t.length < 2048 then s.setBrick b { s.brick b with tlb := e :: t }
  else
    { s.setBrick b { s.brick b with tlb := e :: t.eraseIdx (Config.choice s.freeCtr % 2048) } with
      freeCtr := s.freeCtr + 1 }

/-- TLB_WALK (R412): a miss is served from the tables; a walk that finds no valid leaf, or a forbidden address,
inserts nothing and goes to firmware. -/
def execTlbWalk (b : Fin 8) (asid gen : BitVec 16) (va : BitVec 52) (s : State) :
    Host.Outcome State Fault Refusal :=
  .next (if s.power == .off || (s.tlbHit b asid.toNat gen.toNat va.toNat).isSome then s
    else match s.walk asid.toNat va.toNat with
      | some x =>
        if s.physOk (x.base + va.toNat % x.size) then s.insertTlb b (entryOf asid gen va.toNat x) else s
      | none => s)

/-- Whether an invalidation names a TLB entry (R413). -/
def tlbMatches (inv : Word) (cnt : BitVec 32) (e : TlbEntry) : Bool :=
  let mode := nbits inv.toNat 0 2
  let same := e.asid.toNat == nbits inv.toNat 2 16
  let lo := nbits inv.toNat 18 40 * 4096
  mode == 0 || (mode == 1 && same) || (mode == 2 && same && overlaps e.va e.size lo (cnt.toNat * 4096))

/-- TLB_INVALIDATE: TLBGO.GO. The invalidation joins those that run, and DONE is no longer set; the reserved mode
starts nothing (R413). -/
def execTlbInvalidate (b : Fin 8) (s : State) : Host.Outcome State Fault Refusal :=
  let x := s.brick b
  .next (if !s.stewardUp b || nbits x.tlbinv.toNat 0 2 == 3 then s
    else s.setBrick b { x with tlbPending := x.tlbPending ++ [(x.tlbinv, x.tlbcnt)], tlbDone := false })

/-- TLB_INVALIDATE_DONE: no entry that an invalidation names remains. -/
def execTlbInvalidateDone (b : Fin 8) (s : State) : Host.Outcome State Fault Refusal :=
  let x := s.brick b
  .next (if x.tlbPending.isEmpty then s
    else s.setBrick b { x with
      tlb := x.tlb.filter fun e => !x.tlbPending.any fun i => tlbMatches i.1 i.2 e
      tlbPending := [], tlbDone := true })

/-! ### Generations (22 R414, 04 R125) -/

/-- The generation after `g`; 0 is skipped. -/
def nextGen (g : BitVec 16) : BitVec 16 := if g = 0xFFFF then 1 else g + 1

/-- A home adopts a generation. -/
def State.adopt (s : State) (i : Fin 8) (asid : Nat) (g : BitVec 16) : State :=
  s.setBrick i { s.brick i with gens := mapSet 1 (s.brick i).gens asid g }

/-- An advance runs on some brick (R414). -/
def State.advancing (s : State) : Bool := (List.finRange 8).any fun i => (s.brick i).genBusy

/-- GENERATION_ADVANCE: GENADV is written, and discarded while an advance runs. With GO each home adopts the next
generation, now or by the time the advance is done (a free choice, assumption 4); records pending under the address
space become stale (21 R402). -/
def execGenerationAdvance (b : Fin 8) (v : Word) (s : State) : Host.Outcome State Fault Refusal :=
  let x := s.brick b
  let asid := v.truncate 16
  .next (if !s.stewardUp b || s.advancing then s
    else if !v.getLsbD 16 then s.setBrick b { x with genadvAsid := asid }
    else
      let g := nextGen ((s.brick 0).genOf asid.toNat)
      let n := Config.choice s.freeCtr
      let s1 := { s.setBrick b { x with genadvAsid := asid, genBusy := true, genDone := false, genNext := g } with
        freeCtr := s.freeCtr + 1 }
      let s2 := (List.finRange 8).foldl (fun t i => if nbit n i.val then t.adopt i asid.toNat g else t) s1
      (List.finRange 64).foldl (fun t q =>
        let u := t.queue q
        if u.asid = asid then t.setQueue q { u with stale := (u.tail - u.headIx).toNat } else t) s2)

/-- An access under an older generation is in flight. -/
def Context.oldAccess (c : Context) (asid : Nat) (g : BitVec 16) : Bool :=
  c.run.live && c.asid == asid && c.gen != g.toNat &&
    c.ops.any fun o => o.kind.isCopy && o.started && (List.range o.spans).any o.pendingSpan

/-- The steward writes the generation into the address-space table's entry (R410, R414). -/
def State.writeAst (s : State) (asid : Nat) (g : BitVec 16) : State :=
  let a := s.astbase.toNat + 16 * asid + 8
  if s.physOk a then { s with mem := setBytes s.mem a (toBytes 2 g.toNat) } else s

/-- GENERATION_ADVANCE_DONE: every home has adopted the generation and every access that carried the old one has
been performed or rejected; DONE is set, and the table's entry rewritten. Homes that had not adopted it do; while old
accesses are in flight that is all. -/
def execGenerationAdvanceDone (b : Fin 8) (s : State) : Host.Outcome State Fault Refusal :=
  let x := s.brick b
  .next (if !x.genBusy then s
    else
      let a := x.genadvAsid.toNat
      let s1 := (List.finRange 8).foldl (fun t i => t.adopt i a x.genNext) s
      if allSeats.any fun p => (s.ctx p.1 p.2).oldAccess a x.genNext then s1
      else
        ((s1.setBrick b { s1.brick b with genBusy := false, genDone := true, genOut := x.genNext }).logEvent b
          0x0035 0xFFFF (le 8 a ++ le 8 x.genNext.toNat)).writeAst a x.genNext)

end Sys2Proof.Machine
end

