-- ==== Sys2Proof/Machine/Security.lean ====
section
/-! DEFINITION. Boot, measurement, the trust store, attestation and the audit log (23 R418-R432). -/

namespace Sys2Proof.Machine

/-! ### Boot (23 R418-R420) -/

/-- Nyonpa's keys in the ROM (R420). -/
def romKey : Key where
  ed := (List.range 32).map Config.romKeyByte
  ml := (List.range 1952).map fun i => Config.romKeyByte (32 + i)

/-- The first check of R420 that an image fails; 0 when it passes all. -/
def imageFail (svnmin : Nat) (img : List Byte) : Nat :=
  if sha384 (img.drop 4096) ≠ Config.imageBodyHash img then 1
  else if !Config.verifyEd25519 romKey.ed (img.take 256) (Config.imageSig1 img) then 2
  else if !Config.verifyMlDsa romKey.ml (img.take 256) (Config.imageSig2 img) then 3
  else if (Config.imageSvn img).toNat < svnmin then 4
  else 0

/-- The keys of the store in slot order, the owner first; an empty place is the empty list. -/
def State.storeKeys (s : State) : List (List Byte) :=
  let one (k : Option Key) : List Byte := match k with
    | some k => k.ed ++ k.ml
    | none => []
  one s.owner :: s.slots.toList.map one

def State.storeHash (s : State) : BitVec 384 := Config.storeDigest s.storeKeys s.storeCtr

/-- INSVC of BOOTST (R421). -/
def State.insvc (s : State) : Nat :=
  (List.finRange 8).foldl (fun a b => if (s.brick b).inService then a + 2 ^ b.val else a) 0

/-- BOOTST (R421). -/
def State.bootst (s : State) : Word :=
  wd (s.stage.toNat + s.failcode.toNat * 2 ^ 4 + s.insvc * 2 ^ 12 + s.svn.toNat * 2 ^ 32)

/-- A boot that fails: STAGE 0xF, and its entry (R421, R428). -/
def State.bootFail (s : State) (code : Nat) : State :=
  { s with stage := 15, failcode := BitVec.ofNat 8 code }.logEvent 0 0x0003 0xFFFF (le 8 code)

/-- What flash and fuses keep when power returns; BOOTCNT is one higher, which the period's life record counts too, and
the log's chain begins (R426). Of the two telemetry copies the newer one whose digest holds is kept (25 R450). -/
def State.powered (s : State) : State :=
  let n := s.bootcnt + 1
  { State.reset with
    power := .on
    svnmin := s.svnmin, stage1 := s.stage1, stewardImage := s.stewardImage
    owner := s.flashOwner, slots := s.flashSlots, storeCtr := s.storeCtr, bootcnt := n
    flashOwner := s.flashOwner, flashSlots := s.flashSlots
    logHash := sha384 (toBytes 16 Config.devid.toNat ++ le 8 n.toNat)
    telLife := if s.flashGood then s.telLife else s.telLifeOld
    telPeriod := mergeOne (if s.flashGood then s.telPeriod else s.telPeriodOld) 0 ⟨0x0A, 0, 1, 1⟩
    telLifeOld := s.telLifeOld, telPeriodOld := s.telPeriodOld, flashCopy := s.flashCopy
    inbox := s.inbox, freeCtr := s.freeCtr }

/-- Stage 1 trains a link from the end of a brick that answers: it comes up, or its training runs out where the far end
is silent (24 R435). -/
def State.bootLink (s : State) (b : Fin 8) (d : Fin 12) : State :=
  if !(s.brick b).inService then s
  else if (s.brick (farOf b d)).inService then s.linkUp b d
  else s.failLink b d 4

/-- Stage 1, its first part: the bricks that answer are in service, their links are trained, and each takes its time
from its source over its link (R418, 24 R438). -/
def State.stageOne (s : State) : State :=
  let s1 := (List.finRange 8).foldl (fun t b =>
    if Config.brickAnswers t.bootcnt.toNat b.val then
      t.setBrick b { t.brick b with inService := true, lock := b == 0 }
    else t) s
  let s2 := (List.finRange 8).foldl (fun t b => [0, 1, 2].foldl (fun u d => u.bootLink b (Fin.ofNat 12 d)) t) s1
  (List.finRange 8).foldl (fun t b =>
    if (t.link b (Fin.ofNat 12 (srcDim b))).state == .up then t.joinTime b (Fin.ofNat 12 (srcDim b)) else t) s2

/-- Stage 1, its last part: the steward cores of the bricks in service are released (R418). -/
def State.releaseStewards (s : State) : State :=
  (List.finRange 8).foldl (fun t b =>
    if (t.brick b).inService then t.setBrick b { t.brick b with steward := true } else t) s

/-- The boot scrub of one quarter: clean and logged, or its check has failed (R428). -/
def State.bootQuarter (s : State) (b : Fin 8) (k : Fin 4) : State :=
  let x := s.brick b
  if Config.scrubPasses s.bootcnt.toNat b.val k.val then
    (s.setBrick b { x with quarters := x.quarters.set k.val .clean }).logEvent b 0x0033 0xFFFF (le 8 k.val)
  else
    (s.setBrick b { x with quarters := x.quarters.set k.val .failed }).logEvent b 0x0034 0xFFFF (le 8 k.val)

/-- Stage 2: every quarter of the bricks in service is scrubbed; a brick with a check that fails takes machine check
0x06 and leaves service (R418, 22 R416). -/
def State.stageTwo (s : State) : State :=
  (List.finRange 8).foldl (fun t b =>
    if (t.brick b).inService then
      let u := (List.finRange 4).foldl (fun u k => u.bootQuarter b k) t
      if (u.brick b).quarters.toList.any (· == .failed) then (u.logMachineCheck b 6).leaveService b 6 else u
    else t) s

/-- Stage 3: the trust store and the memory population are measured, and the queues are enabled. A store whose digest
fails is empty for this boot (R420). -/
def State.stageThree (s : State) : State :=
  let s1 := if Config.storeIntact s.bootcnt.toNat then s
    else { s with owner := none, slots := Vector.replicate 16 none }.logEvent 0 0x0003 0xFFFF (le 8 7)
  let s2 := (s1.extend 0 2 s1.storeHash).extend 0 3 Config.populationDigest
  let s3 := { s2 with stage := 3 }
  s3.logEvent 0 0x0001 0xFFFF (le 8 s3.bootcnt.toNat ++ le 8 s3.svn.toNat ++ le 8 s3.bootst.toNat)

/-- Fuses burnt for an image that has passed its checks and sets ADVANCE (R420). -/
def burnFuses (svnmin : Nat) (img : List Byte) : Nat :=
  if Config.imageAdvance img then min 64 (max svnmin (Config.imageSvn img).toNat) else svnmin

/-- The boot of R418, from the state in which power has been applied. -/
def State.boot (s : State) : State :=
  let s0 := s.extend 0 0 (sha384 s.stage1)
  let f := imageFail s.svnmin s.stage1
  if f ≠ 0 then s0.bootFail f
  else
    let s1 := { s0 with svn := Config.imageSvn s.stage1, svnmin := burnFuses s.svnmin s.stage1 }.stageOne
    if imageFail s1.svnmin s.stewardImage ≠ 0 then s1.bootFail 5
    else
      let s2 := ({ s1 with svnmin := burnFuses s1.svnmin s.stewardImage }.extend 0 1
        (sha384 s.stewardImage)).releaseStewards
      if !(s2.brick 0).inService then s2.bootFail 0
      else
        let s3 := s2.stageTwo
        if !(s3.brick 0).inService then s3.bootFail 0 else s3.stageThree

/-- POWER_UP (R418): power is applied, or has been applied and no boot has run. -/
def execPowerUp (s : State) : Host.Outcome State Fault Refusal :=
  .next (if s.power == .off || (s.power == .on && s.stage == 0) then s.powered.boot else s)

/-- MEASUREMENT_EXTEND (R419, R421): MRGO of a steward extends MR(4 + REG) with MREXT. -/
def execMeasurementExtend (b : Fin 8) (reg : Fin 4) (s : State) : Host.Outcome State Fault Refusal :=
  let d := (s.brick b).mrext.toList.zipIdx.foldl (fun a w => a + w.1.toNat * 2 ^ (64 * w.2)) 0
  .next (if s.stewardUp b then s.extend b (Fin.ofNat 8 (4 + reg.val)) (BitVec.ofNat 384 d) else s)

/-- RECOVERY_IMAGE (R421): after a failed boot, a stage-1 image for the next power-up. -/
def execRecoveryImage (image : List Byte) (s : State) : Host.Outcome State Fault Refusal :=
  .next (if s.power == .on && s.stage == 15 then { s with stage1 := image } else s)

/-! ### The trust store (23 R422, R423) -/

/-- A trust-store command. -/
structure StoreCmd where
  bytes : List Byte
  op : Nat
  slot : Nat
  ctr : Word
  key : Key
  deriving DecidableEq, Repr

def parseCmd (l : List Byte) : StoreCmd where
  bytes := l
  op := fieldAt l 4 1
  slot := fieldAt l 5 1
  ctr := wd (fieldAt l 8 8)
  key := ⟨sliceAt l 64 32, sliceAt l 96 1952⟩

/-- Reason 0x1: the format. -/
def StoreCmd.formOk (c : StoreCmd) : Bool :=
  fieldAt c.bytes 0 4 == 0x4C59_5453 && decide (1 ≤ c.op) && decide (c.op ≤ 4) &&
    (if c.op == 2 || c.op == 3 then decide (c.slot < 16) else c.slot == 0) &&
    fieldAt c.bytes 6 2 == 0 && fieldAt c.bytes 32 32 == 0

/-- The owner's signature over bytes 0 to 2,047. -/
def State.ownerSigned (s : State) (c : StoreCmd) : Bool :=
  match s.owner with
  | some k => k.verifies (c.bytes.take 2048) (sliceAt c.bytes 2048 64) (sliceAt c.bytes 2112 3309)
  | none => false

/-- The slot that a command names. -/
def State.slotKey (s : State) (c : StoreCmd) : Option Key := s.slots.toList.getD c.slot none

/-- The reason for which a command is refused; 0 when it is accepted (R423). -/
def State.cmdReason (s : State) (c : StoreCmd) : Nat :=
  if !c.formOk then 1
  else if c.ctr ≠ s.storeCtr + 1 then 2
  else if fieldAt c.bytes 16 16 ≠ Config.devid.toNat then 3
  else if c.op = 1 then (if s.owner.isSome then 5 else 0)
  else if !s.ownerSigned c then 4
  else if c.op = 2 then
    (if (s.slotKey c).isSome || s.slots.toList.any (fun k => match k with
        | some k => k.id == c.key.id
        | none => false) then 5 else 0)
  else if c.op = 3 then (if (s.slotKey c).isNone then 5 else 0)
  else 0

/-- The store written to flash as it stands. -/
def State.storeFlash (s : State) : State := { s with flashOwner := s.owner, flashSlots := s.slots }

/-- The effect of an accepted command on the store. -/
def State.applyCmd (s : State) (c : StoreCmd) : State :=
  (match c.op with
  | 1 => { s with owner := some c.key }
  | 2 => { s with slots := s.slots.setIfInBounds c.slot (some c.key) }
  | 3 => { s with slots := s.slots.setIfInBounds c.slot none }
  | _ => { s with owner := none, slots := Vector.replicate 16 none } : State).storeFlash

/-- The KEYID that a TSOK entry names: of the key placed or removed. -/
def State.cmdKeyId (s : State) (c : StoreCmd) : Nat :=
  match c.op with
  | 1 => c.key.id
  | 2 => c.key.id
  | 3 => (s.slotKey c).elim 0 Key.id
  | _ => 0

/-- A command runs (R423): accepted and logged as TSOK, or refused and logged as TSREF. -/
def State.runCmd (s : State) (c : StoreCmd) : State :=
  let r := s.cmdReason c
  let pay (x : Nat) : List Byte := le 8 c.op ++ le 8 c.slot ++ le 8 c.ctr.toNat ++ le 8 x
  if r ≠ 0 then s.logEvent 0 0x0011 0xFFFF (pay r)
  else
    let s1 := { s.applyCmd c with storeCtr := c.ctr }
    (s1.extend 0 2 s1.storeHash).logEvent 0 0x0010 0xFFFF (pay (s.cmdKeyId c))

/-- A TSCMD write whose command has this OP; a command with no OP of the four runs as any of them, and is
refused for its format. -/
def State.tscmd (s : State) (op : Nat) (pa : BitVec 52) : State :=
  let l := if s.areaOk pa.toNat 5421 then getBytes s.mem pa.toNat 5421 else []
  let c := parseCmd l
  if s.hostUp && (c.op == op || c.op == 0 || decide (4 < c.op)) then s.runCmd c else s

/-- CLAIM (R423). -/
def execClaim (pa : BitVec 52) (s : State) : Host.Outcome State Fault Refusal := .next (s.tscmd 1 pa)

/-- ENROL (R423). -/
def execEnrol (pa : BitVec 52) (s : State) : Host.Outcome State Fault Refusal := .next (s.tscmd 2 pa)

/-- REMOVE (R423). -/
def execRemove (pa : BitVec 52) (s : State) : Host.Outcome State Fault Refusal := .next (s.tscmd 3 pa)

/-- RELINQUISH (R423). -/
def execRelinquish (pa : BitVec 52) (s : State) : Host.Outcome State Fault Refusal := .next (s.tscmd 4 pa)

/-! ### The audit log (23 R427-R430) -/

/-- A signature made with the alias keys: both parts (R424, R429). -/
def State.sign (s : State) (msg : List Byte) : List Byte :=
  (List.range 64).map (Config.signEd25519 (s.mr.get 0) msg) ++
    (List.range 3309).map (Config.signMlDsa (s.mr.get 0) msg)

/-- A Lost entry when events were dropped and there is room again (R430). -/
def State.flushLost (s : State) : State :=
  if s.logLost ≠ 0 && !s.logHold then
    { s.pushEntry (s.brick 0).gbc.toNat 0x0044 0xFFFF 0xFFFF (le 8 s.logLost) with logLost := 0 }
  else s

/-- A seal: its entry and its record. Under HOLD the entry of one that is asked for is counted as lost (R429, R432). -/
def State.sealNow (s0 : State) : State :=
  let s := s0.flushLost
  if s.logHold then { s with logLost := s.logLost + 1, sealReq := false }
  else
    let n := s.logNext
    let body := le 8 (n + 2 ^ 64 - 1) ++ mrBytes s.logHash
    let z : Seal := ⟨n, s.logHash, s.sign body⟩
    { s.pushEntry (s.brick 0).gbc.toNat 0x0043 0xFFFF 0xFFFF body with
      seals := (n % 64, z) :: s.seals.filter fun e => e.1 != n % 64
      lastSeal := n, logSinceSeal := 0, sealReq := false }

/-- LOG_APPEND (R427): LOGGO of a steward. -/
def execLogAppend (b : Fin 8) (s : State) : Host.Outcome State Fault Refusal :=
  let x := s.brick b
  .next (if !s.stewardUp b then s
    else if x.logtype.toNat < 0x8000 || s.logFull then s.setBrick b { x with logRefused := true }
    else
      let pay := x.logpay.toList.flatMap fun w => le 8 w.toNat
      (s.logEvent b x.logtype.toNat 0xFFFF pay).setBrick b { x with logDone := true })

/-- LOG_ACK (R427, R430): entries below a sealed SEQ + 1 or less are freed. -/
def execLogAck (seq : Word) (s : State) : Host.Outcome State Fault Refusal :=
  .next (if s.hostUp && decide (seq.toNat ≤ s.lastSeal) then
      { s with logAcked := max s.logAcked seq.toNat, logAck := seq }.flushLost
    else s)

/-- LOG_PAGE_SELECT (R427). -/
def execLogPageSelect (seq : Word) (s : State) : Host.Outcome State Fault Refusal :=
  .next (if s.hostUp then { s with logPage := seq } else s)

/-- SEALREQ (R429): a seal is asked for; LOG_SEAL makes it. -/
def execSealreq (s : State) : Host.Outcome State Fault Refusal :=
  .next (if s.hostUp then { s with sealReq := true } else s)

/-- A seal is due: SEALREQ, or 4,096 entries since the last. Under HOLD the latter waits until there is room (R429,
R430). -/
def State.sealDue (s : State) : Bool := s.sealReq || (decide (4096 ≤ s.logSinceSeal) && !s.logHold)

/-- LOG_SEAL (R429, R432): one seal for SEALREQ and the count of entries together. -/
def execLogSeal (s : State) : Host.Outcome State Fault Refusal :=
  .next (if s.power != .off && s.sealDue then s.sealNow else s)

/-! ### Attestation (23 R425) -/

/-- ATTESTATION_REQUEST: ATTGO with the nonce in ATTNONCE; the log is sealed first (R429), and a report that
has not been made starts again. -/
def execAttestationRequest (nonce : BitVec 256) (s : State) : Host.Outcome State Fault Refusal :=
  .next (if s.hostUp then { s.sealNow with nonce := nonce, attBusy := true } else s)

/-- Bytes 0 to 567 of a report. -/
def State.reportBody (s : State) : List Byte :=
  le 4 0x4C59_4154 ++ le 2 1 ++ le 2 0 ++ le 4 Config.stepping.toNat ++ le 4 s.svn.toNat ++
    le 16 Config.devid.toNat ++ le 32 s.nonce.toNat ++ s.mr.toList.flatMap mrBytes ++ mrBytes s.storeHash ++
    le 8 s.logNext ++ mrBytes s.logHash ++ le 8 s.bootcnt.toNat ++ le 8 (s.brick 0).gbc.toNat

/-- ATTESTATION_DONE: the report is signed and DONE is set. -/
def execAttestationDone (s : State) : Host.Outcome State Fault Refusal :=
  .next (if s.attBusy && s.power != .off then
      { s with attReport := s.reportBody ++ s.sign s.reportBody, attBusy := false, attDone := true }
    else s)

end Sys2Proof.Machine
end

