-- ==== Sys2Proof/Machine/Fleet.lean ====
section
/-! DEFINITION. Allocations, power and clocks, errors, telemetry, host accesses to memory, and the registers that
have no row of their own (00 R7, 21 R388-R397, 22 R403, R413-R415, 25 R443-R451). -/

namespace Sys2Proof.Machine

/-! ### Allocations (25 R443, R444) -/

/-- The entry of a written WINBASE, QCFG.ASID or ALLOC: the register by its BAR0 offset, and the value
(23 R428, R444). -/
def State.logWrite (s : State) (queue reg : Nat) (v : Word) : State :=
  s.logEvent 0 0x0037 queue (le 8 reg ++ le 8 v.toNat)

/-- Bits `lo` to `lo + len - 1` of a word in place. -/
def keep (v : Word) (lo len : Nat) : Nat := nbits v.toNat lo len * 2 ^ lo

/-- ALLOCATION_WRITE (R443, R444). -/
def execAllocationWrite (q : Fin 64) (v : Word) (s : State) : Host.Outcome State Fault Refusal :=
  .next (if !s.hostUp then s
    else (s.setQueue q { s.queue q with alloc := wd (keep v 0 13 + keep v 16 5) }).logWrite q.val
      (0x800 + 8 * q.val) v)

/-! ### Telemetry (25 R449-R451) -/

/-- A brick's delta joins a set; the life record is the module's, kept as brick 0's. -/
def mergeAll (l : List (Nat × TelCount)) (b : Nat) (d : List TelCount) : List (Nat × TelCount) :=
  d.foldl (fun a t => mergeOne a (if t.id = 0x0A then 0 else b) t) l

/-- The time for which a brick holds its clock low is reckoned up to now: the whole seconds that it completes are
counted (R449). -/
def State.reckonThrottle (s : State) (b : Fin 8) : State :=
  let x := s.brick b
  match x.throttle with
  | some g =>
    let n := x.throttled + (x.gbc - g).toNat
    (s.setBrick b { x with throttle := some x.gbc, throttled := n }).tel b 0x0A 0 3
      (n / 2000000000 - x.throttled / 2000000000)
  | none => s

/-- A brick's deltas reach brick 0, with the seconds that it has been powered; brick 0 writes the older of its
flash copies (R450). A throttle that lasts is counted up to then. -/
def State.sendDelta (s0 : State) (b : Fin 8) : State :=
  let s := s0.reckonThrottle b
  let x := s.brick b
  let secs := x.gbc.toNat / 2000000000 - x.lastDelta.toNat / 2000000000
  let d := if b = 0 then bumpTel x.telDelta 0x0A 0 0 secs else x.telDelta
  { (s.setBrick b { x with telDelta := [], lastDelta := x.gbc }) with
    telLife := mergeAll s.telLife b.val d
    telPeriod := mergeAll s.telPeriod b.val d
    telLifeOld := s.telLife
    telPeriodOld := s.telPeriod
    flashCopy := !s.flashCopy
    flashWriting := true }

/-- TELEMETRY_DELTA (R450): every 2^36 counts. -/
def execTelemetryDelta (b : Fin 8) (s : State) : Host.Outcome State Fault Refusal :=
  let x := s.brick b
  .next (if s.power != .off && decide (2 ^ 36 ≤ (x.gbc - x.lastDelta).toNat) then s.sendDelta b else s)

/-- Number of counts of a record; none for a selection that R449 does not define. The causes of a machine check are 0x01
to 0x06 (05 R132). -/
def recordSize (id sub : Nat) : Option Nat :=
  match id with
  | 0x01 => if sub < 3 then some 32 else none
  | 0x02 => if sub = 0 then some 32 else none
  | 0x03 => if sub < 12 then some 10 else none
  | 0x04 => if sub < 512 then some (512 - sub) else none
  | 0x05 => if sub < 64 then some (64 - sub) else none
  | 0x06 => if sub < 6 then some 2 else none
  | 0x07 => if sub = 0 then some 33 else none
  | 0x08 => if sub < 16 then some 2 else none
  | 0x09 => if 1 ≤ sub && sub < 7 then some 3 else none
  | 0x0A => if sub = 0 then some 4 else none
  | _ => none

/-- One count of a set. The life record is the module's; BOOTCNT of the lifetime set is the boot counter, that of the
period set counts from the last clearing (R450). -/
def State.telCount (s : State) (period : Bool) (b id sub i : Nat) : Nat :=
  let set := if period then s.telPeriod else s.telLife
  let bank := id == 4 || id == 5
  let b' := if id = 0x0A then 0 else b
  if id = 0x0A && i = 1 && !period then s.bootcnt.toNat
  else ((set.find? fun e => e.1 == b' && e.2.id == id && e.2.sub == (if bank then 0 else sub) &&
      e.2.idx == (if bank then sub + i else i)).map fun e => e.2.value).getD 0

/-- TELEMETRY_SELECT (R451): a snapshot, or BAD. -/
def execTelemetrySelect (v : Word) (s : State) : Host.Outcome State Fault Refusal :=
  let id := nbits v.toNat 0 8
  let sub := nbits v.toNat 11 9
  .next (if !s.hostUp then s
    else match recordSize id sub with
      | none => { s with telSel := wd (keep v 0 21), telBad := true }
      | some n => { s with
          telSel := wd (keep v 0 21)
          telReady := true
          telWin := (List.range n).map (s.telCount (nbit v.toNat 20) (nbits v.toNat 8 3) id sub) })

/-- TELEMETRY_CLEAR (R451): the period set is cleared, and a firmware event logged, which a FULL log refuses
(23 R430). -/
def execTelemetryClear (s : State) : Host.Outcome State Fault Refusal :=
  .next (if !s.hostUp then s
    else
      let s1 := { s with telPeriod := [] }
      if s.logFull then s1 else s1.logEvent 0 0x8000 0xFFFF [])

/-- TEMPERATURE_SAMPLE (R449): a reading in degrees Celsius, every 2^24 counts. -/
def execTemperatureSample (b : Fin 8) (t : Int) (s : State) : Host.Outcome State Fault Refusal :=
  let x := s.brick b
  let high := match x.telDelta.find? fun e => e.id == 7 && e.idx == 32 with
    | some e => max e.value t.toNat
    | none => t.toNat
  .next (if s.power == .off || x.gbc.toNat % 2 ^ 24 ≠ 0 then s
    else s.setBrick b { x with
      temperature := t
      telDelta := putTel (bumpTel x.telDelta 7 0 (min (t.toNat / 4) 31) 1) 7 0 32 high })

/-! ### Power and clocks (25 R445, R446) -/

/-- No seat of the module holds a context, no scrub is busy and no queue is enabled. -/
def State.atRest (s : State) : Bool :=
  allSeats.all (fun p => !s.occupied p.1 p.2) &&
    (List.finRange 8).all (fun b => (s.brick b).quarters.toList.all (· != .busy)) &&
    s.queues.toList.all fun u => !u.en

/-- STANDBY (R445, R450): PWRCTL.STBY, ignored while the module is in Run or a queue is enabled. -/
def execStandby (s : State) : Host.Outcome State Fault Refusal :=
  .next (if s.power == .on && s.hostUp && s.atRest then
      { (List.finRange 8).foldl (fun t b => t.sendDelta b) (s.tel 0 0x0A 0 2 1) with power := .standby }
    else s)

/-- STANDBY_EXIT (R445): PWRCTL.RUN. -/
def execStandbyExit (s : State) : Host.Outcome State Fault Refusal :=
  .next (if s.power == .standby then { s with power := .on } else s)

/-- A clock of 500 MHz to 2 GHz in steps of 62.5 MHz: a free choice (assumption 4). -/
def State.freeClock (s : State) : Nat := 8 + Config.choice s.freeCtr % 25

/-- POWER_CAP (R446): the cap is set, and firmware gives every brick the clock that meets it. With the cap as it stands,
firmware meets it anew. -/
def execPowerCap (v : Word) (s : State) : Host.Outcome State Fault Refusal :=
  let w := min 2400 (max 600 (nbits v.toNat 0 12))
  let k := s.freeClock
  .next (if !s.hostUp then s
    else { s with
      powercap := BitVec.ofNat 12 w
      modClock := k
      freeCtr := s.freeCtr + 1
      bricks := s.bricks.map fun x => { x with clock := if x.throttle.isSome then min x.clock k else k } })

/-- THERMAL_THROTTLE (R446): a junction at 105 degrees or more lowers the brick's own clock. -/
def execThermalThrottle (b : Fin 8) (s : State) : Host.Outcome State Fault Refusal :=
  let x := s.brick b
  .next (if s.power == .off || x.throttle.isSome then s
    else { s.setBrick b { x with
        throttle := some x.gbc, clock := min x.clock (min s.freeClock (max 8 (s.modClock - 1))) } with
      freeCtr := s.freeCtr + 1 })

/-- THERMAL_THROTTLE_END (R446): the brick takes the module's clock again; the time is counted (R449). -/
def execThermalThrottleEnd (b : Fin 8) (s : State) : Host.Outcome State Fault Refusal :=
  let s1 := s.reckonThrottle b
  .next (if (s.brick b).throttle.isSome then
      s1.setBrick b { s1.brick b with throttle := none, clock := s.modClock }
    else s)

/-- THERMAL_TRIP (R446, R447): machine check 0x03, and the brick leaves service. -/
def execThermalTrip (b : Fin 8) (s : State) : Host.Outcome State Fault Refusal :=
  .next (if s.power != .off && (s.brick b).inService then (s.logMachineCheck b 3).leaveService b 3 else s)

/-- POWER_LOSS (R445, R450, R452): what flash and fuses hold stays; the digest of a telemetry copy that was being
written may not hold (a free choice, assumption 4). -/
def execPowerLoss (s : State) : Host.Outcome State Fault Refusal :=
  let torn := nbit (Config.choice s.freeCtr) 0
  .next { State.reset with
    power := .off
    svnmin := s.svnmin, stage1 := s.stage1, stewardImage := s.stewardImage
    flashOwner := s.flashOwner, flashSlots := s.flashSlots, storeCtr := s.storeCtr, bootcnt := s.bootcnt
    telLife := s.telLife, telPeriod := s.telPeriod
    telLifeOld := s.telLifeOld, telPeriodOld := s.telPeriodOld, flashCopy := s.flashCopy
    flashGood := s.flashGood && !(s.flashWriting && torn)
    inbox := s.inbox, freeCtr := s.freeCtr + 1 }

/-! ### Errors (25 R447, R449) -/

/-- Record, sub-selection and index of a structure's counts; the corrected count. -/
def eccCount (p : EccPlace) : Nat × Nat × Nat :=
  match p with
  | .hbm bank => (4, 0, bank)
  | .scratchpad bank => (5, 0, bank)
  | .registers => (6, 0, 0)
  | .accumulators => (6, 1, 0)
  | .tables => (6, 2, 0)
  | .l2 => (6, 3, 0)
  | .ddr => (6, 4, 0)
  | .imem => (6, 5, 0)

/-- CORRECTED_ERROR (R447): repaired in place and counted. -/
def execCorrectedError (b : Fin 8) (place : EccPlace) (s : State) : Host.Outcome State Fault Refusal :=
  let k := eccCount place
  .next (if s.power == .off then s else s.tel b k.1 k.2.1 k.2.2 1)

/-- The home of a virtual address; the brick itself where it has none. -/
def State.homeBrick (s : State) (b : Fin 8) (c : Context) (va : Nat) (rd wr : Bool) : Fin 8 :=
  match s.translate b c.asid c.gen va rd wr with
  | some pa => Fin.ofNat 8 (homeOf pa)
  | none => b

/-- The home of the span that an operation accesses next. -/
def State.opHome (s : State) (b : Fin 8) (q : Fin 4) (id : Nat) : Fin 8 :=
  let c := s.ctx b q
  match c.op id with
  | some o =>
    match (List.range o.spans).find? o.pendingSpan with
    | some i =>
      match o.globalAddr c i with
      | .ok va => s.homeBrick b c va o.needs.1 o.needs.2
      | .error _ => b
    | none => b
  | none => b

/-- The span that the fetcher of a command reads next. -/
def Cmd.nextSpan (m : Cmd) : Option Nat :=
  let kb := (kbeat (strm m.p) (strm m.q)).getD 1
  let at' (d : Strm) (j : Nat) : Option Nat :=
    if d.global && decide (j < m.steps) then (stepSpans d kb j).head? else none
  if m.kind == .mxmm then
    match at' (strm m.p) m.stagedP with
    | some va => some va
    | none => at' (strm m.q) m.stagedQ
  else none

/-- The home of the span that a context's fetcher reads next. -/
def State.fetchHome (s : State) (b : Fin 8) (q : Fin 4) : Fin 8 :=
  match (s.ctx b q).streamCmds.findSome? Cmd.nextSpan with
  | some va => s.homeBrick b (s.ctx b q) va true false
  | none => b

/-- The uncorrectable count of a structure that record 0x06 keeps, on the structure's brick: L2 and DDR-5 are the
home's. -/
def State.countHard (s : State) (b home : Fin 8) (place : EccPlace) : State :=
  let k := eccCount place
  if k.1 = 6 then s.tel (if place == .l2 || place == .ddr then home else b) 6 k.2.1 1 1 else s

/-- An error met by an outstanding operation: the first span of a copy that is still to be performed is rejected with
cause 0x06, and the token of an exchange completes in error, while its traffic goes on to its end. -/
def State.spoilOp (s : State) (b : Fin 8) (q : Fin 4) (id : Nat) : State :=
  s.onOp b q id fun c o =>
    if o.kind.isCopy then
      match (List.range o.spans).find? o.pendingSpan with
      | some i => if o.started then s.setCtx b q (c.setOp { o with errs := (i, 6) :: o.errs }) else s
      | none => s
    else match o.kind with
      | .fence => s
      | .xbar => s
      | _ =>
        if o.tokenOver || decide (c.cbc ≤ o.startBeat) then s
        else
          let c1 := { c with
            tok := c.tok.set o.token.val (.error 6)
            ops := c.ops.map fun (p : Op) => if p.kind == .fence then p.covered id true else p : Context }
          (s.setCtx b q (c1.setOp { o with spoiled := true })).progress c.kernel

/-- UNCORRECTABLE_ERROR (R447, 05 R133): in a context's state or data, machine check 0x01; in a global read or a
link transfer, the operation ends with an error token, cause 0x06; in a save area, the save or restore that meets it
ends with ERR 0x3 (22 R406). Each is counted (R449). -/
def execUncorrectableError (b : Fin 8) (place : ErrPlace) (s : State) : Host.Outcome State Fault Refusal :=
  .next (if s.power == .off then s
    else match place with
      | .context q p =>
        let s1 := s.countHard b (s.fetchHome b q) p
        if (s.ctx b q).run.over then s1 else (s1.logMachineCheck b 1).machineCheck b q 1
      | .operation q id p => (s.countHard b (s.opHome b q id) p).spoilOp b q id
      | .saveArea q p =>
        let x := s.seat b q
        let s1 := s.countHard b (Fin.ofNat 8 (homeOf (if x.busy then x.saveTo else x.area).toNat)) p
        s1.setSeat b q { s1.seat b q with areaErr := true })

/-! ### The host's window (21 R388) -/

/-- What a read of `n` bytes at an offset of BAR2 gives; what is no memory, or lies past the window of 256 GiB, reads 0
(R388, assumption 35). -/
def State.bar2Read (s : State) (offset : BitVec 38) (n : Nat) : List Byte :=
  (List.range n).map fun i =>
    let pa := s.winbase.toNat + offset.toNat + i
    if s.hostUp && s.power == .on && decide (offset.toNat + i < 2 ^ 38) && s.physOk pa then
      BitVec.ofNat 8 (getN s.mem pa 1) else 0

/-- HOST_MEMORY_ACCESS (R388, 04 R124): a write through BAR2 is performed at its home, as far as the window of 256 GiB
goes; a read changes nothing. -/
def execHostMemoryAccess (offset : BitVec 38) (write : Option (List Byte)) (s : State) :
    Host.Outcome State Fault Refusal :=
  .next (match write with
    | none => s
    | some l0 =>
      let l := l0.take (2 ^ 38 - offset.toNat)
      let pa := s.winbase.toNat + offset.toNat
      if s.hostUp && s.power == .on && (List.range l.length).all fun i => s.physOk (pa + i) then
        { s with mem := setBytes s.mem pa l }
      else s)

/-! ### Registers without a row of their own (00 R7) -/

/-- A write to a set-up block field (21 R397, 22 R408): of a seat that holds no context, or, for the placement
registers and GBCS, of a restored one that is not armed. The image that is loaded again for a restore is that of the
kernel, by its number (DESIGN CHOICE, assumption 17); its certificate is checked anew, and a refused load is logged
(19 R370). -/
def State.writeSetup (s : State) (b : Fin 8) (q : Fin 4) (f : SetupField) (v : Word) : State :=
  let c := s.ctx b q
  let empty := c.run == .empty
  let open' := empty || (c.run == .restored && !(s.seat b q).armedReg)
  match f with
  | .crd => if open' then s.setCtx b q { c with crd := wd (keep v 0 28) } else s
  | .scmask => if open' then s.setCtx b q { c with scmask := wd (keep v 0 12 + keep v 16 12) } else s
  | .dimmap => if open' then s.setCtx b q { c with dimmap := wd (keep v 0 52) } else s
  | .gbcs => if open' then s.setCtx b q { c with gbcs := v } else s
  | .seatf => if empty then s.setCtx b q { c with seatf := wd (keep v 0 4) } else s
  | .asgen => if empty then s.setCtx b q { c with asgen := wd (keep v 0 32) } else s
  | .qi => if empty then s.setCtx b q { c with qi := v.truncate 32 } else s
  | .entry => if empty then s.setCtx b q { c with pc := nbits v.toNat 0 21 } else s
  | .param k => if empty then s.setCtx b q { c with x := c.x.setIfInBounds (k.val + 1) v } else s
  | .image =>
    match s.kernel v.toNat with
    | some k =>
      if !empty then s
      else if s.certStands k.image then s.setCtx b q { c.loadImage k.image with kernel := k.id }
      else s.logCert k.queue k.image.cert
    | none => s

/-- Entry `j` of four words of 64 bits replaced. -/
def putWord (t : BitVec 256) (j : Nat) (v : Word) : BitVec 256 :=
  BitVec.ofNat 256 ((List.range 4).foldl (fun a i =>
    a + (if i = j then v.toNat else nbits t.toNat (64 * i) 64) * 2 ^ (64 * i)) 0)

/-- A write to CTXCTL: a command of 22 R403, or ERR 0x8. -/
def State.writeCtxctl (s : State) (b : Fin 8) (q : Fin 4) (v : Word) : Host.Outcome State Fault Refusal :=
  match nbits v.toNat 0 3 with
  | 1 => execLightSave b q v s
  | 2 => execHeavySave b q v s
  | 3 => execContextRestore b q v s
  | 4 => execContextRelease b q (s.writeArea b q v)
  | _ => .next (if s.takesCmd b q then (s.writeArea b q v).ctxFail b q 8 else s.writeArea b q v)

/-- A write to DETCTL (24 R434): RELAYDIM takes its value, and GO opens or CLOSE closes the detour. With both written GO
acts, and CLOSE is ignored (DESIGN CHOICE, assumption 27). -/
def State.writeDetctl (s : State) (b : Fin 8) (d : Fin 12) (v : Word) : Host.Outcome State Fault Refusal :=
  let s1 := if s.stewardUp b then s.modLink b d fun l => { l with relayDim := v.truncate 4 } else s
  if v.getLsbD 4 then execDetourOpen b d v s1
  else if v.getLsbD 5 then execDetourClose b d s1
  else .next s1

/-- A write to a host register (21 R388-R390, 23 R425, 25 R451). ATTST has no table: DONE is bit 0, cleared by writing 1
(assumption 35). -/
def State.writeHost (s : State) (r : PlainReg) (v : Word) : State :=
  match r with
  | .winbase => { s with winbase := wd (keep v 38 14) }.logWrite 0xFFFF 0 v
  | .qcfg q =>
    let u := s.queue q
    let s1 := s.setQueue q { u with
      log2n := v.truncate 4, en := v.getLsbD 4, ien := v.getLsbD 5
      asid := if u.en then u.asid else BitVec.ofNat 16 (nbits v.toNat 16 16) }
    if u.en then s1 else s1.logWrite q.val (0x8000 + 64 * q.val) v
  | .qlbase q =>
    let u := s.queue q
    if u.en then s else s.setQueue q { u with lbase := areaOf v }
  | .qcbase q =>
    let u := s.queue q
    if u.en then s else s.setQueue q { u with cbase := areaOf v }
  | .qstat q =>
    let u := s.queue q
    s.setQueue q { u with badTail := u.badTail && !v.getLsbD 0, badChead := u.badChead && !v.getLsbD 1 }
  | .attst => { s with attDone := s.attDone && !v.getLsbD 0 }
  | .telst => { s with telReady := s.telReady && !v.getLsbD 0, telBad := s.telBad && !v.getLsbD 1 }
  | _ => s

/-- A write to a steward register. -/
def State.writeSteward (s : State) (r : PlainReg) (v : Word) : State :=
  match r with
  | .seattab b j => s.setBrick b { s.brick b with staged := putWord (s.brick b).staged j.val v }
  | .seatstat b => s.setBrick b { s.brick b with seatBad := (s.brick b).seatBad && !v.getLsbD 0 }
  | .ctxst b q => s.setSeat b q { s.seat b q with done := (s.seat b q).done && !v.getLsbD 1 }
  | .fbud b q => s.setCtx b q { s.ctx b q with fbud := v.truncate 32 }
  | .setup b q f => s.writeSetup b q f v
  | .tlbinv b => s.setBrick b { s.brick b with tlbinv := wd (keep v 0 58) }
  | .tlbcnt b => s.setBrick b { s.brick b with tlbcnt := v.truncate 32 }
  | .tlbst b => s.setBrick b { s.brick b with tlbDone := (s.brick b).tlbDone && !v.getLsbD 0 }
  | .genst b => s.setBrick b { s.brick b with genDone := (s.brick b).genDone && !v.getLsbD 0 }
  | .scrubst b => s.setBrick b { s.brick b with
      quarters := Vector.ofFn fun k : Fin 4 =>
        let x := (s.brick b).quarters.get k
        if x == .failed && v.getLsbD (8 + k.val) then .dirty else x }
  | .mrext b j => s.setBrick b { s.brick b with mrext := (s.brick b).mrext.set j.val v }
  | .logtype b => s.setBrick b { s.brick b with logtype := v.truncate 16 }
  | .logpay b j => s.setBrick b { s.brick b with logpay := (s.brick b).logpay.set j.val v }
  | .logast b => s.setBrick b { s.brick b with
      logDone := (s.brick b).logDone && !v.getLsbD 0, logRefused := (s.brick b).logRefused && !v.getLsbD 1 }
  | .lnkerr b d => s.modLink b d fun l => { l with
      crcErr := v.truncate 32, replays := BitVec.ofNat 32 (nbits v.toNat 32 32) }
  | .gsync b => s.setBrick b { s.brick b with lost := (s.brick b).lost && !v.getLsbD 5 }
  | .rly b j => s.setBrick b { s.brick b with
      rly := (s.brick b).rly.set j.val
        { dest := v.truncate 12, out := BitVec.ofNat 4 (nbits v.toNat 12 4), en := v.getLsbD 16 } }
  | _ => s

/-- The brick whose steward a register is written by. -/
def regBrick : PlainReg → Fin 8
  | .seattab b _ | .seatstat b | .ctxst b _ | .ctxctl b _ | .fbud b _ | .setup b _ _ | .tlbinv b | .tlbcnt b | .tlbst b
  | .genst b | .scrubst b | .mrext b _ | .logtype b | .logpay b _ | .logast b | .lnkerr b _ | .gsync b | .rly b _
  | .detctl b _ => b
  | _ => 0

/-- Registers of the host port. -/
def hostReg : PlainReg → Bool
  | .winbase | .qcfg _ | .qlbase _ | .qcbase _ | .qstat _ | .attst | .telst | .bar0 _ => true
  | _ => false

/-- A host write of a register that has no row of its own. -/
def State.plainHost (s : State) (r : PlainReg) (v : Word) : Host.Outcome State Fault Refusal :=
  .next (if s.hostUp then s.writeHost r v else s)

/-- A host write at an offset of BAR0 (R388-R390, 23 R427, 25 R443, R451): the registers of an interface stand one after
another in the order of their table (assumption 35). Every other offset ignores it. -/
def State.writeBar0 (s : State) (o : Nat) (v : Word) : Host.Outcome State Fault Refusal :=
  if 0x800 ≤ o && o < 0xA00 && o % 8 == 0 then execAllocationWrite (Fin.ofNat 64 ((o - 0x800) / 8)) v s
  else if o = 0x2008 then execLogPageSelect v s
  else if o = 0x2010 then execLogAck v s
  else if o = 0x2018 then (if v.getLsbD 0 then execSealreq s else .next s)
  else if o = 0x5000 then execTelemetrySelect v s
  else if o = 0x5008 then s.plainHost .telst v
  else if o = 0x5010 then (if v.getLsbD 0 then execTelemetryClear s else .next s)
  else if 0x8000 ≤ o && o < 0x9000 then
    let q := Fin.ofNat 64 ((o - 0x8000) / 64)
    if o % 64 = 0 then s.plainHost (.qcfg q) v
    else if o % 64 = 8 then s.plainHost (.qlbase q) v
    else if o % 64 = 0x10 then s.plainHost (.qcbase q) v
    else .next s
  else if 0x10000 ≤ o && o < 0x50000 then
    let q := Fin.ofNat 64 ((o - 0x10000) / 0x1000)
    if o % 0x1000 = 0 then execDoorbell q (v.truncate 16) s
    else if o % 0x1000 = 0x18 then execCheadWrite q (v.truncate 16) s
    else if o % 0x1000 = 0x20 then s.plainHost (.qstat q) v
    else .next s
  else .next s

/-- REGISTER_WRITE (00 R7): RW fields take the value, W1C bits written as 1 clear, RO and reserved fields
ignore it. -/
def execRegisterWrite (r : PlainReg) (v : Word) (s : State) : Host.Outcome State Fault Refusal :=
  match r with
  | .ctxctl b q => s.writeCtxctl b q v
  | .detctl b d => s.writeDetctl b d v
  | .bar0 o => s.writeBar0 o.toNat v
  | r => if hostReg r then s.plainHost r v else .next (if s.stewardUp (regBrick r) then s.writeSteward r v else s)

end Sys2Proof.Machine
end

