-- ==== Sys2Proof/Machine/Scalar.lean ====
section
/-! DEFINITION. Scalar arithmetic of slots 1 and 2 (08 R188-R192). -/

namespace Sys2Proof.Machine

/-- `add` (R188). -/
def execAdd (g : Fin 16) (d a b : Fin 32) (s : State) : Host.Outcome State Fault Refusal :=
  scalarOp g d 1 (fun v => v.xr a + v.xr b) s

def execAddImm (g : Fin 16) (d a : Fin 32) (i : Imm) (s : State) : Host.Outcome State Fault Refusal :=
  scalarOp g d 1 (fun v => v.xr a + immVal i) s

/-- `sub` (R188). -/
def execSub (g : Fin 16) (d a b : Fin 32) (s : State) : Host.Outcome State Fault Refusal :=
  scalarOp g d 1 (fun v => v.xr a - v.xr b) s

/-- `mul`: the low 64 bits, three beats (R177, R188). -/
def execMul (g : Fin 16) (d a b : Fin 32) (s : State) : Host.Outcome State Fault Refusal :=
  scalarOp g d 3 (fun v => v.xr a * v.xr b) s

/-- Bits [127:64] of a product (R189). -/
def mulHigh (fn : MulhFn) (a b : Word) : Word :=
  match fn with
  | .s => BitVec.ofInt 64 (a.toInt * b.toInt / 2 ^ 64)
  | .u => wd (a.toNat * b.toNat / 2 ^ 64)
  | .su => BitVec.ofInt 64 (a.toInt * (b.toNat : Int) / 2 ^ 64)

/-- `mulh` (R189). -/
def execMulh (g : Fin 16) (d a b : Fin 32) (fn : MulhFn) (s : State) :
    Host.Outcome State Fault Refusal :=
  scalarOp g d 3 (fun v => mulHigh fn (v.xr a) (v.xr b)) s

/-- `and` (R188). -/
def execAnd (g : Fin 16) (d a b : Fin 32) (s : State) : Host.Outcome State Fault Refusal :=
  scalarOp g d 1 (fun v => v.xr a &&& v.xr b) s

def execAndImm (g : Fin 16) (d a : Fin 32) (i : Imm) (s : State) : Host.Outcome State Fault Refusal :=
  scalarOp g d 1 (fun v => v.xr a &&& immVal i) s

/-- `or` (R188). -/
def execOr (g : Fin 16) (d a b : Fin 32) (s : State) : Host.Outcome State Fault Refusal :=
  scalarOp g d 1 (fun v => v.xr a ||| v.xr b) s

def execOrImm (g : Fin 16) (d a : Fin 32) (i : Imm) (s : State) : Host.Outcome State Fault Refusal :=
  scalarOp g d 1 (fun v => v.xr a ||| immVal i) s

/-- `xor` (R188). -/
def execXor (g : Fin 16) (d a b : Fin 32) (s : State) : Host.Outcome State Fault Refusal :=
  scalarOp g d 1 (fun v => v.xr a ^^^ v.xr b) s

def execXorImm (g : Fin 16) (d a : Fin 32) (i : Imm) (s : State) : Host.Outcome State Fault Refusal :=
  scalarOp g d 1 (fun v => v.xr a ^^^ immVal i) s

/-- Shift amount: the low 6 bits (R188). -/
def amount (w : Word) : Nat := w.toNat % 64

/-- `shl` (R188). -/
def execShl (g : Fin 16) (d a b : Fin 32) (s : State) : Host.Outcome State Fault Refusal :=
  scalarOp g d 1 (fun v => v.xr a <<< amount (v.xr b)) s

def execShlImm (g : Fin 16) (d a : Fin 32) (i : Imm) (s : State) : Host.Outcome State Fault Refusal :=
  scalarOp g d 1 (fun v => v.xr a <<< amount (immVal i)) s

/-- `shr` (R188). -/
def execShr (g : Fin 16) (d a b : Fin 32) (s : State) : Host.Outcome State Fault Refusal :=
  scalarOp g d 1 (fun v => v.xr a >>> amount (v.xr b)) s

def execShrImm (g : Fin 16) (d a : Fin 32) (i : Imm) (s : State) : Host.Outcome State Fault Refusal :=
  scalarOp g d 1 (fun v => v.xr a >>> amount (immVal i)) s

/-- `sar` (R188). -/
def execSar (g : Fin 16) (d a b : Fin 32) (s : State) : Host.Outcome State Fault Refusal :=
  scalarOp g d 1 (fun v => (v.xr a).sshiftRight (amount (v.xr b))) s

def execSarImm (g : Fin 16) (d a : Fin 32) (i : Imm) (s : State) : Host.Outcome State Fault Refusal :=
  scalarOp g d 1 (fun v => (v.xr a).sshiftRight (amount (immVal i))) s

/-- The order that a signedness keyword names (R189). -/
def below (fn : Sgn) (a b : Word) : Bool :=
  match fn with
  | .s => a.slt b
  | .u => a.ult b

/-- `min` (R189). -/
def execMin (g : Fin 16) (d a b : Fin 32) (fn : Sgn) (s : State) : Host.Outcome State Fault Refusal :=
  scalarOp g d 1 (fun v => if below fn (v.xr b) (v.xr a) then v.xr b else v.xr a) s

/-- `max` (R189). -/
def execMax (g : Fin 16) (d a b : Fin 32) (fn : Sgn) (s : State) : Host.Outcome State Fault Refusal :=
  scalarOp g d 1 (fun v => if below fn (v.xr a) (v.xr b) then v.xr b else v.xr a) s

/-- `sel` (R191). -/
def execSel (g : Fin 16) (d : Fin 32) (c : Fin 16) (a b : Fin 32) (s : State) :
    Host.Outcome State Fault Refusal :=
  scalarOp g d 1 (fun v => if (v.pr c).getLsbD 0 then v.xr a else v.xr b) s

/-- `cmp`: every lane of P[D] receives the result, every lane of P[D + 1] its complement; a
destination pair of `p0` and `p1` discards both (R190). -/
def execCmp (g : Fin 16) (d : Fin 16) (a b : Fin 32) (cond : Cond) (s : State) :
    Host.Outcome State Fault Refusal :=
  slotOut s (guarded g fun c v k =>
    let r := condHolds cond (v.xr a) (v.xr b)
    let all := BitVec.allOnes 512
    let one : PReg := if r then all else 0
    let d1 : Fin 16 := Fin.ofNat 16 (d.val + 1)
    .act (((c.sched k (c.cbc + 1) (.pw (c.physP d).val all one)).sched k (c.cbc + 1)
      (.pw (c.physP d1).val all (~~~one))).enter k c.cbc))

/-- `li` (R192). -/
def execLi (g : Fin 16) (d : Fin 32) (i : LiImm) (s : State) : Host.Outcome State Fault Refusal :=
  scalarOp g d 1 (fun _ => liVal i) s

/-- `lih` (R192). -/
def execLih (g : Fin 16) (d : Fin 32) (i : BitVec 24) (s : State) : Host.Outcome State Fault Refusal :=
  scalarOp g d 1 (fun v => v.xr d <<< 24 ||| i.zeroExtend 64) s

/-- `clz` (R188). -/
def execClz (g : Fin 16) (d a : Fin 32) (s : State) : Host.Outcome State Fault Refusal :=
  scalarOp g d 1 (fun v => wd (clzCount 64 (v.xr a).toNat)) s

/-- `popc` (R188). -/
def execPopc (g : Fin 16) (d a : Fin 32) (s : State) : Host.Outcome State Fault Refusal :=
  scalarOp g d 1 (fun v => wd (popcount 64 (v.xr a).toNat)) s

end Sys2Proof.Machine
end

