-- ==== Sys2Proof/Machine/Vector.lean ====
section
/-! DEFINITION. The vector instructions of slots 4 and 5 (09 R197-R210). -/

namespace Sys2Proof.Machine

/-- A vector result on the active lanes that lands `n` beats after issue (R199, R200). -/
def Context.vresult (c : Context) (k : Nat) (m : PReg) (d : Fin 64) (n : Nat)
    (f : Nat → BitVec 32) : Context :=
  (c.sched k (c.cbc + n) (.vw (c.physV d).val m (ofActive m f))).enter k (c.cbc + n - 1)

/-- A vector operation of latency `n`: `f` gives the value of a lane from the registers read. -/
def vectorOp (g : Fin 16) (d : Fin 64) (n : Nat) (f : Context → Nat → BitVec 32) (s : State) :
    Host.Outcome State Fault Refusal :=
  slotOut s (lanewise g fun m c v k => .act (c.vresult k m d n (f v)))

/-- Both halves of a packed lane (R197): a function on the values of each half, rounded to BF16. -/
def packed (f : Nat → FV) : BitVec 32 :=
  BitVec.ofNat 32 (bf16.encode (f 0) + 2 ^ 16 * bf16.encode (f 16))

/-- The value of the half of a lane that starts at bit `h`. -/
def half (x : BitVec 32) (h : Nat) : FV := b16v (x.toNat / 2 ^ h)

/-- A floating operation on exact values, rounded once in the type (R201). -/
def fpLane (ty : Ty) (f : (BitVec 32 → FV) → FV) : BitVec 32 :=
  match ty with
  | .bf16 => packed fun h => f fun x => half x h
  | _ => toF32 (f f32v)

/-- Whether a type is floating. -/
def floating : Ty → Bool
  | .f32 | .bf16 => true
  | _ => false

/-- `vadd` on one lane (R201). -/
def laneAdd (ty : Ty) (a b : BitVec 32) : BitVec 32 :=
  if floating ty then fpLane ty fun r => (r a).add (r b) else a + b

/-- `vsub` on one lane (R201). -/
def laneSub (ty : Ty) (a b : BitVec 32) : BitVec 32 :=
  if floating ty then fpLane ty fun r => (r a).add (r b).neg else a - b

/-- `vmul` on one lane (R201). -/
def laneMul (ty : Ty) (a b : BitVec 32) : BitVec 32 :=
  if floating ty then fpLane ty fun r => (r a).mul (r b) else a * b

/-- `vfma` on one lane: the product is not rounded (R201). -/
def laneFma (ty : Ty) (a b c : BitVec 32) : BitVec 32 :=
  if floating ty then fpLane ty fun r => ((r a).mul (r b)).add (r c) else a * b + c

/-- `vmin` on one lane (R202). -/
def laneMin (ty : Ty) (a b : BitVec 32) : BitVec 32 :=
  match ty with
  | .s32 => if b.slt a then b else a
  | .n32 => if b.ult a then b else a
  | _ => fpLane ty fun r => (r a).min (r b)

/-- `vmax` on one lane (R202). -/
def laneMax (ty : Ty) (a b : BitVec 32) : BitVec 32 :=
  match ty with
  | .s32 => if a.slt b then b else a
  | .n32 => if a.ult b then b else a
  | _ => fpLane ty fun r => (r a).max (r b)

/-- The magnitude of a floating value (R202). -/
def FV.abs : FV → FV
  | .nan => .nan
  | .inf _ => .inf false
  | .fin _ m e => .fin false m e

/-- `vabs` on one lane (R202): -2^31 wraps to itself. -/
def laneAbs (ty : Ty) (a : BitVec 32) : BitVec 32 :=
  match ty with
  | .s32 => if a.slt 0 then -a else a
  | _ => fpLane ty fun r => (r a).abs

/-- `vadd` (R201). -/
def execVadd (g : Fin 16) (d a b : Fin 64) (ty : Ty) (s : State) : Host.Outcome State Fault Refusal :=
  vectorOp g d 2 (fun v i => laneAdd ty (lane (v.vr a) i) (lane (v.vr b) i)) s

/-- `vsub` (R201). -/
def execVsub (g : Fin 16) (d a b : Fin 64) (ty : Ty) (s : State) : Host.Outcome State Fault Refusal :=
  vectorOp g d 2 (fun v i => laneSub ty (lane (v.vr a) i) (lane (v.vr b) i)) s

/-- `vmul` (R201). -/
def execVmul (g : Fin 16) (d a b : Fin 64) (ty : Ty) (s : State) : Host.Outcome State Fault Refusal :=
  vectorOp g d 4 (fun v i => laneMul ty (lane (v.vr a) i) (lane (v.vr b) i)) s

/-- `vfma` (R201). -/
def execVfma (g : Fin 16) (d a b e : Fin 64) (ty : Ty) (s : State) :
    Host.Outcome State Fault Refusal :=
  vectorOp g d 4
    (fun v i => laneFma ty (lane (v.vr a) i) (lane (v.vr b) i) (lane (v.vr e) i)) s

/-- `vmin` (R201, R202). -/
def execVmin (g : Fin 16) (d a b : Fin 64) (ty : Ty) (s : State) : Host.Outcome State Fault Refusal :=
  vectorOp g d 2 (fun v i => laneMin ty (lane (v.vr a) i) (lane (v.vr b) i)) s

/-- `vmax` (R201, R202). -/
def execVmax (g : Fin 16) (d a b : Fin 64) (ty : Ty) (s : State) : Host.Outcome State Fault Refusal :=
  vectorOp g d 2 (fun v i => laneMax ty (lane (v.vr a) i) (lane (v.vr b) i)) s

/-- `vabs` (R201, R202). -/
def execVabs (g : Fin 16) (d a : Fin 64) (ty : Ty) (s : State) : Host.Outcome State Fault Refusal :=
  vectorOp g d 2 (fun v i => laneAbs ty (lane (v.vr a) i)) s

/-- `vcmp`: the active lanes of P[D] and of its successor, complemented (R203). -/
def execVcmp (g : Fin 16) (d : Fin 16) (a b : Fin 64) (ty : Ty) (cond : VCond) (s : State) :
    Host.Outcome State Fault Refusal :=
  slotOut s (lanewise g fun m c v k =>
    let r := ofPred fun i => vcondHolds ty cond (lane (v.vr a) i) (lane (v.vr b) i)
    let d1 : Fin 16 := Fin.ofNat 16 (d.val + 1)
    .act (((c.sched k (c.cbc + 2) (.pw (c.physP d).val m r)).sched k (c.cbc + 2)
      (.pw (c.physP d1).val m (~~~r))).enter k (c.cbc + 1)))

/-- `vsel` (R204). -/
def execVsel (g : Fin 16) (d : Fin 64) (e : Fin 16) (a b : Fin 64) (_ty : Ty) (s : State) :
    Host.Outcome State Fault Refusal :=
  vectorOp g d 2 (fun v i => if act (v.pr e) i then lane (v.vr a) i else lane (v.vr b) i) s

/-- `vbcast` (R205). -/
def execVbcast (g : Fin 16) (d : Fin 64) (a : Fin 32) (ty : Ty) (s : State) :
    Host.Outcome State Fault Refusal :=
  vectorOp g d 2 (fun v _ => match ty with
    | .bf16 => BitVec.ofNat 32 ((v.xr a).toNat % 2 ^ 16 * (2 ^ 16 + 1))
    | _ => (v.xr a).truncate 32) s

/-- `vperm` (R206). -/
def execVperm (g : Fin 16) (d a b : Fin 64) (_ty : Ty) (s : State) :
    Host.Outcome State Fault Refusal :=
  vectorOp g d 4 (fun v i => lane (v.vr a) ((lane (v.vr b) i).toNat % 512)) s

/-- The conversion of one lane's low element (R207). -/
def laneCvt (dst src : Ty) (x : BitVec 32) : Conv :=
  convert (elemVal src (x.toNat % 2 ^ tyBits src)) (some 0) (dstOf dst) false

/-- The lane that a converted element is placed in: sign-extended for `.s8` and `.s16` (R207). -/
def cvtLane (dst : Ty) (n : Nat) : BitVec 32 :=
  BitVec.ofNat 32 (extend (signExt dst) (tyBits dst / 8) 32 n)

/-- `vcvt`: the counter update lands with the result (R207, R208). -/
def execVcvt (g : Fin 16) (d a : Fin 64) (dst src : Ty) (cn : Fin 16) (s : State) :
    Host.Outcome State Fault Refusal :=
  slotOut s (lanewise g fun m c v k =>
    let conv (i : Nat) : Conv := laneCvt dst src (lane (v.vr a) i)
    let n := convSums ((activeLanes m).map conv)
    .act ((c.vresult k m d 3 fun i => cvtLane dst (conv i).out).sched k (c.cbc + 3)
      (.cnt cn n.1 (BitVec.ofNat 32 n.2))))

/-- A transcendental on one lane (R209). -/
def laneFn (f : BitVec 32 → BitVec 32) (ty : Ty) (x : BitVec 32) : BitVec 32 :=
  match ty with
  | .bf16 => onHalves f x
  | _ => f x

/-- `vexp2` (R209, 03 R105). -/
def execVexp2 (g : Fin 16) (d a : Fin 64) (ty : Ty) (s : State) : Host.Outcome State Fault Refusal :=
  vectorOp g d 8 (fun v i => laneFn exp2 ty (lane (v.vr a) i)) s

/-- `vlog2` (R209, 03 R106). -/
def execVlog2 (g : Fin 16) (d a : Fin 64) (ty : Ty) (s : State) : Host.Outcome State Fault Refusal :=
  vectorOp g d 8 (fun v i => laneFn log2 ty (lane (v.vr a) i)) s

/-- `vrcp` (R209, 03 R107). -/
def execVrcp (g : Fin 16) (d a : Fin 64) (ty : Ty) (s : State) : Host.Outcome State Fault Refusal :=
  vectorOp g d 8 (fun v i => laneFn rcp ty (lane (v.vr a) i)) s

/-- `vrsq` (R209, 03 R108). -/
def execVrsq (g : Fin 16) (d a : Fin 64) (ty : Ty) (s : State) : Host.Outcome State Fault Refusal :=
  vectorOp g d 8 (fun v i => laneFn rsq ty (lane (v.vr a) i)) s

/-- Node `i` of level `l` of the tree of 03 R103. -/
def treeAdd (f : Nat → BitVec 32) : Nat → Nat → BitVec 32
  | 0, i => f i
  | l + 1, i => f32Add (treeAdd f l (2 * i)) (treeAdd f l (2 * i + 1))

/-- The reduction of `vredadd` (R210). -/
def reduce (ty : Ty) (m : PReg) (x : VReg) : Word :=
  match ty with
  | .f32 => (treeAdd (fun i => if act m i then lane x i else 0) 9 0).zeroExtend 64
  | _ =>
    let n : BitVec 32 := BitVec.ofNat 32
      ((activeLanes m).foldl (fun a i => a + (lane x i).toNat) 0)
    match ty with
    | .s32 => n.signExtend 64
    | _ => n.zeroExtend 64

/-- `vredadd` (R210). -/
def execVredadd (g : Fin 16) (d : Fin 32) (a : Fin 64) (ty : Ty) (s : State) :
    Host.Outcome State Fault Refusal :=
  slotOut s (lanewise g fun m c v k => .act (c.result k d 10 (reduce ty m (v.vr a))))

end Sys2Proof.Machine
end

