-- ==== Sys2Proof/Machine/Dispatch.lean ====
section
/-! DEFINITION. What each instruction and each event does: one arm per constructor of `Instr`. -/

namespace Sys2Proof.Machine

def exec (i : Instr) (s : State) : Host.Outcome State Fault Refusal :=
  match i with
  | .bundleEntry b q => Sys2Proof.Machine.execBundleEntry b q s
  | .contextBeat b q => Sys2Proof.Machine.execContextBeat b q s
  | .trailingIdleBeat b q => Sys2Proof.Machine.execTrailingIdleBeat b q s
  | .qIntervalFault b q => Sys2Proof.Machine.execQIntervalFault b q s
  | .freezeBudget b q => Sys2Proof.Machine.execFreezeBudget b q s
  | .serviceOverrun b q => Sys2Proof.Machine.execServiceOverrun b q s
  | .stall partition => Sys2Proof.Machine.execStall partition s
  | .gbcTick b => Sys2Proof.Machine.execGbcTick b s
  | .taskStart b q => Sys2Proof.Machine.execTaskStart b q s
  | .trapResume b q => Sys2Proof.Machine.execTrapResume b q s
  | .tapeOverflowService b q => Sys2Proof.Machine.execTapeOverflowService b q s
  | .tapeUnderflowService b q => Sys2Proof.Machine.execTapeUnderflowService b q s
  | .streamTranslationService b q entry => Sys2Proof.Machine.execStreamTranslationService b q entry s
  | .saturationPolicyService b q => Sys2Proof.Machine.execSaturationPolicyService b q s
  | .nop g => Sys2Proof.Machine.execNop g s
  | .br g tgt => Sys2Proof.Machine.execBr g tgt s
  | .brl g l tgt => Sys2Proof.Machine.execBrl g l tgt s
  | .ret g a => Sys2Proof.Machine.execRet g a s
  | .rft g => Sys2Proof.Machine.execRft g s
  | .brloop g tgt => Sys2Proof.Machine.execBrloop g tgt s
  | .loopb g n => Sys2Proof.Machine.execLoopb g n s
  | .tchk g a imm => Sys2Proof.Machine.execTchk g a imm s
  | .kwait g k => Sys2Proof.Machine.execKwait g k s
  | .halt g => Sys2Proof.Machine.execHalt g s
  | .trap g code => Sys2Proof.Machine.execTrap g code s
  | .csrr g d n => Sys2Proof.Machine.execCsrr g d n s
  | .csrw g n a => Sys2Proof.Machine.execCsrw g n a s
  | .dreg g d a => Sys2Proof.Machine.execDreg g d a s
  | .dmode g m => Sys2Proof.Machine.execDmode g m s
  | .tmark g imm => Sys2Proof.Machine.execTmark g imm s
  | .add g d a b => Sys2Proof.Machine.execAdd g d a b s
  | .addImm g d a imm => Sys2Proof.Machine.execAddImm g d a imm s
  | .sub g d a b => Sys2Proof.Machine.execSub g d a b s
  | .mul g d a b => Sys2Proof.Machine.execMul g d a b s
  | .mulh g d a b fn => Sys2Proof.Machine.execMulh g d a b fn s
  | .and g d a b => Sys2Proof.Machine.execAnd g d a b s
  | .andImm g d a imm => Sys2Proof.Machine.execAndImm g d a imm s
  | .or g d a b => Sys2Proof.Machine.execOr g d a b s
  | .orImm g d a imm => Sys2Proof.Machine.execOrImm g d a imm s
  | .xor g d a b => Sys2Proof.Machine.execXor g d a b s
  | .xorImm g d a imm => Sys2Proof.Machine.execXorImm g d a imm s
  | .shl g d a b => Sys2Proof.Machine.execShl g d a b s
  | .shlImm g d a imm => Sys2Proof.Machine.execShlImm g d a imm s
  | .shr g d a b => Sys2Proof.Machine.execShr g d a b s
  | .shrImm g d a imm => Sys2Proof.Machine.execShrImm g d a imm s
  | .sar g d a b => Sys2Proof.Machine.execSar g d a b s
  | .sarImm g d a imm => Sys2Proof.Machine.execSarImm g d a imm s
  | .min g d a b fn => Sys2Proof.Machine.execMin g d a b fn s
  | .max g d a b fn => Sys2Proof.Machine.execMax g d a b fn s
  | .sel g d c a b => Sys2Proof.Machine.execSel g d c a b s
  | .cmp g d a b cond => Sys2Proof.Machine.execCmp g d a b cond s
  | .li g d imm => Sys2Proof.Machine.execLi g d imm s
  | .lih g d imm => Sys2Proof.Machine.execLih g d imm s
  | .clz g d a => Sys2Proof.Machine.execClz g d a s
  | .popc g d a => Sys2Proof.Machine.execPopc g d a s
  | .lds g d a disp ty => Sys2Proof.Machine.execLds g d a disp ty s
  | .sts g a disp d ty => Sys2Proof.Machine.execSts g a disp d ty s
  | .vld g d a disp ty => Sys2Proof.Machine.execVld g d a disp ty s
  | .vldt g d a disp b ty => Sys2Proof.Machine.execVldt g d a disp b ty s
  | .vst g a disp d ty => Sys2Proof.Machine.execVst g a disp d ty s
  | .vatom g d a b ty op noret => Sys2Proof.Machine.execVatom g d a b ty op noret s
  | .vgath g d a b ty => Sys2Proof.Machine.execVgath g d a b ty s
  | .vscat g a b d ty => Sys2Proof.Machine.execVscat g a b d ty s
  | .vadd g d a b ty => Sys2Proof.Machine.execVadd g d a b ty s
  | .vsub g d a b ty => Sys2Proof.Machine.execVsub g d a b ty s
  | .vmul g d a b ty => Sys2Proof.Machine.execVmul g d a b ty s
  | .vfma g d a b c ty => Sys2Proof.Machine.execVfma g d a b c ty s
  | .vmin g d a b ty => Sys2Proof.Machine.execVmin g d a b ty s
  | .vmax g d a b ty => Sys2Proof.Machine.execVmax g d a b ty s
  | .vabs g d a ty => Sys2Proof.Machine.execVabs g d a ty s
  | .vcmp g d a b ty cond => Sys2Proof.Machine.execVcmp g d a b ty cond s
  | .vsel g d c a b ty => Sys2Proof.Machine.execVsel g d c a b ty s
  | .vbcast g d a ty => Sys2Proof.Machine.execVbcast g d a ty s
  | .vperm g d a b ty => Sys2Proof.Machine.execVperm g d a b ty s
  | .vcvt g d a dst src c => Sys2Proof.Machine.execVcvt g d a dst src c s
  | .vexp2 g d a ty => Sys2Proof.Machine.execVexp2 g d a ty s
  | .vlog2 g d a ty => Sys2Proof.Machine.execVlog2 g d a ty s
  | .vrcp g d a ty => Sys2Proof.Machine.execVrcp g d a ty s
  | .vrsq g d a ty => Sys2Proof.Machine.execVrsq g d a ty s
  | .vredadd g d a ty => Sys2Proof.Machine.execVredadd g d a ty s
  | .sarm g sn idx a => Sys2Proof.Machine.execSarm g sn idx a s
  | .mxmm g a sa sb sc defer int init => Sys2Proof.Machine.execMxmm g a sa sb sc defer int init s
  | .acq g d n => Sys2Proof.Machine.execAcq g d n s
  | .arls g a => Sys2Proof.Machine.execArls g a s
  | .azero g a => Sys2Proof.Machine.execAzero g a s
  | .ard g d a clr => Sys2Proof.Machine.execArd g d a clr s
  | .acvt g a sn scale sc defer ftz int => Sys2Proof.Machine.execAcvt g a sn scale sc defer ftz int s
  | .ltbuild g a sn defer => Sys2Proof.Machine.execLtbuild g a sn defer s
  | .ltlook g a w t sel defer int init wb sq => Sys2Proof.Machine.execLtlook g a w t sel defer int init wb sq s
  | .ltinv g a b => Sys2Proof.Machine.execLtinv g a b s
  | .ltspill g a sn defer => Sys2Proof.Machine.execLtspill g a sn defer s
  | .ltfill g a sn defer => Sys2Proof.Machine.execLtfill g a sn defer s
  | .ltstat g d a => Sys2Proof.Machine.execLtstat g d a s
  | .cpld g a b c k defer => Sys2Proof.Machine.execCpld g a b c k defer s
  | .cpst g a b c k defer => Sys2Proof.Machine.execCpst g a b c k defer s
  | .cpfill g a b c k defer => Sys2Proof.Machine.execCpfill g a b c k defer s
  | .cpga g a b c k defer => Sys2Proof.Machine.execCpga g a b c k defer s
  | .cpsc g a b c k defer => Sys2Proof.Machine.execCpsc g a b c k defer s
  | .cpsq g a b c k defer => Sys2Proof.Machine.execCpsq g a b c k defer s
  | .cpat g a b c k defer => Sys2Proof.Machine.execCpat g a b c k defer s
  | .fenci g k scope => Sys2Proof.Machine.execFenci g k scope s
  | .fencw g k => Sys2Proof.Machine.execFencw g k s
  | .xch g dim a b k => Sys2Proof.Machine.execXch g dim a b k s
  | .xcc g dim a b k comb => Sys2Proof.Machine.execXcc g dim a b k comb s
  | .xsib g dim a b k v => Sys2Proof.Machine.execXsib g dim a b k v s
  | .xgs g mask a k back => Sys2Proof.Machine.execXgs g mask a k back s
  | .xbar g mask k => Sys2Proof.Machine.execXbar g mask k s
  | .xat g dim a b k op => Sys2Proof.Machine.execXat g dim a b k op s
  | .copyEngineStart b q op => Sys2Proof.Machine.execCopyEngineStart b q op s
  | .homeAccess b q op span => Sys2Proof.Machine.execHomeAccess b q op span s
  | .landingGranule b q op granule => Sys2Proof.Machine.execLandingGranule b q op granule s
  | .copyCompletion b q op => Sys2Proof.Machine.execCopyCompletion b q op s
  | .fenceCompletion b q op => Sys2Proof.Machine.execFenceCompletion b q op s
  | .scaleQueuePush b q op => Sys2Proof.Machine.execScaleQueuePush b q op s
  | .globalStreamFetch b q cmd side step => Sys2Proof.Machine.execGlobalStreamFetch b q cmd side step s
  | .exchangeArrival b d => Sys2Proof.Machine.execExchangeArrival b d s
  | .exchangeCompletion b d => Sys2Proof.Machine.execExchangeCompletion b d s
  | .xccCombine b d => Sys2Proof.Machine.execXccCombine b d s
  | .xatArrival b d => Sys2Proof.Machine.execXatArrival b d s
  | .barrierFlit b d => Sys2Proof.Machine.execBarrierFlit b d s
  | .doorbell q t => Sys2Proof.Machine.execDoorbell q t s
  | .cheadWrite q h => Sys2Proof.Machine.execCheadWrite q h s
  | .launchRecordTake q => Sys2Proof.Machine.execLaunchRecordTake q s
  | .seatTableApply b => Sys2Proof.Machine.execSeatTableApply b s
  | .startArm b q => Sys2Proof.Machine.execStartArm b q s
  | .startCommit b q => Sys2Proof.Machine.execStartCommit b q s
  | .startCancel b q => Sys2Proof.Machine.execStartCancel b q s
  | .preemptionTarget b q v => Sys2Proof.Machine.execPreemptionTarget b q v s
  | .lightSave b q v => Sys2Proof.Machine.execLightSave b q v s
  | .heavySave b q v => Sys2Proof.Machine.execHeavySave b q v s
  | .saveComplete b q => Sys2Proof.Machine.execSaveComplete b q s
  | .saveDrainTimeout b q => Sys2Proof.Machine.execSaveDrainTimeout b q s
  | .contextRestore b q v => Sys2Proof.Machine.execContextRestore b q v s
  | .contextRelease b q => Sys2Proof.Machine.execContextRelease b q s
  | .contextResume b q => Sys2Proof.Machine.execContextResume b q s
  | .scrub b quarter => Sys2Proof.Machine.execScrub b quarter s
  | .scrubComplete b quarter ok => Sys2Proof.Machine.execScrubComplete b quarter ok s
  | .tlbWalk b asid gen va => Sys2Proof.Machine.execTlbWalk b asid gen va s
  | .translationService b q op entry => Sys2Proof.Machine.execTranslationService b q op entry s
  | .tlbInvalidate b => Sys2Proof.Machine.execTlbInvalidate b s
  | .tlbInvalidateDone b => Sys2Proof.Machine.execTlbInvalidateDone b s
  | .generationAdvance b v => Sys2Proof.Machine.execGenerationAdvance b v s
  | .generationAdvanceDone b => Sys2Proof.Machine.execGenerationAdvanceDone b s
  | .powerUp => Sys2Proof.Machine.execPowerUp s
  | .measurementExtend b reg => Sys2Proof.Machine.execMeasurementExtend b reg s
  | .recoveryImage image => Sys2Proof.Machine.execRecoveryImage image s
  | .claim pa => Sys2Proof.Machine.execClaim pa s
  | .enrol pa => Sys2Proof.Machine.execEnrol pa s
  | .remove pa => Sys2Proof.Machine.execRemove pa s
  | .relinquish pa => Sys2Proof.Machine.execRelinquish pa s
  | .attestationRequest nonce => Sys2Proof.Machine.execAttestationRequest nonce s
  | .attestationDone => Sys2Proof.Machine.execAttestationDone s
  | .logAppend b => Sys2Proof.Machine.execLogAppend b s
  | .logAck seq => Sys2Proof.Machine.execLogAck seq s
  | .logPageSelect seq => Sys2Proof.Machine.execLogPageSelect seq s
  | .sealreq => Sys2Proof.Machine.execSealreq s
  | .logSeal => Sys2Proof.Machine.execLogSeal s
  | .linkTrain b d => Sys2Proof.Machine.execLinkTrain b d s
  | .linkTrainingDone b d peer => Sys2Proof.Machine.execLinkTrainingDone b d peer s
  | .trainingTimeout b d => Sys2Proof.Machine.execTrainingTimeout b d s
  | .linkDown b d train => Sys2Proof.Machine.execLinkDown b d train s
  | .flitReceive b d flit => Sys2Proof.Machine.execFlitReceive b d flit s
  | .replay b d => Sys2Proof.Machine.execReplay b d s
  | .keepAlive b d => Sys2Proof.Machine.execKeepAlive b d s
  | .keepAliveTimeout b d => Sys2Proof.Machine.execKeepAliveTimeout b d s
  | .lossOfSignal b d => Sys2Proof.Machine.execLossOfSignal b d s
  | .syncFlitSend b d => Sys2Proof.Machine.execSyncFlitSend b d s
  | .syncFlitReceive b gbc => Sys2Proof.Machine.execSyncFlitReceive b gbc s
  | .syncLost b => Sys2Proof.Machine.execSyncLost b s
  | .detourOpen b d v => Sys2Proof.Machine.execDetourOpen b d v s
  | .detourClose b d => Sys2Proof.Machine.execDetourClose b d s
  | .detourCloseDone b d => Sys2Proof.Machine.execDetourCloseDone b d s
  | .allocationWrite q v => Sys2Proof.Machine.execAllocationWrite q v s
  | .standby => Sys2Proof.Machine.execStandby s
  | .standbyExit => Sys2Proof.Machine.execStandbyExit s
  | .powerCap v => Sys2Proof.Machine.execPowerCap v s
  | .thermalThrottle b => Sys2Proof.Machine.execThermalThrottle b s
  | .thermalTrip b => Sys2Proof.Machine.execThermalTrip b s
  | .uncorrectableError b place => Sys2Proof.Machine.execUncorrectableError b place s
  | .telemetrySelect v => Sys2Proof.Machine.execTelemetrySelect v s
  | .telemetryClear => Sys2Proof.Machine.execTelemetryClear s
  | .telemetryDelta b => Sys2Proof.Machine.execTelemetryDelta b s
  | .temperatureSample b t => Sys2Proof.Machine.execTemperatureSample b t s
  | .registerWrite r v => Sys2Proof.Machine.execRegisterWrite r v s
  | .powerLoss => Sys2Proof.Machine.execPowerLoss s
  | .hostMemoryAccess offset write => Sys2Proof.Machine.execHostMemoryAccess offset write s
  | .correctedError b place => Sys2Proof.Machine.execCorrectedError b place s
  | .thermalThrottleEnd b => Sys2Proof.Machine.execThermalThrottleEnd b s
  | .downWaitExpiry b d => Sys2Proof.Machine.execDownWaitExpiry b d s
  | .lostLinkWithNoDetour b d => Sys2Proof.Machine.execLostLinkWithNoDetour b d s

end Sys2Proof.Machine
end

