-- ==== Sys2Proof/Machine/Sched.lean ====
section
/-! DEFINITION. What comes next: the slot that is issuing, the beat that is due, the events of a cycle in their
order, an event of the outside, or one of the variable-latency events that may take place, by a free choice
(01 R23-R25, R31, 04 R114, 05 R135, assumption 4). -/

namespace Sys2Proof.Machine

/-- What a step does: it runs an instruction in a state, goes to a state, or finds nothing. -/
inductive Sched where
  | run (i : Instr) (s : State)
  | quiet (s : State)
  | stop
  deriving DecidableEq, Repr

/-- Choice `n` among `m` things and none. -/
def pick (n m : Nat) : Option Nat := if n % (m + 1) < m then some (n % (m + 1)) else none

/-! ### What may happen of its own accord -/

/-- `i` where the condition holds. -/
def cand (p : Bool) (i : Instr) : List Instr := if p then [i] else []

/-- Spans that a started copy may perform, and the walks that its misses start. -/
def copyEvents (s : State) (b : Fin 8) (q : Fin 4) (c : Context) (o : Op) : List Instr :=
  if !o.started then [.copyEngineStart b q o.id]
  else
    (List.range o.spans).flatMap fun i =>
      if !o.pendingSpan i then []
      else .homeAccess b q o.id i ::
        (match (if o.fromSpad then .error 0 else o.globalAddr c i) with
          | .ok va =>
            cand (s.tlbHit b c.asid c.gen va).isNone
                (.tlbWalk b (BitVec.ofNat 16 c.asid) (BitVec.ofNat 16 c.gen) (BitVec.ofNat 52 va)) ++
              cand (s.translate b c.asid c.gen va o.needs.1 o.needs.2).isNone (.translationService b q o.id none)
          | .error _ => [])

/-- Landing granules of a context, and scale-queue pushes. -/
def landEvents (b : Fin 8) (q : Fin 4) (c : Context) : List Instr :=
  c.ops.flatMap fun o =>
    if o.lands then o.data.map fun e => .landingGranule b q o.id e.1
    else cand (o.kind == .cpsq && o.started && o.settled && o.errs.isEmpty) (.scaleQueuePush b q o.id)

/-- Completions of a context. -/
def doneEvents (b : Fin 8) (q : Fin 4) (c : Context) : List Instr :=
  c.ops.flatMap fun o =>
    if o.kind == .fence then cand o.covers.isEmpty (.fenceCompletion b q o.id)
    else cand (o.kind.isCopy && o.started && o.settled) (.copyCompletion b q o.id)

/-- Fetches of global streams: of each side the next step, if it comes before one that has failed. -/
def fetchEvents (b : Fin 8) (q : Fin 4) (c : Context) : List Instr :=
  c.streamCmds.flatMap fun m =>
    let open' (j : Nat) : Bool := decide (j < m.steps) && m.failed.all fun f => decide (j < f.1)
    if m.kind != .mxmm || !((c.cmd m.id).isSome || c.fetchesAhead) then []
    else
      cand ((strm m.p).global && open' m.stagedP) (.globalStreamFetch b q m.id false m.stagedP) ++
        cand ((strm m.q).global && open' m.stagedQ) (.globalStreamFetch b q m.id true m.stagedQ)

/-- Firmware's service of a trap (05 R138). -/
def serviceEvents (b : Fin 8) (q : Fin 4) (c : Context) : List Instr :=
  if !c.run.inService then []
  else if c.svcDone then [.trapResume b q]
  else
    match nbits c.tstat.toNat 0 8 with
    | 0x20 => [.tapeOverflowService b q]
    | 0x21 => [.tapeUnderflowService b q]
    | 0x22 => [.streamTranslationService b q none]
    | 0x28 => [.saturationPolicyService b q]
    | _ => []

/-- A commit of the chief steward has come to the seat (21 R398). -/
def State.commitDue (s : State) (b : Fin 8) (q : Fin 4) : Bool := (s.seat b q).commitIn

/-- Saves that may end. -/
def saveEvents (s : State) (b : Fin 8) (q : Fin 4) (c : Context) : List Instr :=
  match c.run with
  | .saving _ g _ =>
    if (s.seat b q).captured then [.saveComplete b q]
    else cand (decide (c.budget ≤ ((s.brick b).gbc - g).toNat)) (.saveDrainTimeout b q)
  | _ => []

/-- The events of one seat. -/
def seatEvents (s : State) (b : Fin 8) (q : Fin 4) : List Instr :=
  let c := s.ctx b q
  if c.run.over && !c.run.live then []
  else
    (c.ops.flatMap fun o => if o.kind.isCopy then copyEvents s b q c o else []) ++ landEvents b q c ++
      doneEvents b q c ++ fetchEvents b q c ++ serviceEvents b q c ++ saveEvents s b q c ++
      cand (s.commitDue b q) (.startCommit b q)

/-- What a payload at the head of its kernel's order makes happen. -/
def payloadEvents (b : Fin 8) (d : Fin 12) (l : List Payload) : List Instr :=
  l.flatMap fun p => match p with
    | .granule _ _ true _ _ _ _ _ => [.xccCombine b d]
    | .granule _ _ false _ _ _ _ _ => [.exchangeArrival b d]
    | .done _ _ _ _ _ _ _ => [.exchangeCompletion b d]
    | .xat _ _ _ _ _ _ _ => [.xatArrival b d]
    | .bar _ _ => [.barrierFlit b d]
    | .sync g => [.syncFlitReceive b g]
    | _ => []

/-- The events of one link (24 R434-R441). -/
def linkEvents (s : State) (b : Fin 8) (d : Fin 12) : List Instr :=
  let l := s.link b d
  let g := (s.brick b).gbc
  if l.state == .absent then []
  else
    payloadEvents b d l.rx ++
      (match (if inModule d then (s.link (farOf b d) d).wire else []) with
        | f :: _ => [.flitReceive b d f]
        | [] => []) ++
      cand l.askReplay (.replay b d) ++
      cand (l.state == .up && decide (2 ^ 10 ≤ (g - l.lastTx).toNat)) (.keepAlive b d) ++
      cand (l.state == .up && decide (2 ^ 14 ≤ (g - l.lastRx).toNat)) (.keepAliveTimeout b d) ++
      cand (l.state == .training && inModule d && s.trains (farOf b d) d)
        (.linkTrainingDone b d (BitVec.ofNat 12 (b.val ^^^ 2 ^ d.val))) ++
      cand (l.active && l.closing) (.detourCloseDone b d) ++
      (match s.detourNext (lowEnd b d) d with
        | some i => cand (lowEnd b d == b) i
        | none => cand (s.cutOff b d) (.lostLinkWithNoDetour b d)) ++
      (s.closeNext b d).toList ++ (s.clearNext b d).toList

/-- The events of one brick. -/
def brickEvents (s : State) (b : Fin 8) : List Instr :=
  let x := s.brick b
  (List.finRange 4).flatMap (seatEvents s b) ++
    (List.finRange 12).flatMap (linkEvents s b) ++
    ((List.finRange 4).flatMap fun k => match x.quarters.get k with
      | .dirty => cand (x.inService && s.scrubs b) (.scrub b k)
      | .busy => cand (s.scrubs b) (.scrubComplete b k true)
      | _ => []) ++
    cand (!x.tlbPending.isEmpty) (.tlbInvalidateDone b) ++
    cand x.genBusy (.generationAdvanceDone b)

/-- The events of the module that may take place between cycles. -/
def State.events (s : State) : List Instr :=
  cand (s.stage == 0) .powerUp ++
    (((List.finRange 64).filter s.canTake).map Instr.launchRecordTake) ++
    (List.finRange 8).flatMap (brickEvents s) ++
    cand s.attBusy .attestationDone ++
    cand s.sealDue .logSeal ++ cand s.hostUp (.powerCap (s.powercap.zeroExtend 64))

/-! ### A cycle -/

/-- A free choice of a sublist. -/
def someOf (n : Nat) : List Instr → List Instr
  | [] => []
  | i :: t => if n % 2 = 1 then i :: someOf (n / 2) t else someOf (n / 2) t

/-- The seats that hold a context. -/
def State.holders (s : State) : List (Fin 8 × Fin 4) := allSeats.filter fun p => s.occupied p.1 p.2

/-- Partitions with kernels. -/
def State.partitions (s : State) : List (Fin 64) :=
  (List.finRange 64).filter fun p => s.kernels.any (·.queue == p)

/-- Sync flits that are due, or fall due in a cycle in which some brick's GBC may pass a multiple of 2^12 (24 R438). -/
def State.syncDue (s : State) : List Instr :=
  if (List.finRange 8).any fun b => decide (4094 ≤ (s.brick b).gbc.toNat % 4096) || !(s.brick b).syncOwed.isEmpty then
    (List.finRange 8).flatMap fun b => (List.finRange 3).map fun d => .syncFlitSend b (Fin.ofNat 12 d.val)
  else []

/-- What falls due on the links of the module in a cycle: the end of a training that has run out (24 R435);
keep-alives of idle links, the arrival of a flit that a quiet link has on its way, the end of a link that has stayed
silent, and that of the wait of DOWN (R437). -/
def State.linkDue (s : State) : List Instr :=
  (List.finRange 8).flatMap fun b => (List.finRange 12).flatMap fun d =>
    let l := s.link b d
    let g := (s.brick b).gbc + 2
    match l.state with
    | .training => cand (decide (2 ^ 22 ≤ (g - l.trainSince).toNat)) (.trainingTimeout b d)
    | .up =>
      cand (decide (2 ^ 10 ≤ (g - l.lastTx).toNat)) (.keepAlive b d) ++
        (if decide (2 ^ 13 ≤ (g - l.lastRx).toNat) && inModule d then
          match (s.link (farOf b d) d).wire with
          | f :: _ => [.flitReceive b d f]
          | [] => []
        else []) ++
        cand (decide (2 ^ 14 ≤ (g - l.lastRx).toNat)) (.keepAliveTimeout b d) ++
        cand (l.downing.any fun g0 => l.unacked.isEmpty || decide (2 ^ 14 ≤ (g - g0).toNat)) (.downWaitExpiry b d)
    | _ => []

/-- The count that a payload carries. -/
def syncOf : Payload → Option Word
  | .sync g => some g
  | _ => none

/-- The count that a flit carries to a brick that takes its time from it. -/
def syncFor (b : Fin 8) (f : Flit) : Option Word := if f.dest.toNat == b.val then syncOf f.payload else none

/-- The flits of a wire up to the last that `p` names. -/
def throughLast (p : Flit → Bool) (l : List Flit) : List Flit := (l.reverse.dropWhile fun f => !p f).reverse

/-- Sync flits that are at their takers in a cycle (24 R438): those that have been on the way over a link for half its
round trip arrive, with what is before them, also at a relay, within 2^10 counts; then the takers act on those whose
time has come, and a brick that has had none for 2^20 counts is lost. -/
def State.timeDue (s : State) : List Instr :=
  let now (b : Fin 8) (g : Word) : Bool := decide (s.flight b ≤ s.syncAge b g + 2) && decide (s.syncAge b g < 2 ^ 63)
  let comes (b : Fin 8) (d : Fin 12) (f : Flit) : Bool :=
    (syncOf f.payload).any fun g =>
      if d.val = srcDim b && f.dest.toNat == b.val then now b g else decide (2 ^ 10 ≤ ((s.brick b).gbc - g).toNat)
  ((List.finRange 8).flatMap fun b => (List.finRange 3).flatMap fun k =>
    let d : Fin 12 := Fin.ofNat 12 k.val
    if (s.link b d).state != .up then []
    else (throughLast (comes b d) (s.link (farOf b d) d).wire).map fun f => .flitReceive b d f) ++
  ((List.finRange 8).flatMap fun b =>
    let d : Fin 12 := Fin.ofNat 12 (srcDim b)
    let far := s.link (farOf b d) d
    if b = 0 then []
    else
      ((s.link b d).rx.filterMap syncOf ++ far.wire.filterMap (syncFor b)).filterMap fun g =>
        if now b g then some (Instr.syncFlitReceive b g) else none) ++
  ((List.finRange 8).filter fun b => decide (2 ^ 20 ≤ ((s.brick b).gbc + 2 - (s.brick b).lastSync).toNat)).map
    Instr.syncLost

/-- Deltas of the telemetry that are due in a cycle (25 R450). -/
def State.deltaDue (s : State) : List Instr :=
  ((List.finRange 8).filter fun b => decide (2 ^ 36 ≤ ((s.brick b).gbc + 2 - (s.brick b).lastDelta).toNat)).map
    Instr.telemetryDelta

/-- What a seat may do in a cycle. -/
def seatTurn (p : Fin 8 × Fin 4) : List Instr :=
  [.taskStart p.1 p.2, .contextResume p.1 p.2, .qIntervalFault p.1 p.2, .bundleEntry p.1 p.2,
    .trailingIdleBeat p.1 p.2]

/-- The first part of a cycle: the counts advance, what is due leaves or comes over links, and completions take effect
(a free choice of them). -/
def State.cycle (s : State) (n : Nat) : List Instr :=
  (List.finRange 8).map Instr.gbcTick ++ s.syncDue ++ s.timeDue ++ s.linkDue ++ s.deltaDue ++
    someOf n (s.holders.flatMap fun p => doneEvents p.1 p.2 (s.ctx p.1 p.2))

/-- The bundle that comes next is a `halt` that acts. -/
def State.atHalt (s : State) (p : Fin 8 × Fin 4) : Bool :=
  (s.ctx p.1 p.2).idleLeft == 0 && (s.ctx p.1 p.2).haltNext

/-- The slots of the bundle that is issuing, one after another, and its beat: the state after them, or after the
first that stops the issue. -/
def State.runBundle (b : Fin 8) (q : Fin 4) : Nat → State → State
  | 0, s => s
  | n + 1, s =>
    let c := s.ctx b q
    match c.phase with
    | .issuing k =>
      match slotInstr c.bundle k with
      | none => State.runBundle b q n (s.setCtx b q { c with phase := nextPhase k })
      | some (.ok i) =>
        match exec i s with
        | .next s1 => State.runBundle b q n s1
        | _ => s
      | some (.error _) => s
    | .beatDue => s.takeBeat b q true
    | _ => s

/-- The state after an instruction that answers a next state. -/
def State.after (s : State) (i : Instr) : State :=
  match exec i s with
  | .next t => t
  | _ => s

/-- The `halt` of a seat completes in the present cycle, be it the first bundle of a task that starts or resumes in
it. -/
def State.haltCompletes (s : State) (p : Fin 8 × Fin 4) : Bool :=
  let s0 := (s.after (.taskStart p.1 p.2)).after (.contextResume p.1 p.2)
  s0.atHalt p && (((s0.after (.bundleEntry p.1 p.2)).runBundle p.1 p.2 9).ctx p.1 p.2).run == .ended

/-- The second part: the seats come to issue, then the stalls, which come before the budgets (01 R53). A `halt` that
completes in the count of a kill ends its task (21 R402), so those that do come first. -/
def State.seatsTurn (s : State) : List Instr :=
  let h := s.holders
  let ends := h.filter s.haltCompletes
  ends.flatMap seatTurn ++ (h.filter fun p => !ends.contains p).flatMap seatTurn ++
    s.partitions.map Instr.stall ++ h.flatMap fun p => [.serviceOverrun p.1 p.2, .freezeBudget p.1 p.2]

/-! ### The next thing -/

/-- An event ends no task: one that kills a kernel comes after the seats' turn, in which a `halt` may complete
(21 R402). -/
def State.endsNone (s : State) (i : Instr) : Bool :=
  match exec i s with
  | .next t => s.holders.all fun p => (t.ctx p.1 p.2).run == (s.ctx p.1 p.2).run
  | _ => false

/-- What may happen in the cycle of a beat that is due: arrivals that phases 2 and 3 of the beat take
(04 R113). -/
def beatEvents (s : State) (b : Fin 8) (q : Fin 4) : List Instr :=
  (landEvents b q (s.ctx b q) ++ (List.finRange 12).flatMap fun d => payloadEvents b d (s.link b d).rx).filter
    s.endsNone

/-- The step of a bundle that is issuing. -/
def State.schedIssue (s : State) (b : Fin 8) (q : Fin 4) : Sched :=
  let c := s.ctx b q
  match c.phase with
  | .issuing k =>
    match slotInstr c.bundle k with
    | none => .quiet (s.setCtx b q { c with phase := nextPhase k })
    | some (.ok i) => .run i s
    | some (.error cause) => .quiet (s.slotTrap b q k.val 0x01 cause (wd (slotOf c.bundle k.val)))
  | .beatDue =>
    let l := beatEvents s b q
    let s1 := { s with freeCtr := s.freeCtr + 1 }
    match pick (Config.choice s.freeCtr) l.length with
    | some i => .run (l.getD i (.contextBeat b q)) s1
    | none => .run (.contextBeat b q) s1
  | _ => .quiet { s with cur := none }

/-- The step that runs the agenda. Before a trailing-idle beat that is taken, arrivals that belong to it may come
(04 R113, R114). -/
def State.schedAgenda (s : State) (i : Instr) (t : List Instr) : Sched :=
  match i with
  | .trailingIdleBeat b q =>
    if s.idleDue b q then
      let l := beatEvents s b q
      let s1 := { s with freeCtr := s.freeCtr + 1 }
      match pick (Config.choice s.freeCtr) l.length with
      | some n => .run (l.getD n i) s1
      | none => .run i { s1 with agenda := t }
    else .run i { s with agenda := t }
  | i => .run i { s with agenda := t }

/-- The step between bundles. -/
def State.schedFree (s : State) : Sched :=
  match s.agenda with
  | i :: t => s.schedAgenda i t
  | [] =>
    if s.turns then .quiet { s with turns := false, agenda := s.seatsTurn }
    else
      let l := s.events
      let s1 := { s with freeCtr := s.freeCtr + 2 }
      let next (t : List (Option Instr)) : Sched :=
        .quiet { s1 with inbox := t, turns := true, agenda := s.cycle (Config.choice (s.freeCtr + 1)) }
      match pick (Config.choice s.freeCtr) l.length with
      | some i => .run (l.getD i (.gbcTick 0)) s1
      | none =>
        match s.inbox with
        | some i :: t => .run i { s1 with inbox := t }
        | _ :: t => next t
        | [] => next []

/-- The step of a module without power: events of the outside alone (25 R445). -/
def State.schedOff (s : State) : Sched :=
  match s.inbox with
  | some i :: t => .run i { s with inbox := t }
  | none :: t => .quiet { s with inbox := t }
  | [] => .stop

/-- What comes next. -/
def State.sched (s : State) : Sched :=
  if s.power = .off then s.schedOff
  else match s.cur with
    | some cu => s.schedIssue cu.brick cu.seat
    | none => s.schedFree

/-- What a step does with its schedule. -/
def runSched (x : Sched) : Host.Outcome State Fault Refusal :=
  match x with
  | .run i s => exec i s
  | .quiet s => .next s
  | .stop => .fault .noEvent

/-- The bytes of a bundle that holds one slot alone. -/
def loneBundle (k : Fin 8) (w : Nat) : List Byte := toBytes 48 (w % 2 ^ 44 * 2 ^ (32 + 44 * k.val))

/-- Seat 0 of brick 0 issues slot `k` of a bundle that holds the word `w` there and nothing else. -/
def State.placeWord (s : State) (k : Fin 8) (w : Nat) : State :=
  let c := s.ctx 0 0
  { s.setCtx 0 0 { c with
      run := .running, phase := .issuing k, halting := false
      imem := setBytes c.imem c.pc (loneBundle k w) } with
    power := .on, cur := some ⟨0, 0⟩ }

end Sys2Proof.Machine
end

