-- ==== Sys2Proof/Machine/Step.lean ====
section
/-! DEFINITION. One step of the module, and a state whose next step runs a given word. -/

namespace Sys2Proof.Machine

/-- One step: what comes next, by `State.sched`. -/
def step (s : State) : Host.Outcome State Fault Refusal := runSched s.sched

/-- The state with a slot word placed where the next step takes its instruction: seat 0 of brick 0, in the
lowest slot that lists the word's opcode (assumption 3). -/
def State.withFetchWord (s : State) (_nbits w : Nat) : State :=
  s.placeWord ((slotOfOpcode (fld w 34 10)).getD 0) w

end Sys2Proof.Machine
end

