-- ==== Sys2Proof/Machine/Registers.lean ====
section
/-! DEFINITION. What a read of a steward or host register gives: every field in its place, reserved and write-only
fields 0 (00 R7, 21 R388-R398, 22 R403, R413-R415, 23 R421, R425, R427, R429, 24 R434, R438, R439, 25 R443, R446,
R451). No instruction reads them: they are how firmware and the host see the state, and a read changes nothing. -/

namespace Sys2Proof.Machine

/-- The readable registers of a brick's steward and of the host port that are more than one plain field. -/
inductive ReadReg where
  | qcfg (q : Fin 64)
  | qlbase (q : Fin 64)
  | qcbase (q : Fin 64)
  | qtail (q : Fin 64)
  | qhead (q : Fin 64)
  | ctail (q : Fin 64)
  | chead (q : Fin 64)
  | qstat (q : Fin 64)
  | alloc (q : Fin 64)
  | winbase
  | seattab (b : Fin 8) (j : Fin 4)
  | seatstat (b : Fin 8)
  | startst (b : Fin 8) (q : Fin 4)
  | preempt (b : Fin 8) (q : Fin 4)
  | ctxctl (b : Fin 8) (q : Fin 4)
  | ctxst (b : Fin 8) (q : Fin 4)
  | tlbinv (b : Fin 8)
  | tlbcnt (b : Fin 8)
  | tlbst (b : Fin 8)
  | genadv (b : Fin 8)
  | genst (b : Fin 8)
  | scrubst (b : Fin 8)
  | bootst
  | mrext (b : Fin 8) (j : Fin 6)
  | attst
  | logtype (b : Fin 8)
  | logpay (b : Fin 8) (j : Fin 12)
  | logast (b : Fin 8)
  | logst
  | logpage
  | logack
  | lnkst (b : Fin 8) (d : Fin 12)
  | lnkerr (b : Fin 8) (d : Fin 12)
  | detctl (b : Fin 8) (d : Fin 12)
  | gsync (b : Fin 8)
  | rly (b : Fin 8) (j : Fin 16)
  | pwrcap
  | telsel
  | telst
  | telwin (i : Fin 512)
  -- registers that are written only
  | seatapply (b : Fin 8)
  | start (b : Fin 8) (q : Fin 4)
  | tlbgo (b : Fin 8)
  | mrgo (b : Fin 8)
  | loggo (b : Fin 8)
  | lnkctl (b : Fin 8) (d : Fin 12)
  | sealreq
  | telclr
  | pwrctl
  deriving DecidableEq, Repr

/-- A one-bit field at bit `i`. -/
def flag (p : Bool) (i : Nat) : Nat := if p then 2 ^ i else 0

/-- A mask of the quarters in a state, from bit `lo` up. -/
def Brick.quarterMask (x : Brick) (k : Quarter) (lo : Nat) : Nat :=
  (List.finRange 4).foldl (fun a i => a + flag (x.quarters.get i == k) (lo + i.val)) 0

/-- LNKST.STATE (24 R434). -/
def LinkState.code : LinkState → Nat
  | .absent => 0 | .down => 1 | .training => 2 | .up => 3 | .failed => 4 | .detour => 5

/-- LNKST.TIER of a dimension (24 R433). -/
def tierOf (d : Fin 12) : Nat := if d.val < 3 then 0 else if d.val < 6 then 1 else 2

/-- CTXST.STOPPED: stopped before a Q bundle, a save that drains there among it (22 R403). -/
def Run.isStopped : Run → Bool
  | .stopped => true
  | .saving _ _ none => true
  | _ => false

/-- CTXST.INTRAP: frozen in trap service, a save that drains there or has ended among it (22 R403, R404). -/
def Run.inTrap : Run → Bool
  | .service _ => true
  | .saved _ => true
  | .saving _ _ (some _) => true
  | _ => false

/-- A read of a queue's registers (21 R389, R390, 25 R443). -/
def Queue.read (u : Queue) (r : ReadReg) : Nat :=
  match r with
  | .qcfg _ => u.log2n.toNat + flag u.en 4 + flag u.ien 5 + u.asid.toNat * 2 ^ 16
  | .qlbase _ => u.lbase.toNat
  | .qcbase _ => u.cbase.toNat
  | .qtail _ => u.tail.toNat
  | .qhead _ => u.headIx.toNat
  | .ctail _ => u.ctail.toNat
  | .chead _ => u.chead.toNat
  | .qstat _ => flag u.badTail 0 + flag u.badChead 1 + flag u.waiting 2 + flag u.en 3
  | _ => u.alloc.toNat

/-- A read of a seat's registers (21 R398, 22 R403). -/
def Seat.read (x : Seat) (r : ReadReg) : Nat :=
  match r with
  | .startst _ _ => flag x.armedReg 0 + flag x.runReg 1 + x.cause.toNat * 2 ^ 4
  | .preempt _ _ => x.preTarget.toNat + flag x.preEn 32
  | .ctxctl _ _ => x.area.toNat
  | _ => flag x.busy 0 + flag x.done 1 + x.err.toNat * 2 ^ 2 + flag x.ctx.run.isStopped 6 +
      flag x.ctx.run.inTrap 7

/-- A read of a link's registers (24 R434). -/
def Link.read (l : Link) (d : Fin 12) (r : ReadReg) : Nat :=
  match r with
  | .lnkst _ _ => l.state.code + tierOf d * 2 ^ 6 + l.why.toNat * 2 ^ 8 + l.peer.toNat * 2 ^ 12
  | .lnkerr _ _ => l.crcErr.toNat + l.replays.toNat * 2 ^ 32
  | _ => l.relayDim.toNat + flag l.active 6

/-- A read of a brick's own registers (21 R396, 22 R413-R415, 23 R421, R427, 24 R438, R439). -/
def Brick.read (x : Brick) (b : Fin 8) (r : ReadReg) : Nat :=
  match r with
  | .seattab _ j => nbits x.staged.toNat (64 * j.val) 64
  | .seatstat _ => flag x.seatBad 0 + x.seatWhy.toNat * 2
  | .tlbinv _ => x.tlbinv.toNat
  | .tlbcnt _ => x.tlbcnt.toNat
  | .tlbst _ => flag x.tlbDone 0
  | .genadv _ => x.genadvAsid.toNat
  | .genst _ => flag x.genDone 0 + x.genOut.toNat * 2 ^ 16
  | .scrubst _ => x.quarterMask .clean 0 + x.quarterMask .busy 4 + x.quarterMask .failed 8
  | .mrext _ j => (x.mrext.get j).toNat
  | .logtype _ => x.logtype.toNat
  | .logpay _ j => (x.logpay.get j).toNat
  | .logast _ => flag x.logDone 0 + flag x.logRefused 1
  | .gsync _ => srcDim b + flag x.lock 4 + flag x.lost 5 + x.offset.toNat * 2 ^ 6
  | .rly _ j => (x.rly.get j).dest.toNat + (x.rly.get j).out.toNat * 2 ^ 12 + flag (x.rly.get j).en 16
  | _ => 0

/-- Registers that the host reads through BAR0. -/
def ReadReg.host : ReadReg → Bool
  | .qcfg _ | .qlbase _ | .qcbase _ | .qtail _ | .qhead _ | .ctail _ | .chead _ | .qstat _ | .alloc _ | .winbase
  | .attst | .logst | .logpage | .logack | .pwrcap | .telsel | .telst | .telwin _ => true
  | _ => false

/-- A read of a register. After a failed boot the host's registers read 0 but BOOTST (23 R421); a register that is
written only reads 0 (00 R7). -/
def State.readReg (s : State) (r : ReadReg) : Word :=
  if r.host && !s.hostUp then 0 else
  wd (match r with
    | .qcfg q | .qlbase q | .qcbase q | .qtail q | .qhead q | .ctail q | .chead q | .qstat q | .alloc q =>
      (s.queue q).read r
    | .startst b q | .preempt b q | .ctxctl b q | .ctxst b q => (s.seat b q).read r
    | .lnkst b d | .lnkerr b d | .detctl b d => (s.link b d).read d r
    | .seattab b _ | .seatstat b | .tlbinv b | .tlbcnt b | .tlbst b | .genadv b | .genst b | .scrubst b
    | .mrext b _ | .logtype b | .logpay b _ | .logast b | .gsync b | .rly b _ => (s.brick b).read b r
    | .winbase => s.winbase.toNat
    | .bootst => s.bootst.toNat
    | .attst => flag s.attDone 0
    | .logst => s.unack % 2 ^ 32 + flag s.logFull 32 + flag s.logHold 33
    | .logpage => s.logPage.toNat
    | .logack => s.logAck.toNat
    | .pwrcap => s.powercap.toNat
    | .telsel => s.telSel.toNat
    | .telst => flag s.telReady 0 + flag s.telBad 1
    | .telwin i => s.telWin.getD i.val 0
    | .seatapply _ | .start _ _ | .tlbgo _ | .mrgo _ | .loggo _ | .lnkctl _ _ | .sealreq | .telclr | .pwrctl => 0)

/-- Entry `n` of the audit log while the ring of 65,536 holds it; zeros before it is appended and once another has taken
its place (23 R426). -/
def State.logAt (s : State) (n : Nat) : List Byte :=
  if n < s.logNext && s.logNext ≤ n + 65536 then s.log.getD (n % 65536) (List.replicate 128 0)
  else List.replicate 128 0

/-- The audit-log page window: the 512 entries from LOGPAGE on (23 R427). -/
def State.pageWindow (s : State) : List Byte := (List.range 512).flatMap fun i => s.logAt (s.logPage.toNat + i)

/-- Seal-table record `r`, 3,429 bytes; zeros where no seal has been made (23 R429). -/
def State.sealPage (s : State) (r : Fin 64) : List Byte :=
  match s.seals.find? fun e => e.1 == r.val with
  | some (_, z) => le 8 z.seq ++ mrBytes z.hash ++ z.sig
  | none => List.replicate 3429 0

/-- Byte `i` of the page of the identity and alias certificates, whose format the spec does not give: the identity
certificate in the lower half, the alias certificate in the upper (23 R424, assumption 5). -/
def State.certByte (s : State) (i : Nat) : Byte :=
  if i < 2048 then Config.identityByte i else Config.aliasByte (s.mr.get 0) (i - 2048)

/-- Eight bytes of a page at offset `o`, zeros past its end. -/
def pageWord (l : List Byte) (o : Nat) : Word := wd (fieldAt l o 8)

/-- What a host read of 8 bytes at an offset of BAR0 gives (21 R388-R390, 23 R421-R429, 25 R443, R451); the registers
of an interface stand one after another in the order of their table (assumption 35). Every other offset reads 0. Link
status, to which the spec gives no register of the host, has no offset (DESIGN CHOICE, assumption 35). -/
def State.readBar0 (s : State) (o : Nat) : Word :=
  if o = 0x1000 then s.readReg .bootst
  else if !s.hostUp then 0
  else if 0x800 ≤ o && o < 0xA00 && o % 8 == 0 then s.readReg (.alloc (Fin.ofNat 64 ((o - 0x800) / 8)))
  else if o = 0x2000 then s.readReg .logst
  else if o = 0x2008 then s.readReg .logpage
  else if o = 0x2010 then s.readReg .logack
  else if 0x3000 ≤ o && o < 0x4000 then pageWord ((List.range 4096).map s.certByte) (o - 0x3000)
  else if 0x4000 ≤ o && o < 0x5000 then pageWord s.attReport (o - 0x4000)
  else if o = 0x5000 then s.readReg .telsel
  else if o = 0x5008 then s.readReg .telst
  else if 0x6000 ≤ o && o < 0x7000 && o % 8 == 0 then s.readReg (.telwin (Fin.ofNat 512 ((o - 0x6000) / 8)))
  else if 0x8000 ≤ o && o < 0x9000 then
    let q := Fin.ofNat 64 ((o - 0x8000) / 64)
    if o % 64 = 0 then s.readReg (.qcfg q)
    else if o % 64 = 8 then s.readReg (.qlbase q)
    else if o % 64 = 0x10 then s.readReg (.qcbase q)
    else 0
  else if 0x10000 ≤ o && o < 0x50000 then
    let q := Fin.ofNat 64 ((o - 0x10000) / 0x1000)
    if o % 0x1000 = 0 then s.readReg (.qtail q)
    else if o % 0x1000 = 8 then s.readReg (.qhead q)
    else if o % 0x1000 = 0x10 then s.readReg (.ctail q)
    else if o % 0x1000 = 0x18 then s.readReg (.chead q)
    else if o % 0x1000 = 0x20 then s.readReg (.qstat q)
    else 0
  else if 0x80000 ≤ o && o < 0x90000 then pageWord s.pageWindow (o - 0x80000)
  else if 0xA0000 ≤ o && o < 0xE0000 then
    pageWord (s.sealPage (Fin.ofNat 64 ((o - 0xA0000) / 0x1000))) (o % 0x1000)
  else 0

end Sys2Proof.Machine
end

