-- ==== Sys2Proof/Safety.lean ====
section
/-! DEFINITION. The terms in which the claims speak: a slot that issues, what an issued slot leaves, which
instructions a guard turns off, and the invariants of the module. -/

namespace Sys2Proof.Machine

/-! ### A slot that issues -/

/-- Seat (b, q) issues slot `k` of its bundle: the cursor of the step stands on it. -/
structure State.Issues (s : State) (b : Fin 8) (q : Fin 4) (k : Fin 8) : Prop where
  cur : s.cur = some ⟨b, q⟩
  phase : (s.ctx b q).phase = .issuing k

/-- An operation that holds a landing-set entry through beat `last` may issue: it does not outlive a task whose
`halt` stands in its bundle (01 R43), and at most 96 entries are held (05 R139). With `last` the issue beat, the
same for an operation that holds none. -/
structure Context.Fits (c : Context) (last : Nat) : Prop where
  ends : c.halting = true → last ≤ c.cbc
  room : c.heldAt c.cbc + (if c.cbc < last then 1 else 0) ≤ 96

/-- The state once slot `k` has issued with the context `c` that its operation leaves. -/
def State.issued (s : State) (b : Fin 8) (q : Fin 4) (k : Fin 8) (c : Context) : State :=
  s.setCtx b q { c with phase := nextPhase k }

/-- Slot `k` of seat (b, q) issues, the guard `g` is on, and an entry held for `n` beats after the issue beat is
admitted: what an instruction that acts as a whole needs to issue. -/
structure State.Ready (s : State) (b : Fin 8) (q : Fin 4) (k : Fin 8) (g : Fin 16) (n : Nat) : Prop where
  issues : s.Issues b q k
  guardOn : (s.ctx b q).view.guard g = true
  fits : (s.ctx b q).Fits ((s.ctx b q).cbc + n)

/-- Slot `k` of seat (b, q) issues, `m` is the guard's lanes, at least one of them set, and an entry held for `n`
beats after the issue beat is admitted: what an instruction that acts by lanes needs to issue. -/
structure State.ReadyLanes (s : State) (b : Fin 8) (q : Fin 4) (k : Fin 8) (g : Fin 16) (m : PReg) (n : Nat) :
    Prop where
  issues : s.Issues b q k
  lanes : (s.ctx b q).view.pr g = m
  some : m ≠ 0
  fits : (s.ctx b q).Fits ((s.ctx b q).cbc + n)

/-- A vector register as an operand of the bundle that seat (b, q) issues (02 R58, R61). -/
def State.vin (s : State) (b : Fin 8) (q : Fin 4) (r : Fin 64) : VReg := (s.ctx b q).view.vr r

/-- The state once slot `k` has issued an operation whose lanes `f`, those of `m`, land in V[d] `n` beats on. -/
def State.givingLanes (s : State) (b : Fin 8) (q : Fin 4) (k : Fin 8) (m : PReg) (d : Fin 64) (n : Nat)
    (f : Nat → BitVec 32) : State :=
  s.issued b q k ((s.ctx b q).vresult k.val m d n f)

/-- Every active lane of an access of `w` bytes a lane lies in the share (09 R211, R215). -/
def Context.LanesInShare (c : Context) (m : PReg) (la : LaneAddrs) (w : Nat) : Prop :=
  ∀ i, i < 512 → act m i = true → la.at w i + w ≤ c.spadShare

/-- Lane `i` is the lowest active lane that passes the share. -/
def Context.FirstBeyond (c : Context) (m : PReg) (la : LaneAddrs) (w i : Nat) : Prop :=
  i < 512 ∧ act m i = true ∧ c.spadShare < la.at w i + w ∧
    ∀ j, j < i → act m j = true → la.at w j + w ≤ c.spadShare

/-- What the active lanes of an access cover of enabled regions, lane by lane and within a lane by address: each
element with its lane and the lane's address (09 R218, R219). -/
def Context.laneElems (c : Context) (m : PReg) (la : LaneAddrs) (w : Nat) : List (Nat × Nat × Elem) :=
  (activeLanes m).flatMap fun i => (c.covered (la.at w i) w).map fun e => (i, la.at w i, e)

/-- `t` is the one effect that is due at the present beat, and no arrival belongs to it: what a statement on a single
effect assumes. The memories that a beat writes are in their canonical form. -/
structure Context.Alone (c : Context) (t : Timed) : Prop where
  due : c.timed.filter (fun u => u.due == c.cbc) = [t]
  noGranule : c.phase2 = []
  noAtomic : c.phase3 = []
  spad : Memory.wf c.spad = true
  banks : mapWf 0 c.banks = true
  tables : mapWf Table.zero c.tables = true

/-- What is scheduled for other beats than the present one. -/
def Context.others (c : Context) : List Timed := c.timed.filter fun u => u.due != c.cbc

/-- The context holds `n` banks from `first`, all in its share (10 R233). -/
def Context.HoldsBanks (c : Context) (first n : Nat) : Prop :=
  first + n ≤ c.bankShare ∧ ∀ i, i < n → c.holds (first + i) = true

/-- The first of a rule's checks that acts, in the order of their list: its code, cause and TINFO. -/
def firstCheck (l : List (Bool × Nat × Nat × Nat)) : Option (Nat × Nat × Nat) := (l.find? (·.1)).map (·.2)

/-- Slot `k` raises what the first of the checks `l` that acts names. -/
def State.StopsAt (s : State) (b : Fin 8) (q : Fin 4) (k : Fin 8) (l : List (Bool × Nat × Nat × Nat)) (i : Instr) :
    Prop :=
  ∀ f, firstCheck l = some f → exec i s = .next (s.slotTrap b q k.val f.1 f.2.1 (BitVec.ofNat 64 f.2.2))

/-- The checks of banks `first` to `first + n - 1`: the share, then that each is held (10 R233). -/
def Context.bankChecks (c : Context) (first n : Nat) : List (Bool × Nat × Nat × Nat) :=
  (decide (c.bankShare < first + n), 0x04, 0, max first c.bankShare) ::
    (List.range n).map fun i => (!c.holds (first + i), 0x08, 0, first + i)

/-- The check of tables `first` to `first + n - 1` against the share (11 R255). -/
def Context.tableCheck (c : Context) (first n : Nat) : Bool × Nat × Nat × Nat :=
  (decide (n ≠ 0 ∧ c.tableShare < first + n), 0x04, 0, max first c.tableShare)

/-- The mode check of streams that an engine reads: in reverse mode none without RAW may touch an enabled region
(10 R234, 11 R270). -/
def Context.readCheck (c : Context) (l : List Strm) : Bool × Nat × Nat × Nat :=
  let hit := c.streamRegion (l.flatMap fun d => if d.raw || d.global then [] else d.spans)
  (c.dmode == .rev && hit.isSome, 0x0C, 2, hit.getD 0)

/-- The mode checks of spans that an engine writes while DMODE is not off: a region, without RAW, then the tape window
(10 R234, 11 R270). -/
def Context.writeChecks (c : Context) (raw : Bool) (l : List (Nat × Nat)) : List (Bool × Nat × Nat × Nat) :=
  [(c.dmode != .off && !raw && (c.streamRegion l).isSome, 0x0C, 2, (c.streamRegion l).getD 0),
    (c.dmode != .off && (c.spanWindow l).isSome, 0x0C, 1, (c.spanWindow l).getD 0)]

/-- A pop of the scale queue that finds it empty and no `cpsq` outstanding (10 R237). -/
def Context.popCheck (c : Context) (pops : Bool) : Bool × Nat × Nat × Nat :=
  (pops && c.sq.isEmpty && !c.sqPending, 0x0B, 0, 0)

/-- What a command that pops the scale queue, if `pops`, takes from it: the oldest entry `e`, which leaves the queue of
the context that it leaves (10 R237). -/
def Context.Pops (c : Context) (pops : Bool) (e : BitVec 2048) (c' : Context) : Prop :=
  (pops = false ∧ e = 0 ∧ c' = c) ∨ (pops = true ∧ ∃ rest, c.sq = e :: rest ∧ c' = { c with sq := rest })

/-- The checks of `mxmm` on streams `p` and `r`, registers `sa` and `sb`, into banks from `first`, in the order of 10
R233: armed (cause 0x10), types (0x11), lengths (0x12), lines (0x13), staging (0x16), the banks, the mode, the pop. -/
def Context.mxmmChecks (c : Context) (p r : Strm) (sa sb first : Nat) (int : Bool) : List (Bool × Nat × Nat × Nat) :=
  let low := min sa sb
  let kb := (kbeat p r).getD 1
  [(!p.armed && !r.armed, 0x06, 0x10, low), (!p.armed, 0x06, 0x10, sa), (!r.armed, 0x06, 0x10, sb),
    (decide (kbeat p r = none ∨ (int = true ∧ ¬(p.isMx = true ∧ r.isMx = true))), 0x06, 0x11, low),
    (decide (p.len ≠ r.len), 0x06, 0x12, low), (decide (64 < p.lines), 0x06, 0x13, sa),
    (decide (32 < r.lines), 0x06, 0x13, sb), (p.stageShort kb, 0x06, 0x16, sa), (r.stageShort kb, 0x06, 0x16, sb)] ++
  c.bankChecks first ((p.lines + 15) / 16) ++ [c.readCheck [p, r], c.popCheck (decide (p.scsrc = 2 ∨ r.scsrc = 2))]

/-- The checks of `acvt` from banks `first` on into stream `d`, register `n`: armed, in the scratchpad (cause 0x14),
positions and scales (0x15), the banks, the mode, the pop (10 R227, R233, R234, R237). -/
def Context.acvtChecks (c : Context) (d : Strm) (n first : Nat) (sc : AcvtScale) : List (Bool × Nat × Nat × Nat) :=
  let rowMax := if d.tr then 32 else 64
  let colMax := if d.tr then 64 else 32
  [(!d.armed, 0x06, 0x10, n), (d.global, 0x06, 0x14, n), (decide (rowMax < d.rows ∨ colMax < d.cols), 0x06, 0x15, n),
    (decide ((d.isMx = true ∧ d.scsrc ≠ 1) ∨ (sc = .derive ∧ d.isMx = false)), 0x06, 0x15, n)] ++
  c.bankChecks first (((if d.tr then d.cols else d.rows) + 15) / 16) ++ c.writeChecks d.raw d.destSpans ++
  [c.popCheck (decide (sc = .sq))]

/-- The stream checks of a table command: armed (cause 0x10), and the kind that the command takes (11 R254, R256). -/
def kindChecks (d : Strm) (n cause : Nat) (ok : Bool) : List (Bool × Nat × Nat × Nat) :=
  [(!d.armed, 0x06, 0x10, n), (!ok, 0x06, cause, n)]

/-- The checks of `ltbuild` on stream `d`, register `n`, from table `t0` (11 R255, R256, R270). -/
def Context.buildChecks (c : Context) (d : Strm) (n t0 : Nat) : List (Bool × Nat × Nat × Nat) :=
  kindChecks d n 0x17 d.isActivation ++ [c.tableCheck t0 (d.lines * d.groups), c.readCheck [d]]

/-- The checks of `ltspill` (11 R255, R256, R267, R270). -/
def Context.spillChecks (c : Context) (d : Strm) (n t0 : Nat) : List (Bool × Nat × Nat × Nat) :=
  kindChecks d n 0x1A d.isRecords ++ c.tableCheck t0 d.lines :: c.writeChecks d.raw d.spans

/-- The checks of `ltfill` (11 R255, R256, R268, R270). -/
def Context.fillChecks (c : Context) (d : Strm) (n t0 : Nat) : List (Bool × Nat × Nat × Nat) :=
  kindChecks d n 0x1A d.isRecords ++ [c.tableCheck t0 d.lines, c.readCheck [d]]

/-- The checks of `ltlook` on weights `dw` and activations `dt`, registers `wn` and `tn`, with X[A] = x, `bits` bits a
weight and its scales from the queue where `sq` (11 R256, R259, R270, 10 R237). -/
def Context.lookChecks (c : Context) (dw dt : Strm) (wn tn x bits : Nat) (int sq : Bool) :
    List (Bool × Nat × Nat × Nat) :=
  let low := min wn tn
  let bank := x % 2 ^ 13
  let t0 := x / 2 ^ 32 % 2 ^ 13
  let nblk := (dt.len + 31) / 32
  let banks := c.bankChecks bank ((dt.lines + 15) / 16)
  [(!dw.armed && !dt.armed, 0x06, 0x10, low), (!dw.armed, 0x06, 0x10, wn), (!dt.armed, 0x06, 0x10, tn),
    (!dt.isActivation, 0x06, 0x17, tn),
    (decide (dw.global = true ∨ dw.layout ≠ 0 ∨ dw.fmt ≠ 4 ∨ dw.tr = true ∨ dw.scsrc ≠ 0 ∨ 32 < dw.lines ∨
      dw.len ≠ 4 * bits * nblk), 0x06, 0x18, wn),
    (decide (int = false ∧ (if sq then 256 else 8192) < dw.lines * nblk), 0x06, 0x19, wn),
    (decide (x ≠ bank + t0 * 2 ^ 32), 0x04, 0, x)] ++
  banks.take 1 ++ [c.tableCheck t0 (dt.lines * dt.groups)] ++ banks.drop 1 ++ [c.readCheck [dw, dt], c.popCheck sq]

/-- The context once an operation names a token that is not outstanding: an error never consumed enters the report
(13 R289). -/
def Context.named (c : Context) (t : Fin 32) : Context :=
  match c.tok.get t with
  | .error _ => { c with unconsumed := c.unconsumed ||| BitVec.ofNat 32 (2 ^ t.val) }
  | _ => c

/-- Seat (b, q) may issue a slot-7 operation that names token `t` and waits out `defer` beats: no `halt` issues, and
the token is not outstanding (13 R289, R290). -/
structure State.ReadyOp (s : State) (b : Fin 8) (q : Fin 4) (k : Fin 8) (g : Fin 16) (t : Fin 32) (defer : Nat) :
    Prop where
  ready : s.Ready b q k g (defer - 1)
  going : (s.ctx b q).halting = false
  token : (s.ctx b q).tok.get t ≠ .outstanding

/-- The context once an operation has issued: its token is outstanding, it is the last of the operations in flight,
and while its defer runs it is a landing-set entry (13 R289, R292). -/
def Context.started (c : Context) (o : Op) (defer : Nat) : Context :=
  { c with
    tok := c.tok.set o.token.val .outstanding
    ops := c.ops ++ [o]
    nextId := c.nextId + 1
    lset := if defer = 0 then c.lset
      else ⟨c.cbc, 7, c.cbc + defer - 1, some c.nextId⟩ :: c.lset }

/-- The same of a fence or an exchange, which starts in its own beat: its entry ends with that beat (18 R344). -/
def Context.startedNow (c : Context) (o : Op) : Context :=
  { c with
    tok := c.tok.set o.token.val .outstanding
    ops := c.ops ++ [o]
    nextId := c.nextId + 1
    lset := ⟨c.cbc, 7, c.cbc, none⟩ :: c.lset }

/-- The context once an operation has completed good at its issue. -/
def Context.doneNow (c : Context) (t : Fin 32) : Context :=
  { c with tok := c.tok.set t.val .good, lset := ⟨c.cbc, 7, c.cbc, none⟩ :: c.lset }

/-- A span of scratchpad in the share and aligned (13 R293). -/
def Context.SpanOk (c : Context) (a n align : Nat) : Prop := a + n ≤ c.spadShare ∧ a % align = 0

/-- A stream register as an operand of the bundle that seat (b, q) issues, by its fields (10 R223). -/
def State.sin (s : State) (b : Fin 8) (q : Fin 4) (n : Fin 16) : Strm := strm ((s.ctx b q).view.s.get n)

/-- A scalar register as an operand of the bundle that seat (b, q) issues (02 R58). -/
def State.xin (s : State) (b : Fin 8) (q : Fin 4) (r : Fin 32) : Word := (s.ctx b q).view.xr r

/-- The state once slot `k` has issued an operation whose result `v` lands in X[d] `n` beats on. -/
def State.giving (s : State) (b : Fin 8) (q : Fin 4) (k : Fin 8) (d : Fin 32) (n : Nat) (v : Word) : State :=
  s.issued b q k ((s.ctx b q).result k.val d n v)

/-- What `cmp` compares, by its keyword (08 R190). -/
def cmpHolds (c : Cond) (x y : Word) : Bool :=
  match c with
  | .eq => decide (x.toNat = y.toNat)
  | .ne => decide (x.toNat ≠ y.toNat)
  | .lt => decide (x.toInt < y.toInt)
  | .le => decide (x.toInt ≤ y.toInt)
  | .gt => decide (x.toInt > y.toInt)
  | .ge => decide (x.toInt ≥ y.toInt)
  | .ltu => decide (x.toNat < y.toNat)
  | .leu => decide (x.toNat ≤ y.toNat)
  | .gtu => decide (x.toNat > y.toNat)
  | .geu => decide (x.toNat ≥ y.toNat)

/-- The registers and storage of a context that an issuing slot leaves alone: what it changes of them lands or
performs at a beat (02 R58, 04 R112). Tokens, bank allocation, operations in flight and the marks of branch, pin
and halt are the issue's own. -/
structure Context.SameStorage (c c' : Context) : Prop where
  place : (c'.crd, c'.scmask, c'.dimmap, c'.seatf, c'.asgen, c'.gbcs, c'.cbc, c'.slipOffset, c'.fbud, c'.qcnt) =
    (c.crd, c.scmask, c.dimmap, c.seatf, c.asgen, c.gbcs, c.cbc, c.slipOffset, c.fbud, c.qcnt)
  files : (c'.x, c'.v, c'.p, c'.s, c'.rrb, c'.lc, c'.wcol) = (c.x, c.v, c.p, c.s, c.rrb, c.lc, c.wcol)
  counters : (c'.count, c'.amax, c'.limit, c'.scst) = (c.count, c.amax, c.limit, c.scst)
  adjoint : (c'.ag, c'.dmode, c'.tapeb, c'.tapel, c'.tapec, c'.tapes, c'.tapesa, c'.sp) =
    (c.ag, c.dmode, c.tapeb, c.tapel, c.tapec, c.tapes, c.tapesa, c.sp)
  traps : (c'.srw, c'.tstat, c'.taddr, c'.tbeat, c'.tinfo, c'.tibeat, c'.pending) =
    (c.srw, c.tstat, c.taddr, c.tbeat, c.tinfo, c.tibeat, c.pending)
  storage : (c'.spad, c'.imem, c'.tags, c'.tables, c'.pendTables, c'.banks) =
    (c.spad, c.imem, c.tags, c.tables, c.pendTables, c.banks)
  flow : (c'.run, c'.pc, c'.redir0, c'.redir1) = (c.run, c.pc, c.redir0, c.redir1)

/-- The guard of an instruction that acts as a whole, by bit 0 of its guard (07 R168). -/
def wholeGuard : Instr → Option (Fin 16)
  | .br g _ | .brl g _ _ | .ret g _ | .rft g | .brloop g _ | .loopb g _ | .tchk g _ _ | .kwait g _ | .halt g
  | .trap g _ | .csrr g _ _ | .dreg g _ _ | .dmode g _ | .tmark g _ => some g
  | .add g _ _ _ | .addImm g _ _ _ | .sub g _ _ _ | .mul g _ _ _ | .mulh g _ _ _ _ | .and g _ _ _
  | .andImm g _ _ _ | .or g _ _ _ | .orImm g _ _ _ | .xor g _ _ _ | .xorImm g _ _ _ | .shl g _ _ _
  | .shlImm g _ _ _ | .shr g _ _ _ | .shrImm g _ _ _ | .sar g _ _ _ | .sarImm g _ _ _ | .min g _ _ _ _
  | .max g _ _ _ _ | .sel g _ _ _ _ | .cmp g _ _ _ _ | .li g _ _ | .lih g _ _ | .clz g _ _ | .popc g _ _
  | .lds g _ _ _ _ | .sts g _ _ _ _ => some g
  | .sarm g _ _ _ | .mxmm g _ _ _ _ _ _ _ | .acq g _ _ | .arls g _ | .azero g _ | .ard g _ _ _
  | .acvt g _ _ _ _ _ _ _ | .ltbuild g _ _ _ | .ltlook g _ _ _ _ _ _ _ _ _ | .ltinv g _ _
  | .ltspill g _ _ _ | .ltfill g _ _ _ | .ltstat g _ _ => some g
  | .cpld g _ _ _ _ _ | .cpst g _ _ _ _ _ | .cpfill g _ _ _ _ _ | .cpga g _ _ _ _ _ | .cpsc g _ _ _ _ _
  | .cpsq g _ _ _ _ _ | .cpat g _ _ _ _ _ | .fenci g _ _ | .fencw g _ | .xch g _ _ _ _ | .xcc g _ _ _ _ _
  | .xsib g _ _ _ _ _ | .xgs g _ _ _ _ | .xbar g _ _ | .xat g _ _ _ _ _ => some g
  | _ => none

/-- The guard of an instruction whose lanes each follow their own bit (07 R168, 09 R199). -/
def laneGuard : Instr → Option (Fin 16)
  | .vld g _ _ _ _ | .vldt g _ _ _ _ _ | .vst g _ _ _ _ | .vatom g _ _ _ _ _ _ | .vgath g _ _ _ _
  | .vscat g _ _ _ _ => some g
  | .vadd g _ _ _ _ | .vsub g _ _ _ _ | .vmul g _ _ _ _ | .vfma g _ _ _ _ _ | .vmin g _ _ _ _
  | .vmax g _ _ _ _ | .vabs g _ _ _ | .vcmp g _ _ _ _ _ | .vsel g _ _ _ _ _ | .vbcast g _ _ _
  | .vperm g _ _ _ _ | .vcvt g _ _ _ _ _ | .vexp2 g _ _ _ | .vlog2 g _ _ _ | .vrcp g _ _ _ | .vrsq g _ _ _
  | .vredadd g _ _ _ => some g
  | _ => none

/-! ### Invariants -/

/-- Every memory of the module is in its canonical form: global memory, the scratchpad, the instruction memory, the
table registers, the accumulator banks and the tags of every context, and the generations of every home. -/
structure State.MemoriesCanonical (s : State) : Prop where
  mem : Memory.wf s.mem = true
  spad : ∀ b q, Memory.wf (s.ctx b q).spad = true
  imem : ∀ b q, Memory.wf (s.ctx b q).imem = true
  tables : ∀ b q, mapWf Table.zero (s.ctx b q).tables = true
  banks : ∀ b q, mapWf 0 (s.ctx b q).banks = true
  tags : ∀ b q, mapWf 0 (s.ctx b q).tags = true
  gens : ∀ b, mapWf 1 (s.brick b).gens = true

/-- The ring of the audit log holds the last 65,536 entries, or all while they are fewer (23 R426). -/
def State.LogRing (s : State) : Prop := s.log.length = min s.logNext 65536

/-- The audit log of `t` goes on from that of `s`: entries are numbered on, the ring keeps its shape, and what the ring
of `t` still holds of the entries of `s` reads as it did (23 R426). -/
structure State.LogKept (s t : State) : Prop where
  next : s.logNext ≤ t.logNext
  ring : s.LogRing → t.LogRing
  kept : s.LogRing → ∀ n, n < s.logNext → t.logNext ≤ n + 65536 → t.logAt n = s.logAt n

/-- Every seat table in force obeys 01 R39, and none of its entries has bit 2 set (21 R396). -/
def State.SeatTablesLegal (s : State) : Prop :=
  ∀ b, tableSpaced (s.brick b).seattab = true ∧ tableBit2 (s.brick b).seattab = false

/-- The power cap is within the limits of PWRCAP (25 R446). -/
def State.CapInRange (s : State) : Prop := 600 ≤ s.powercap.toNat ∧ s.powercap.toNat ≤ 2400

end Sys2Proof.Machine
end

