-- ==== Sys2Proof/Certificates/Slice0/Obligations.lean ====
section
/-! DEFINITION. The statements for the provers. A slot instruction is stated at the slot that issues it
(`State.Ready`): the state it answers is written out whole, so that it says what changes and that nothing else
does. What has issued lands later, at the beats that the statements about `contextBeat` speak of. -/

open Sys2Proof Sys2Proof.Machine

/-! ### Slots 1 and 2 -/

/-- The scalar operations (08 R188, R189, latencies of R177). Sums and products wrap modulo 2^64, and `mulh` gives bits
[127:64] of the product of the operands as its keyword extends them. Bit `i` of a bitwise result is made of bit `i` of
the operands, and a shift moves by the low 6 bits of its second operand. `min` and `max` by their keyword, `clz` and
`popc`. -/
def Obligations.ScalarOperations : Prop :=
  (∀ (s : State) (b : Fin 8) (q : Fin 4) (k : Fin 8) (g : Fin 16) (d a r : Fin 32) (i : Imm),
    let x := s.xin b q
    (s.Ready b q k g 0 →
      exec (.add g d a r) s = .next (s.giving b q k d 1 (BitVec.ofNat 64 ((x a).toNat + (x r).toNat))) ∧
      exec (.addImm g d a i) s = .next (s.giving b q k d 1 (BitVec.ofInt 64 ((x a).toInt + (immVal i).toInt))) ∧
      exec (.sub g d a r) s = .next (s.giving b q k d 1 (BitVec.ofInt 64 ((x a).toInt - (x r).toInt)))) ∧
    (s.Ready b q k g 2 →
      exec (.mul g d a r) s = .next (s.giving b q k d 3 (BitVec.ofNat 64 ((x a).toNat * (x r).toNat))) ∧
      exec (.mulh g d a r .s) s =
        .next (s.giving b q k d 3 (((x a).signExtend 128 * (x r).signExtend 128).extractLsb' 64 64)) ∧
      exec (.mulh g d a r .u) s =
        .next (s.giving b q k d 3 (((x a).zeroExtend 128 * (x r).zeroExtend 128).extractLsb' 64 64)) ∧
      exec (.mulh g d a r .su) s =
        .next (s.giving b q k d 3 (((x a).signExtend 128 * (x r).zeroExtend 128).extractLsb' 64 64)))) ∧
  (∀ (s : State) (b : Fin 8) (q : Fin 4) (k : Fin 8) (g : Fin 16) (d a r : Fin 32) (i : Imm),
      s.Ready b q k g 0 →
      let x := s.xin b q
      (exec (.and g d a r) s = .next (s.giving b q k d 1 (x a &&& x r)) ∧
        exec (.andImm g d a i) s = .next (s.giving b q k d 1 (x a &&& immVal i)) ∧
        exec (.or g d a r) s = .next (s.giving b q k d 1 (x a ||| x r)) ∧
        exec (.orImm g d a i) s = .next (s.giving b q k d 1 (x a ||| immVal i)) ∧
        exec (.xor g d a r) s = .next (s.giving b q k d 1 (x a ^^^ x r)) ∧
        exec (.xorImm g d a i) s = .next (s.giving b q k d 1 (x a ^^^ immVal i))) ∧
      (exec (.shl g d a r) s =
          .next (s.giving b q k d 1 (BitVec.ofNat 64 ((x a).toNat * 2 ^ ((x r).toNat % 64)))) ∧
        exec (.shlImm g d a i) s =
          .next (s.giving b q k d 1 (BitVec.ofNat 64 ((x a).toNat * 2 ^ ((immVal i).toNat % 64)))) ∧
        exec (.shr g d a r) s =
          .next (s.giving b q k d 1 (BitVec.ofNat 64 ((x a).toNat / 2 ^ ((x r).toNat % 64)))) ∧
        exec (.shrImm g d a i) s =
          .next (s.giving b q k d 1 (BitVec.ofNat 64 ((x a).toNat / 2 ^ ((immVal i).toNat % 64)))) ∧
        exec (.sar g d a r) s =
          .next (s.giving b q k d 1 (BitVec.ofInt 64 ((x a).toInt / 2 ^ ((x r).toNat % 64)))) ∧
        exec (.sarImm g d a i) s =
          .next (s.giving b q k d 1 (BitVec.ofInt 64 ((x a).toInt / 2 ^ ((immVal i).toNat % 64)))))) ∧
  (∀ (s : State) (b : Fin 8) (q : Fin 4) (k : Fin 8) (g : Fin 16) (d a r : Fin 32),
      s.Ready b q k g 0 →
      let x := s.xin b q
      exec (.min g d a r .s) s =
          .next (s.giving b q k d 1 (BitVec.ofInt 64 (min (x a).toInt (x r).toInt))) ∧
        exec (.min g d a r .u) s =
          .next (s.giving b q k d 1 (BitVec.ofNat 64 (min (x a).toNat (x r).toNat))) ∧
        exec (.max g d a r .s) s =
          .next (s.giving b q k d 1 (BitVec.ofInt 64 (max (x a).toInt (x r).toInt))) ∧
        exec (.max g d a r .u) s =
          .next (s.giving b q k d 1 (BitVec.ofNat 64 (max (x a).toNat (x r).toNat))) ∧
        exec (.clz g d a) s = .next (s.giving b q k d 1
          (BitVec.ofNat 64 (if (x a).toNat = 0 then 64 else 63 - Nat.log2 (x a).toNat))) ∧
        exec (.popc g d a) s = .next (s.giving b q k d 1
          (BitVec.ofNat 64 ((List.range 64).countP fun n => (x a).getLsbD n))))

/-- 08 R191: `sel` takes X[A] where bit 0 of P[C] is 1, else X[B]; P[C] is read at the issue beat, under the name
that RRB gives it there. Its word is of format QUAD, opcode 0x033, with TY and FN 0. -/
def Obligations.SelectByPredicate : Prop :=
  ∀ (s : State) (b : Fin 8) (q : Fin 4) (k : Fin 8) (g : Fin 16) (d a r : Fin 32) (c : Fin 16),
    s.Ready b q k g 0 →
    exec (.sel g d c a r) s = .next (s.giving b q k d 1
      (if ((s.ctx b q).view.pr c).getLsbD 0 = true then s.xin b q a else s.xin b q r)) ∧
      decodeSlot 1 (encQuad 0x033 g d.val a.val r.val c.val 0) none = .ok (.sel g d c a r) ∧
      decodeSlot 2 (encQuad 0x033 g d.val a.val r.val c.val 0) none = .ok (.sel g d c a r)

/-- 08 R192: `li` gives its 24-bit immediate sign-extended, or with a long immediate the 64 bits of 07 R166; `lih`
shifts the old X[D], read at the issue beat, left by 24 and puts its immediate below it. 08 R190: `cmp` puts the
result in every lane of P[D] and its complement in every lane of P[D + 1]; both land one beat on, in the physical
registers that the two names have at issue. -/
def Obligations.LoadImmediateAndCompare : Prop :=
  (∀ (s : State) (b : Fin 8) (q : Fin 4) (k : Fin 8) (g : Fin 16) (d : Fin 32) (i : BitVec 24) (h : BitVec 20)
      (l : BitVec 44), s.Ready b q k g 0 →
    exec (.li g d (.short i)) s = .next (s.giving b q k d 1 (BitVec.ofInt 64 i.toInt)) ∧
      exec (.li g d (.long h l)) s = .next (s.giving b q k d 1 (h ++ l)) ∧
      exec (.lih g d i) s = .next (s.giving b q k d 1 ((s.xin b q d).truncate 40 ++ i))) ∧
  ∀ (s : State) (b : Fin 8) (q : Fin 4) (k : Fin 8) (g d : Fin 16) (a r : Fin 32) (cond : Cond),
    s.Ready b q k g 0 → d.val % 2 = 0 →
    let c := s.ctx b q
    let v : PReg := if cmpHolds cond (s.xin b q a) (s.xin b q r) then BitVec.allOnes 512 else 0
    exec (.cmp g d a r cond) s = .next (s.issued b q k
      (((c.sched k.val (c.cbc + 1) (.pw (c.physP d).val (BitVec.allOnes 512) v)).sched k.val (c.cbc + 1)
        (.pw (c.physP (d + 1)).val (BitVec.allOnes 512) (BitVec.allOnes 512 ^^^ v))).enter k.val c.cbc))

/-! ### What an issuing slot can do -/

/-- Every slot instruction, whatever its operands, ends in one of three ways: it raises a fault at its slot, it waits
with the bundle split there, or it has issued, with at most 96 landing-set entries held (05 R139), with none that
outlives a task whose `halt` issues (01 R43). In every case registers and storage are as they were: a slot that faults
has no effect on them but for the trap itself (05 R136). -/
def Obligations.SlotOutcomes : Prop :=
  ∀ (i : Instr) (s t : State) (b : Fin 8) (q : Fin 4) (k : Fin 8),
    slots i ≠ [] → s.Issues b q k → exec i s = .next t →
    (∃ c' code cause info, Context.SameStorage (s.ctx b q) c' ∧
      t = (s.setCtx b q c').slotTrap b q k.val code cause info) ∨
      t = { s.setCtx b q { s.ctx b q with phase := .split k } with cur := none } ∨
      (∃ c', t = s.issued b q k c' ∧ Context.SameStorage (s.ctx b q) c' ∧
        c'.heldAt (s.ctx b q).cbc ≤ 96 ∧
        ((s.ctx b q).halting = true → ∀ e ∈ c'.lset, e ∉ (s.ctx b q).lset → e.last ≤ (s.ctx b q).cbc))

/-- The frame of every slot instruction that has issued (its slot is passed): registers and storage of its context,
every other context, every byte of global memory, and every register and queue of the host, the bricks, the seats, the
links and the root of trust are as they were: a state differs from the one before in this one context alone. -/
def Obligations.SlotFrame : Prop :=
  ∀ (i : Instr) (s t : State) (b : Fin 8) (q : Fin 4) (k : Fin 8),
    slots i ≠ [] → s.Issues b q k → exec i s = .next t → (t.ctx b q).phase = nextPhase k →
    Context.SameStorage (s.ctx b q) (t.ctx b q) ∧
      (∀ b' q', (b', q') ≠ (b, q) → t.ctx b' q' = s.ctx b' q') ∧ (∀ a, getB t.mem a = getB s.mem a) ∧
      { t with bricks := s.bricks } = s ∧
      ∀ b', { t.brick b' with seats := (s.brick b').seats } = s.brick b' ∧
        ∀ q', { t.seat b' q' with ctx := (s.seat b' q').ctx } = s.seat b' q'

/-- 07 R168: an instruction whose guard is off changes nothing but the slot that comes next; one that acts by lanes
has no set lane in its guard. A `csrw` of a register that may be written is one of them. 07 R169: a `nop` has no effect
in any slot, whatever its guard. -/
def Obligations.GuardOffAndNop : Prop :=
  (∀ (i : Instr) (s : State) (b : Fin 8) (q : Fin 4) (k : Fin 8) (g : Fin 16),
      s.Issues b q k → (s.ctx b q).Fits (s.ctx b q).cbc →
      (wholeGuard i = some g ∧ (s.ctx b q).view.guard g = false ∨
        laneGuard i = some g ∧ (s.ctx b q).view.pr g = 0) →
      exec i s = .next (s.issued b q k (s.ctx b q))) ∧
  (∀ (s : State) (b : Fin 8) (q : Fin 4) (k : Fin 8) (g : Fin 16),
      s.Issues b q k → (s.ctx b q).Fits (s.ctx b q).cbc → exec (.nop g) s = .next (s.issued b q k (s.ctx b q))) ∧
  ∀ (s : State) (b : Fin 8) (q : Fin 4) (k : Fin 8) (g : Fin 16) (a : Fin 32) (n : BitVec 12),
    s.Issues b q k → (s.ctx b q).Fits (s.ctx b q).cbc → (s.ctx b q).view.guard g = false →
    csrReadOnly n.toNat = false → csrTape n.toNat = false ∨ (s.ctx b q).dmode = .off →
    exec (.csrw g n a) s = .next (s.issued b q k (s.ctx b q))

/-- An operation that would hold an entry beyond its issue beat is refused at its slot where 96 entries are held
already (05 R139), and where a `halt` stands in its bundle (01 R43): any operation that would issue with such an entry
if its task were not ending and the landing set were empty. What every slot-7 operation checks first (01 R43, 13 R290,
R293, R306): none but `fencw` acts in a `halt` bundle, and a token that is outstanding is refused with cause 4, of an
exchange once its dimensions are below NDIM; a dimension at NDIM or above, the selector of `xsib` among them, is the
dimension fault, its TINFO the mask of dimensions, before the token is looked at.
Where the spec leaves a reading open, the model's choice is that of log entries 19 and 26. -/
def Obligations.IssueRefusals : Prop :=
  (∀ (i : Instr) (s : State) (b : Fin 8) (q : Fin 4) (k : Fin 8) (d : Context) (e : Entry),
      slots i ≠ [] → s.Issues b q k →
      let c := s.ctx b q
      let roomy := s.setCtx b q { c with lset := [], halting := false }
      exec i roomy = .next (roomy.issued b q k d) → d.lset = [e] → c.cbc < e.last →
      (c.halting = true → exec i s = .next (s.slotTrap b q k.val 0x18 0 (BitVec.ofNat 64 (c.counted c.cbc)))) ∧
      (c.halting = false → 96 ≤ c.heldAt c.cbc →
        exec i s = .next (s.slotTrap b q k.val 0x0A 3 (BitVec.ofNat 64 (c.heldAt c.cbc))))) ∧
  (∀ (s : State) (b : Fin 8) (q : Fin 4) (k : Fin 8) (g dim : Fin 16) (u v w t : Fin 32) (defer : Fin 64)
      (mask : BitVec 12) (cb : Comb) (op : AtomOp) (sc : Scope) (back : Bool) (i : Instr), s.Ready b q k g 0 →
      let c := s.ctx b q
      let copies := [Instr.cpld g u v w t defer, .cpst g u v w t defer, .cpfill g u v w t defer,
        .cpga g u v w t defer, .cpsc g u v w t defer, .cpsq g u v w t defer, .cpat g u v w t defer, .fenci g t sc]
      let exchanges := [Instr.xch g dim u v t, .xcc g dim u v t cb, .xat g dim u v t op, .xsib g dim u v t back]
      (c.halting = true → i ∈ copies ++ exchanges ++ [Instr.xgs g mask u t back, .xbar g mask t] →
        exec i s = .next (s.slotTrap b q k.val 0x18 0 (BitVec.ofNat 64 (c.counted c.cbc)))) ∧
      (c.halting = false → c.tok.get t = .outstanding →
        i ∈ copies ∨ (dim.val < c.ndim ∧ i ∈ [Instr.xch g dim u v t, .xcc g dim u v t cb, .xat g dim u v t op]) ∨
          (dim.val < c.ndim ∧ (s.xin b q u).toNat / 2 ^ 56 % 16 < c.ndim ∧ i = .xsib g dim u v t back) ∨
          (mask.toNat < 2 ^ c.ndim ∧ i ∈ [Instr.xgs g mask u t back, .xbar g mask t]) →
        exec i s = .next (s.slotTrap b q k.val 0x0A 4 (BitVec.ofNat 64 t.val))) ∧
      (c.halting = false → c.ndim ≤ dim.val → i ∈ exchanges →
        exec i s = .next (s.slotTrap b q k.val 0x05 0 (BitVec.ofNat 64 (2 ^ dim.val)))) ∧
      (c.halting = false → dim.val < c.ndim → c.ndim ≤ (s.xin b q u).toNat / 2 ^ 56 % 16 →
        exec (.xsib g dim u v t back) s = .next (s.slotTrap b q k.val 0x05 0
          (BitVec.ofNat 64 (2 ^ ((s.xin b q u).toNat / 2 ^ 56 % 16))))) ∧
      (c.halting = false → 2 ^ c.ndim ≤ mask.toNat → i ∈ [Instr.xgs g mask u t back, .xbar g mask t] →
        exec i s = .next (s.slotTrap b q k.val 0x05 0 (BitVec.ofNat 64 mask.toNat))))

/-! ### Slot 0 -/

/-- Branches to a bundle number and to a register (08 R178 to R180): a target in the share becomes the taken target
of the bundle, the link of `brl` is the bundle after the second delay bundle, and a bad target raises alignment
(code 0x03) before operand range (code 0x04), with TINFO the target. A branch that acts holds an entry to its own beat
(18 R344).
`brloop` (08 R181): RRB falls by one at the bundle's beat in both cases; with LC not 0, LC falls by one there
and the branch is taken, and with LC = 0 it falls through; a target beyond the share raises operand range (07 R171, 08
R179), whatever LC holds (the model's reading in log entry 19).
`loopb` (08 R182): the pin covers the `n` bundles that follow, or as many of them as lie in the share, and nothing else
changes. Both hold an entry to their own beat (18 R344). -/
def Obligations.ControlTransfers : Prop :=
  (∀ (s : State) (b : Fin 8) (q : Fin 4) (k : Fin 8) (g : Fin 16) (a l : Fin 32) (tgt : BitVec 16),
    s.Ready b q k g 0 →
    let c := s.ctx b q
    let goTo (t : Word) : Context := { c with takenTo := some t }
    let w : Word := BitVec.ofNat 64 (48 * tgt.toNat)
    let jump (t : Word) : Host.Outcome State Fault Refusal :=
      if t.toNat % 48 ≠ 0 then .next (s.slotTrap b q k.val 0x03 0 t)
      else if c.imemShare < t.toNat + 48 then .next (s.slotTrap b q k.val 0x04 0 t)
      else .next (s.issued b q k ((goTo t).hold k.val))
    (48 * tgt.toNat + 48 ≤ c.imemShare →
      exec (.br g tgt) s = .next (s.issued b q k ((goTo w).hold k.val)) ∧
      exec (.brl g l tgt) s =
        .next (s.issued b q k ((goTo w).result k.val l 1 (BitVec.ofNat 64 (c.pc + 144))))) ∧
    (c.imemShare < 48 * tgt.toNat + 48 →
      exec (.br g tgt) s = .next (s.slotTrap b q k.val 0x04 0 w) ∧
      exec (.brl g l tgt) s = .next (s.slotTrap b q k.val 0x04 0 w)) ∧
    exec (.ret g a) s = jump (s.xin b q a) ∧
    exec (.rft g) s = jump (c.taddr.zeroExtend 64)) ∧
  (∀ (s : State) (b : Fin 8) (q : Fin 4) (k : Fin 8) (g : Fin 16) (tgt : BitVec 16),
      s.Ready b q k g 0 →
      let c := s.ctx b q
      let w : Word := BitVec.ofNat 64 (48 * tgt.toNat)
      (48 * tgt.toNat + 48 ≤ c.imemShare →
        (c.lc = 0 → exec (.brloop g tgt) s = .next (s.issued b q k ((c.sched k.val c.cbc .rotate).hold k.val))) ∧
        (c.lc ≠ 0 → exec (.brloop g tgt) s = .next (s.issued b q k
          (((({ c with takenTo := some w }).sched k.val c.cbc .rotate).sched k.val
            c.cbc (.setLc (c.lc - 1))).hold k.val)))) ∧
      (c.imemShare < 48 * tgt.toNat + 48 → exec (.brloop g tgt) s = .next (s.slotTrap b q k.val 0x04 0 w))) ∧
  (∀ (c : Context) (gbc : Word) (t : Timed),
      (t.eff = .rotate → (ctlEffect gbc c t).rrb.toNat = (c.rrb.toNat + 31) % 32 ∧ (ctlEffect gbc c t).lc = c.lc) ∧
      ∀ v, t.eff = .setLc v → (ctlEffect gbc c t).lc = v ∧ (ctlEffect gbc c t).rrb = c.rrb) ∧
  (∀ (s : State) (b : Fin 8) (q : Fin 4) (k : Fin 8) (g : Fin 16) (n : Nat), s.Ready b q k g 0 →
      let next := (s.ctx b q).pc + 48
      ∃ m, exec (.loopb g n) s =
          .next (s.issued b q k (({ s.ctx b q with pin := some (next, m) } : Context).hold k.val)) ∧ m ≤ n ∧
        (next ≤ (s.ctx b q).imemShare → next + 48 * m ≤ (s.ctx b q).imemShare) ∧
        (m < n → (s.ctx b q).imemShare < next + 48 * (m + 1)))

/-- 08 R183: `tchk` compares SLIP, in the cycle in which slot 0 issues and with CBC the bundle's beat, with
min(X[A] + IMM, 2^64 - 1); above it, the timing fault with cause 0x01 is raised with TINFO = SLIP; so `tchk x0, 0`
faults on any slip. It takes no long immediate. -/
def Obligations.TimetableCheck : Prop :=
  ∀ (s : State) (b : Fin 8) (q : Fin 4) (g : Fin 16) (a : Fin 32) (i : BitVec 18), s.Ready b q 0 g 0 →
    let slip := (s.ctx b q).slipAt (s.brick b).gbc (s.ctx b q).cbc
    (slip.toNat ≤ min ((s.xin b q a).toNat + i.toNat) (2 ^ 64 - 1) →
        exec (.tchk g a i) s = .next (s.issued b q 0 ((s.ctx b q).hold 0))) ∧
      (min ((s.xin b q a).toNat + i.toNat) (2 ^ 64 - 1) < slip.toNat →
        exec (.tchk g a i) s = .next (s.slotTrap b q 0 0x19 1 slip)) ∧
      (slip ≠ 0 → exec (.tchk g 0 0) s = .next (s.slotTrap b q 0 0x19 1 slip)) ∧
      ∀ l, decodeSlot 0 (encImm18 0x006 g 0 a.val i.toNat) l = .ok (.tchk g a i)

/-- Consuming a token (08 R184, 13 R289, R290, R301): nothing on a free token; a good one becomes free; one in error
becomes free and raises the token-error fault; on an outstanding one the bundle waits, but for an operation whose
beat has not come, which raises the schedule fault with cause 6. `kwait` and `fencw` do the same.
`halt` (01 R43, R46, 08 R185): with results in the landing set it raises false quiescence (code 0x18), then with
banks held the bank leak (code 0x09); otherwise the task ends when the bundle takes its beat. `trap` raises the
software trap (code 0x30) with its code in TINFO. -/
def Obligations.ConsumeTokenHaltAndTrap : Prop :=
  (∀ (s : State) (b : Fin 8) (q : Fin 4) (k : Fin 8) (g : Fin 16) (n : Fin 32), s.Ready b q k g 0 →
    let c := s.ctx b q
    let freed : Context := { c with tok := c.tok.set n.val .free }
    ∀ i, (i = .kwait g n ∨ i = .fencw g n) →
      (c.tok.get n = .free → exec i s = .next (s.issued b q k (c.hold k.val))) ∧
      (c.tok.get n = .good → exec i s = .next (s.issued b q k (freed.hold k.val))) ∧
      (∀ e, c.tok.get n = .error e → exec i s =
        .next ((s.setCtx b q freed).slotTrap b q k.val 0x0D 0 (BitVec.ofNat 64 (n.val + 256 * e.toNat)))) ∧
      (c.tok.get n = .outstanding → c.unstarted n = true →
        exec i s = .next (s.slotTrap b q k.val 0x0A 6 (BitVec.ofNat 64 n.val))) ∧
      (c.tok.get n = .outstanding → c.unstarted n = false →
        exec i s = .next { s.setCtx b q { c with phase := .split k } with cur := none })) ∧
  ∀ (s : State) (b : Fin 8) (q : Fin 4) (k : Fin 8) (g : Fin 16) (code : BitVec 16), s.Ready b q k g 0 →
    let c := s.ctx b q
    (c.counted c.cbc ≠ 0 →
      exec (.halt g) s = .next (s.slotTrap b q k.val 0x18 0 (BitVec.ofNat 64 (c.counted c.cbc)))) ∧
    (c.counted c.cbc = 0 → ∀ first n rest, c.held = (first, n) :: rest →
      exec (.halt g) s = .next (s.slotTrap b q k.val 0x09 0 (BitVec.ofNat 64 first))) ∧
    (c.counted c.cbc = 0 → c.held = [] → exec (.halt g) s =
      .next (s.issued b q k (({ c with halting := true } : Context).hold k.val))) ∧
    exec (.trap g code) s = .next (s.slotTrap b q k.val 0x30 0 (code.zeroExtend 64))

/-- `csrr` and `csrw` (08 R186, R187): a read lands one beat on, and GBC and SLIP are read in the cycle of the
bundle's beat; a write takes effect at the bundle's beat; a write to a read-only register, and to a tape register
while `DMODE` is not off, raises the illegal-operation fault whatever the guard. What a write of each control
register leaves (02 R60, R62, R78, 03 R95, 08 R186): fields that software writes take the value, bits written as 1
clear a W1C bit, reserved bits and reserved fields ignore the value. What each number reads (01 R18, R28, 02 R60, R78,
03 R95, 05 R134, 12 R276), with the updates of counters that land at the beat. At its beat each of these effects takes
place, and a special register that none of them names keeps its value (02 R62, 08 R181).
Where the spec leaves a reading open, the model's choice is that of log entry 19. -/
def Obligations.ControlRegisters : Prop :=
  (∀ (s : State) (b : Fin 8) (q : Fin 4) (k : Fin 8) (g : Fin 16) (a d : Fin 32) (n : BitVec 12),
      let c := s.ctx b q
      let info : Word := BitVec.ofNat 64 (slotOf c.bundle k.val)
      (s.Ready b q k g 0 → n ≠ 0x010 → n ≠ 0x013 →
        exec (.csrr g d n) s = .next (s.giving b q k d 1 (csrRead (s.brick b).gbc c.csrView n.toNat))) ∧
      (s.Ready b q k g 0 → n = 0x010 ∨ n = 0x013 →
        exec (.csrr g d n) s =
          .next (s.issued b q k ((c.sched k.val c.cbc (.csrTime d n)).hold k.val))) ∧
      (s.Ready b q k g 0 → csrReadOnly n.toNat = false → (csrTape n.toNat = false ∨ c.dmode = .off) →
        exec (.csrw g n a) s = .next (s.issued b q k ((c.sched k.val c.cbc (.csr n (s.xin b q a))).hold k.val))) ∧
      (s.Issues b q k → csrReadOnly n.toNat = true →
        exec (.csrw g n a) s = .next (s.slotTrap b q k.val 0x01 5 info)) ∧
      (s.Issues b q k → csrTape n.toNat = true → c.dmode ≠ .off →
        exec (.csrw g n a) s = .next (s.slotTrap b q k.val 0x01 6 info))) ∧
  (∀ (gbc : Word) (c : Context) (v : Word) (k : Fin 16),
      (csrWrite gbc c 0x020 v).rrb.toNat = v.toNat % 32 ∧ (csrWrite gbc c 0x021 v).lc.toNat = v.toNat % 2 ^ 32 ∧
      ((csrWrite gbc c 0x022 v).wcol = true ↔ c.wcol = true ∧ v.toNat % 2 = 0) ∧
      (csrWrite gbc c 0x041 v).tapeb.toNat = v.toNat % 2 ^ 27 / 64 * 64 ∧
      (csrWrite gbc c 0x042 v).tapel.toNat = v.toNat % 2 ^ 27 / 64 * 64 ∧
      (csrWrite gbc c 0x043 v).tapec.toNat = v.toNat % 2 ^ 27 ∧
      (csrWrite gbc c 0x045 v).tapesa.toNat = v.toNat % 2 ^ 52 / 4096 * 4096 ∧
      (∀ n, n < 16 → (csrWrite gbc c 0x050 v).scst.getLsbD n = (c.scst.getLsbD n && !v.getLsbD n)) ∧
      (csrWrite gbc c 0x013 v).slipAt gbc c.cbc = v ∧
      ((csrWrite gbc c (0x100 + k.val) v).count.get k).toNat = v.toNat % 2 ^ 48 ∧
      ((csrWrite gbc c (0x120 + k.val) v).limit.get k).toNat = v.toNat % 2 ^ 48 ∧
      ((csrWrite gbc c (0x110 + k.val) v).amax.get k).toNat =
        (if v.toNat % 2 ^ 32 ≤ 0x7F80_0000 then v.toNat % 2 ^ 32 else 0)) ∧
  (∀ (gbc : Word) (c : Context) (k : Fin 16),
      let reads (n : Nat) (v : Nat) : Prop := (csrRead gbc c n).toNat = v
      (reads 0x000 c.crd.toNat ∧ reads 0x001 c.scmask.toNat ∧ reads 0x002 c.dimmap.toNat ∧ reads 0x003 c.seatf.toNat ∧
        reads 0x004 c.asgen.toNat ∧ reads 0x010 gbc.toNat ∧ reads 0x011 c.gbcs.toNat ∧ reads 0x012 (c.cbc % 2 ^ 64) ∧
        csrRead gbc c 0x013 = BitVec.ofNat 64 ((gbc - c.gbcs).toNat / 2 ^ c.frac) - BitVec.ofNat 64 c.cbc +
          c.slipOffset ∧ reads 0x014 c.fbud.toNat ∧ reads 0x015 c.qcnt.toNat) ∧
      (reads 0x020 c.rrb.toNat ∧ reads 0x021 c.lc.toNat ∧ reads 0x022 (if c.wcol then 1 else 0) ∧
        reads 0x030 c.srw.toNat ∧ reads 0x031 c.tstat.toNat ∧ reads 0x032 c.taddr.toNat ∧ reads 0x033 c.tbeat.toNat ∧
        reads 0x034 c.tinfo.toNat ∧ reads 0x035 c.tibeat.toNat) ∧
      (reads 0x040 (match c.dmode with
          | .off => 0
          | .fwd => 1
          | .rev => 2) ∧
        reads 0x041 c.tapeb.toNat ∧ reads 0x042 c.tapel.toNat ∧ reads 0x043 c.tapec.toNat ∧ reads 0x044 c.tapes.toNat ∧
        reads 0x045 c.tapesa.toNat ∧ reads 0x050 c.scst.toNat) ∧
      reads (0x100 + k.val) (c.count.get k).toNat ∧ reads (0x110 + k.val) (c.amax.get k).toNat ∧
      reads (0x120 + k.val) (c.limit.get k).toNat) ∧
  (∀ c : Context,
      let v := c.csrView
      let due (t : Timed) : Prop := t ∈ c.timed ∧ t.due = c.cbc
      ((v.crd, v.scmask, v.dimmap, v.seatf, v.asgen, v.gbcs, v.cbc, v.slipOffset, v.fbud, v.qcnt) =
          (c.crd, c.scmask, c.dimmap, c.seatf, c.asgen, c.gbcs, c.cbc, c.slipOffset, c.fbud, c.qcnt) ∧
        (v.rrb, v.lc, v.srw, v.tstat, v.taddr, v.tbeat, v.tinfo, v.tibeat) =
          (c.rrb, c.lc, c.srw, c.tstat, c.taddr, c.tbeat, c.tinfo, c.tibeat) ∧
        (v.dmode, v.tapeb, v.tapel, v.tapes, v.tapesa, v.scst, v.limit) =
          (c.dmode, c.tapeb, c.tapel, c.tapes, c.tapesa, c.scst, c.limit)) ∧
      ((∀ t ∈ c.timed, t.due ≠ c.cbc) →
        (v.wcol, v.tapec) = (c.wcol, c.tapec) ∧ (c.late = [] → (v.count, v.amax) = (c.count, c.amax))) ∧
      (∀ t m, c.timed.filter (fun u => u.due == c.cbc) = [t] → t.eff = .markPush m →
        v.tapec = c.tapec + 8) ∧
      (∀ t t' n x x', due t → due t' → t ≠ t' → t.eff = .xw n x → t'.eff = .xw n x' → n ≠ 0 → v.wcol = true) ∧
      ∀ t k n a, c.timed.filter (fun u => u.due == c.cbc) = [t] → t.eff = .cnt k n a → c.late = [] →
        (v.count.get k).toNat = min ((c.count.get k).toNat + n) (2 ^ 48 - 1) ∧
        (v.amax.get k).toNat = max (c.amax.get k).toNat a.toNat ∧
        ∀ k', k' ≠ k → v.count.get k' = c.count.get k' ∧ v.amax.get k' = c.amax.get k') ∧
  (∀ (gbc : Word) (c : Context),
      let r := (c.beat gbc).ctx
      let none' (p : Eff → Prop) : Prop := ∀ t ∈ c.timed, t.due = c.cbc → ¬p t.eff
      let isCsr (e : Eff) : Prop := ∃ n v, e = .csr n v
      ((r.crd, r.scmask, r.dimmap, r.seatf, r.asgen, r.gbcs, r.fbud, r.qcnt, r.tapes) =
          (c.crd, c.scmask, c.dimmap, c.seatf, c.asgen, c.gbcs, c.fbud, c.qcnt, c.tapes) ∧
        (r.srw, r.tstat, r.taddr, r.tbeat, r.tinfo, r.tibeat) =
          (c.srw, c.tstat, c.taddr, c.tbeat, c.tinfo, c.tibeat)) ∧
      (none' (fun e => isCsr e ∨ e = .rotate) → r.rrb = c.rrb) ∧
      (none' (fun e => isCsr e ∨ ∃ v, e = .setLc v) → r.lc = c.lc) ∧
      (none' (fun e => ∃ m, e = .setMode m) → r.dmode = c.dmode) ∧
      (none' (fun e => ∃ n v, e = .setRegion n v) → r.ag = c.ag) ∧
      (none' isCsr → (r.tapeb, r.tapel, r.tapesa, r.scst, r.limit, r.slipOffset) =
        (c.tapeb, c.tapel, c.tapesa, c.scst, c.limit, c.slipOffset)) ∧
      ∀ t t' v, c.timed.filter (fun u => u.due == c.cbc) = [t, t'] → t.eff = .setLc v → t'.eff = .rotate →
        r.lc = v ∧ r.rrb = c.rrb - 1) ∧
  ∀ (gbc : Word) (c : Context) (t : Timed), c.Alone t →
    let r := (c.beat gbc).ctx
    (∀ n v, t.eff = .csr n v →
      let w := csrWrite gbc c n.toNat v
      (r.rrb, r.lc, r.wcol, r.tapeb, r.tapel, r.tapec, r.tapesa, r.scst) =
          (w.rrb, w.lc, w.wcol, w.tapeb, w.tapel, w.tapec, w.tapesa, w.scst) ∧
        (r.limit, r.slipOffset) = (w.limit, w.slipOffset) ∧ (c.late = [] → (r.count, r.amax) = (w.count, w.amax))) ∧
    (∀ d n, t.eff = .csrTime d n →
      r.timed = { t with due := t.due + 1, eff := .xw d (csrRead gbc c n.toNat) } :: c.others) ∧
    (t.eff = .rotate → r.rrb = c.rrb - 1) ∧ (∀ v, t.eff = .setLc v → r.lc = v) ∧
    (∀ m, t.eff = .setMode m → r.dmode = m) ∧ ∀ n v, t.eff = .setRegion n v → r.ag = c.ag.set n.val v

/-- `dreg` (12 R275): X[A] above 1 is out of range; a change while `DMODE` is not off is a mode conflict (cause 0x03);
0 clears EN; 1 enables the region that the image declares, refused with cause 0x04 where none is declared or where it
breaks the rules of R273 to R275, which are spelt out. The change takes effect at the bundle's beat. `dmode` (02 R79,
12 R276): off is always taken; forward-taped and reverse where the tape window passes its checks; else the
mode-conflict fault with cause 0x01. The checks in their order, each with its TINFO: TAPEB below TAPEL, TAPEC between
them, TAPEL in the share, the window apart from landing tiles and enabled regions, no write of the context still to be
applied to it but the tape's own, and TAPEC a multiple of 8. The mode changes at the bundle's beat. `tmark` (12 R279):
nothing with `DMODE` off; forward-taped it pushes a marker record two beats on, or overflows the tape (code 0x20)
where the cursor that the pushes in flight leave has no room; reverse it pops one, or underflows (code 0x21).
Where the spec leaves a reading open, the model's choice is that of log entry 21. -/
def Obligations.DifferentiableSwitches : Prop :=
  ((∀ (s : State) (b : Fin 8) (q : Fin 4) (k : Fin 8) (g d : Fin 16) (a : Fin 32), s.Ready b q k g 0 →
        let c := s.ctx b q
        let x := s.xin b q a
        let conflict (cause : Nat) := s.slotTrap b q k.val 0x0C cause (BitVec.ofNat 64 d.val)
        (1 < x.toNat → exec (.dreg g d a) s = .next (s.slotTrap b q k.val 0x04 0 x)) ∧
        (x.toNat ≤ 1 → c.dmode ≠ .off → exec (.dreg g d a) s = .next (conflict 3)) ∧
        (x.toNat = 0 → c.dmode = .off → exec (.dreg g d a) s =
          .next (s.issued b q k ((c.sched k.val c.cbc (.setRegion d (agDisable (c.ag.get d)))).hold k.val))) ∧
        (x.toNat = 1 → c.dmode = .off →
          (c.regions.getD d.val none = none → exec (.dreg g d a) s = .next (conflict 4)) ∧
          (∀ r, c.regions.getD d.val none = some r →
            (regionShape r c.spadShare && c.regionClear d.val r) = false →
            exec (.dreg g d a) s = .next (conflict 4)) ∧
          (∀ r, c.regions.getD d.val none = some r →
            (regionShape r c.spadShare && c.regionClear d.val r) = true →
            exec (.dreg g d a) s =
              .next (s.issued b q k ((c.sched k.val c.cbc (.setRegion d (agEnable r))).hold k.val)))) ∧
        (∀ r : BitVec 128, (agEnable r).getLsbD 97 = true ∧ (agDisable r).getLsbD 97 = false ∧
          ∀ n, n ≠ 97 → (agEnable r).getLsbD n = r.getLsbD n ∧ (agDisable r).getLsbD n = r.getLsbD n)) ∧
    (∀ (s : State) (b : Fin 8) (q : Fin 4) (k : Fin 8) (g : Fin 16) (m : Mode), s.Ready b q k g 0 →
        let c := s.ctx b q
        (m = .off ∨ c.windowFault = none →
          exec (.dmode g m) s = .next (s.issued b q k ((c.sched k.val c.cbc (.setMode m)).hold k.val))) ∧
        (∀ x, m ≠ .off → c.windowFault = some x →
          exec (.dmode g m) s = .next (s.slotTrap b q k.val 0x0C 1 (BitVec.ofNat 64 x)))) ∧
    (∀ (c : Context) (n : Fin 16) (r : BitVec 128) (share : Nat),
        let x := r.toNat
        let spans (r : BitVec 128) : List (Nat × Nat) :=
          let x := r.toNat
          [(x % 2 ^ 27, x / 2 ^ 32 % 2 ^ 27), (x / 2 ^ 64 % 2 ^ 27, x / 2 ^ 32 % 2 ^ 27 /
            (if x / 2 ^ 92 % 16 = 8 then 2 else 4) * (if r.getLsbD 96 then 2 else 4))]
        let apart (s t : Nat × Nat) : Prop := s.2 = 0 ∨ t.2 = 0 ∨ s.1 + s.2 ≤ t.1 ∨ t.1 + t.2 ≤ s.1
        (regionShape r share = true ↔
          x / 2 ^ 27 % 2 ^ 5 = 0 ∧ x / 2 ^ 59 % 2 ^ 5 = 0 ∧ r.getLsbD 91 = false ∧ x / 2 ^ 98 % 2 ^ 30 = 0 ∧
          x % 2 ^ 27 % 32 = 0 ∧ x / 2 ^ 32 % 2 ^ 27 % 32 = 0 ∧ x / 2 ^ 32 % 2 ^ 27 ≠ 0 ∧ x / 2 ^ 64 % 2 ^ 27 % 32 = 0 ∧
          (x / 2 ^ 92 % 16 = 7 ∨ x / 2 ^ 92 % 16 = 8 ∧ r.getLsbD 96 = true) ∧ ∀ s ∈ spans r, s.1 + s.2 ≤ share) ∧
        (c.regionClear n.val r = true ↔
          (spans r).Pairwise apart ∧ ∀ s ∈ spans r, (∀ t ∈ c.tiles, apart s (t, 4096)) ∧
            apart s (c.tapeb.toNat, c.tapel.toNat - c.tapeb.toNat) ∧
            ∀ k : Fin 16, k ≠ n → (c.ag.get k).getLsbD 97 = true → ∀ t ∈ spans (c.ag.get k), apart s t) ∧
        let lo := c.tapeb.toNat
        let hi := c.tapel.toNat
        let cur := c.tapec.toNat
        let within (l : List (Nat × Nat)) (a : Nat) : Prop := ∃ p ∈ l, p.1 ≤ a ∧ a < p.1 + p.2
        let declared (a : Nat) : Prop := within (c.tiles.map fun t => (t, 4096)) a ∨
          ∃ k : Fin 16, (c.ag.get k).getLsbD 97 = true ∧ within (spans (c.ag.get k)) a
        let pending (a : Nat) : Prop := (∃ t ∈ c.timed, within t.eff.writes a) ∨
          (∃ m ∈ c.cmds, c.cbc ≤ m.complete ∧ (m.kind = .acvt ∧ within (strm m.p).destSpans a ∨
            m.kind = .ltspill ∧ within (strm m.p).spans a)) ∨
          ∃ o ∈ c.ops, o.b.toNat ≤ a ∧ (o.kind = .cpld ∧ a < o.b.toNat + o.c.toNat % 2 ^ 24 ∨
            o.kind = .cpga ∧ a < o.b.toNat + 64 * (o.c.toNat / 2 ^ 12 % 2 ^ 6) * (o.c.toNat % 2 ^ 12) ∨
            o.kind = .cpat ∧ o.c.getLsbD 8 = true ∧ a < o.b.toNat + 64)
        let clear (p : Nat → Prop) : Prop := ∀ a, lo ≤ a → a < hi → ¬p a
        let first (p : Nat → Prop) (a : Nat) : Prop := lo ≤ a ∧ a < hi ∧ p a ∧ ∀ a', lo ≤ a' → a' < a → ¬p a'
        (hi ≤ lo → c.windowFault = some lo) ∧
        (lo < hi →
          (cur < lo ∨ hi < cur → c.windowFault = some cur) ∧
          (lo ≤ cur → cur ≤ hi →
            (c.spadShare < hi → c.windowFault = some hi) ∧
            (hi ≤ c.spadShare →
              (∀ a, first declared a → c.windowFault = some a) ∧
              (clear declared →
                (∀ a, first pending a → c.windowFault = some a) ∧
                (clear pending → (cur % 8 = 0 → c.windowFault = none) ∧
                  (cur % 8 ≠ 0 → c.windowFault = some cur))))))) ∧
    (∀ bytes es, (Eff.store bytes es).writes = bytes.map fun p => (p.1, 1)) ∧
    (∀ l, (Eff.accum l).writes = l.map fun a => (a.cell, if a.abf16 then 2 else 4)) ∧
    (∀ m la ty op x d, ∀ p, p ∈ (Eff.atom m la ty op x d).writes ↔
      ∃ i, i < 512 ∧ act m i = true ∧ p = (la.at (atomBytes ty) i, atomBytes ty)) ∧
    ∀ m, (Eff.markPush m).writes = [] ∧ (Eff.markPop m).writes = []) ∧
  (∀ (s : State) (b : Fin 8) (q : Fin 4) (k : Fin 8) (g : Fin 16) (m : BitVec 16), s.Ready b q k g 2 →
      let c := s.ctx b q
      let cursor : Int := c.tapec.toNat + tapeMoves c.timed
      let full (code : Nat) := s.slotTrap b q k.val code 0 (c.tapec.zeroExtend 64)
      (c.dmode = .off → exec (.tmark g m) s = .next (s.issued b q k c)) ∧
      (c.dmode = .fwd → cursor + 8 ≤ c.tapel.toNat → exec (.tmark g m) s =
        .next (s.issued b q k ((c.sched k.val (c.cbc + 2) (.markPush m)).enter k.val (c.cbc + 2)))) ∧
      (c.dmode = .fwd → (c.tapel.toNat : Int) < cursor + 8 → exec (.tmark g m) s = .next (full 0x20)) ∧
      (c.dmode = .rev → c.tapeb.toNat ≤ cursor - 8 → exec (.tmark g m) s =
        .next (s.issued b q k ((c.sched k.val (c.cbc + 2) (.markPop m)).enter k.val (c.cbc + 2)))) ∧
      (c.dmode = .rev → cursor - 8 < (c.tapeb.toNat : Int) → exec (.tmark g m) s = .next (full 0x21)))

/-! ### Scratchpad access -/

/-- `lds` and `sts` (08 R193): the range check on ADDR comes first, then its alignment and that of a long byte
displacement (07 R166), all with TINFO = ADDR; with `DMODE` off the read performs two beats on, its value landing at
four, and the write performs two beats on. A load is ordinary forward-taped too (08 R194). -/
def Obligations.ScalarAccess : Prop :=
  ∀ (s : State) (b : Fin 8) (q : Fin 4) (k : Fin 8) (g : Fin 16) (d a : Fin 32) (disp : Disp) (ty : Ty),
    let c := s.ctx b q
    let w := scalarBytes ty
    let addr := s.xin b q a + dispVal w disp
    let aligned := addr.toNat % w = 0 ∧ (dispVal w disp).toInt % w = 0
    (s.Ready b q k g 0 → c.spadShare ≤ addr.toNat →
      exec (.lds g d a disp ty) s = .next (s.slotTrap b q k.val 0x02 0 addr) ∧
      exec (.sts g a disp d ty) s = .next (s.slotTrap b q k.val 0x02 0 addr)) ∧
    (s.Ready b q k g 0 → addr.toNat < c.spadShare → ¬aligned →
      exec (.lds g d a disp ty) s = .next (s.slotTrap b q k.val 0x03 0 addr) ∧
      exec (.sts g a disp d ty) s = .next (s.slotTrap b q k.val 0x03 0 addr)) ∧
    (s.Ready b q k g 3 → addr.toNat < c.spadShare → aligned → c.dmode ≠ .rev →
      exec (.lds g d a disp ty) s = .next (s.issued b q k
        ((c.sched k.val (c.cbc + 2) (.ldx d addr.toNat w (signExt ty))).enter k.val (c.cbc + 3)))) ∧
    (s.Ready b q k g 2 → addr.toNat < c.spadShare → aligned → c.dmode = .off →
      exec (.sts g a disp d ty) s = .next (s.issued b q k
        ((c.sched k.val (c.cbc + 2) (.store (bytesAt addr.toNat (toBytes w (s.xin b q d).toNat)) [])).enter
          k.val (c.cbc + 2))))

/-- Scalar access in the differentiable modes (08 R194, R195): an access of region elements `es` pushes one record for
each, or overflows; in reverse a store pops one for each, in descending order, or underflows, and a load accumulates
the elements that it covers whole and reads nothing; without a register result its entry ends with its last effect (18
R346). An access that touches no element of an enabled region acts as with `DMODE` off (12 R281). A scalar store into
the tape window while `DMODE` is not off is a mode conflict with cause 0x01 (02 R79), its TINFO the lowest address of
the window that it would reach.
Where the spec leaves a reading open, the model's choice is that of log entry 21. -/
def Obligations.ScalarAccessDifferentiable : Prop :=
  (∀ (s : State) (b : Fin 8) (q : Fin 4) (k : Fin 8) (g : Fin 16) (d a : Fin 32) (disp : Disp) (ty : Ty),
      s.Ready b q k g 3 →
      let c := s.ctx b q
      let w := scalarBytes ty
      let addr := (s.xin b q a + dispVal w disp).toNat
      let x := (s.xin b q d).toNat
      let es := c.covered addr w
      let cursor : Int := c.tapec.toNat + tapeMoves c.timed
      let whole := es.filter fun e => decide (e.width ≤ w)
      addr < c.spadShare → addr % w = 0 → (dispVal w disp).toInt % w = 0 → es ≠ [] → (es.map Elem.addr).Nodup →
      c.windowHit addr w = none →
      (c.dmode = .fwd → cursor + 8 * es.length ≤ c.tapel.toNat → exec (.sts g a disp d ty) s =
        .next (s.issued b q k ((c.sched k.val (c.cbc + 2) (.store (bytesAt addr (toBytes w x)) es)).enter
          k.val (c.cbc + 2)))) ∧
      (c.dmode = .fwd → (c.tapel.toNat : Int) < cursor + 8 * es.length → exec (.sts g a disp d ty) s =
        .next (s.slotTrap b q k.val 0x20 0 (c.tapec.zeroExtend 64))) ∧
      (c.dmode = .rev → c.tapeb.toNat ≤ cursor - 8 * es.length → exec (.sts g a disp d ty) s =
        .next (s.issued b q k ((c.sched k.val (c.cbc + 2) (.revStore
          (es.reverse.map fun e => ⟨e, decide (e.width ≤ w), 0, 8 * (e.addr - addr)⟩) []
          (if whole = [] then none else some (.x d)) (c.cbc + 4))).enter k.val
            (if whole = [] then c.cbc + 2 else c.cbc + 3)))) ∧
      (c.dmode = .rev → cursor - 8 * es.length < (c.tapeb.toNat : Int) → exec (.sts g a disp d ty) s =
        .next (s.slotTrap b q k.val 0x21 0 (c.tapec.zeroExtend 64))) ∧
      (c.dmode = .rev → whole = [] →
        exec (.lds g d a disp ty) s = .next (s.issued b q k (c.enter k.val (c.cbc + 2)))) ∧
      (c.dmode = .rev → whole ≠ [] → exec (.lds g d a disp ty) s =
        .next (s.issued b q k ((c.sched k.val (c.cbc + 2) (.accum (whole.map fun e =>
          ⟨e.cell, e.abf16, e.width == 2, BitVec.ofNat 32 (x / 2 ^ (8 * (e.addr - addr)) % 2 ^ (8 * e.width))⟩))).enter
          k.val (c.cbc + 2))))) ∧
  (∀ (s : State) (b : Fin 8) (q : Fin 4) (k : Fin 8) (g : Fin 16) (d a : Fin 32) (disp : Disp) (ty : Ty),
      s.Ready b q k g 3 →
      let c := s.ctx b q
      let w := scalarBytes ty
      let addr := (s.xin b q a + dispVal w disp).toNat
      addr < c.spadShare → addr % w = 0 → (dispVal w disp).toInt % w = 0 → c.covered addr w = [] →
      (c.windowHit addr w = none → exec (.sts g a disp d ty) s = .next (s.issued b q k
        ((c.sched k.val (c.cbc + 2) (.store (bytesAt addr (toBytes w (s.xin b q d).toNat)) [])).enter
          k.val (c.cbc + 2)))) ∧
      exec (.lds g d a disp ty) s = .next (s.issued b q k
        ((c.sched k.val (c.cbc + 2) (.ldx d addr w (signExt ty))).enter k.val (c.cbc + 3)))) ∧
  (∀ (s : State) (b : Fin 8) (q : Fin 4) (k : Fin 8) (g : Fin 16) (d a : Fin 32) (disp : Disp) (ty : Ty) (x : Nat),
      s.Ready b q k g 0 →
      let c := s.ctx b q
      let w := scalarBytes ty
      let addr := s.xin b q a + dispVal w disp
      addr.toNat < c.spadShare → addr.toNat % w = 0 → (dispVal w disp).toInt % w = 0 → c.dmode ≠ .off →
      c.tapeb.toNat < c.tapel.toNat → addr.toNat < c.tapel.toNat → c.tapeb.toNat < addr.toNat + w →
      x = max addr.toNat c.tapeb.toNat →
      exec (.sts g a disp d ty) s = .next (s.slotTrap b q k.val 0x0C 1 (BitVec.ofNat 64 x)))

/-- Vector loads of slot 3 where the load is not inverted (09 R211, R212, R215): the lowest active lane beyond the
share, then the alignment of the base and of a long byte displacement (07 R166), is checked; the read of the active
lanes performs two beats on (three for `vgath`) and lands at five (seven). -/
def Obligations.VectorLoads : Prop :=
  ∀ (s : State) (b : Fin 8) (q : Fin 4) (k : Fin 8) (g : Fin 16) (m : PReg) (d r : Fin 64) (a : Fin 32)
    (disp : Disp) (ty : Ty),
    let c := s.ctx b q
    let w := vecBytes ty
    let base := s.xin b q a + dispVal w disp
    let la := LaneAddrs.contig base.toNat
    let ix := LaneAddrs.indexed (s.xin b q a).toNat (s.vin b q r)
    let dest := (c.physV d).val
    let aligned := base.toNat % w = 0 ∧ (dispVal w disp).toInt % w = 0
    (s.ReadyLanes b q k g m 6 → c.dmode ≠ .rev →
      (c.LanesInShare m la w → aligned → exec (.vld g d a disp ty) s = .next (s.issued b q k
        ((c.sched k.val (c.cbc + 2) (.ldv dest m la w (signExt ty) (c.cbc + 5))).enter k.val (c.cbc + 4)))) ∧
      (c.LanesInShare m ix w → (s.xin b q a).toNat % w = 0 → exec (.vgath g d a r ty) s =
        .next (s.issued b q k
          ((c.sched k.val (c.cbc + 3) (.ldv dest m ix w (signExt ty) (c.cbc + 7))).enter k.val (c.cbc + 6))))) ∧
    (s.ReadyLanes b q k g m 0 →
      (∀ i, c.FirstBeyond m la w i →
        exec (.vld g d a disp ty) s = .next (s.slotTrap b q k.val 0x02 0 (BitVec.ofNat 64 (la.at w i)))) ∧
      (∀ i, c.FirstBeyond m ix w i →
        exec (.vgath g d a r ty) s = .next (s.slotTrap b q k.val 0x02 0 (BitVec.ofNat 64 (ix.at w i)))) ∧
      (c.LanesInShare m la w → ¬aligned →
        exec (.vld g d a disp ty) s = .next (s.slotTrap b q k.val 0x03 0 base)) ∧
      (c.LanesInShare m ix w → (s.xin b q a).toNat % w ≠ 0 →
        exec (.vgath g d a r ty) s = .next (s.slotTrap b q k.val 0x03 0 (s.xin b q a))))

/-- Vector stores and `vatom` with `DMODE` off (09 R213, R215, R216): the bytes of each active lane, at its address,
performing two beats on (three for `vscat`, and for `vatom`, whose old elements land at seven). In any mode the lowest
active lane beyond the share, then the alignment of the base and of a long byte displacement (07 R166), is checked
first. -/
def Obligations.VectorStores : Prop :=
  (∀ (s : State) (b : Fin 8) (q : Fin 4) (k : Fin 8) (g : Fin 16) (m : PReg) (d r : Fin 64) (a : Fin 32)
    (disp : Disp) (ty : Ty) (op : AtomOp) (noret : Bool) (n : Nat), s.ReadyLanes b q k g m 0 →
    let c := s.ctx b q
    let x := s.xin b q a
    let base := x + dispVal (vecBytes ty) disp
    let la := LaneAddrs.contig base.toNat
    let ix := LaneAddrs.indexed x.toNat (s.vin b q r)
    let faults (i : Instr) (l : LaneAddrs) (w : Nat) (base : Word) (aligned : Prop) : Prop :=
      (c.FirstBeyond m l w n → exec i s = .next (s.slotTrap b q k.val 0x02 0 (BitVec.ofNat 64 (l.at w n)))) ∧
      (c.LanesInShare m l w → ¬aligned → exec i s = .next (s.slotTrap b q k.val 0x03 0 base))
    faults (.vst g a disp d ty) la (vecBytes ty) base
        (base.toNat % vecBytes ty = 0 ∧ (dispVal (vecBytes ty) disp).toInt % vecBytes ty = 0) ∧
      faults (.vscat g a r d ty) ix (vecBytes ty) x (x.toNat % vecBytes ty = 0) ∧
      faults (.vatom g d a r ty op noret) ix (atomBytes ty) x (x.toNat % atomBytes ty = 0)) ∧
  ∀ (s : State) (b : Fin 8) (q : Fin 4) (k : Fin 8) (g : Fin 16) (m : PReg) (d r : Fin 64) (a : Fin 32)
    (disp : Disp) (ty : Ty) (op : AtomOp),
    s.ReadyLanes b q k g m 6 → (s.ctx b q).dmode = .off →
    let c := s.ctx b q
    let w := vecBytes ty
    let base := s.xin b q a + dispVal w disp
    let la := LaneAddrs.contig base.toNat
    let ix := LaneAddrs.indexed (s.xin b q a).toNat (s.vin b q r)
    let bytes (l : LaneAddrs) : List (Nat × Byte) := ((List.range 512).filter (act m)).flatMap fun i =>
      bytesAt (l.at w i) (toBytes w (lane (s.vin b q d) i).toNat)
    let dest := (c.physV d).val
    (c.LanesInShare m la w → base.toNat % w = 0 → (dispVal w disp).toInt % w = 0 →
      exec (.vst g a disp d ty) s = .next (s.issued b q k
        ((c.sched k.val (c.cbc + 2) (.store (bytes la) [])).enter k.val (c.cbc + 2)))) ∧
    (c.LanesInShare m ix w → (s.xin b q a).toNat % w = 0 → exec (.vscat g a r d ty) s = .next (s.issued b q k
      ((c.sched k.val (c.cbc + 3) (.store (bytes ix) [])).enter k.val (c.cbc + 3)))) ∧
    (c.LanesInShare m ix (atomBytes ty) → (s.xin b q a).toNat % atomBytes ty = 0 →
      exec (.vatom g d a r ty op true) s = .next (s.issued b q k
        ((c.sched k.val (c.cbc + 3) (.atom m ix ty op (s.vin b q d) none)).enter k.val (c.cbc + 3))) ∧
      exec (.vatom g d a r ty op false) s = .next (s.issued b q k
        ((c.sched k.val (c.cbc + 3) (.atom m ix ty op (s.vin b q d) (some dest))).enter k.val (c.cbc + 6))))

/-- Vector access in the differentiable modes (02 R79, 09 R216, R218 to R221, 12 R278). A store that covers region
elements pushes its records, or overflows: `vst` one for each distinct element in ascending address order, `vscat` one
for each pair of lane and element (that the elements of ascending lanes ascend is so wherever the enabled regions are
apart, as `dreg` has them, R275); in reverse it pops them in the reverse order, or underflows, the lanes that cover
nothing are stored, and a whole access receives the adjoint bits in the lanes that are not narrow. A load in reverse
accumulates what its lanes cover whole, and reads the lanes that cover nothing. A store that covers nothing, and
`vatom`, act as with `DMODE` off. A store or a `vatom` that would reach the closed tape window is a mode conflict with
cause 0x01, its TINFO the lowest address of the window that a lane would reach.
Where the spec leaves a reading open, the model's choice is that of log entry 21. -/
def Obligations.VectorAccessDifferentiable : Prop :=
  ∀ (s : State) (b : Fin 8) (q : Fin 4) (k : Fin 8) (g : Fin 16) (m : PReg) (d r : Fin 64) (a : Fin 32)
    (disp : Disp) (ty : Ty) (op : AtomOp),
    let c := s.ctx b q
    let w := vecBytes ty
    let base := s.xin b q a + dispVal w disp
    let la := LaneAddrs.contig base.toNat
    let ix := LaneAddrs.indexed (s.xin b q a).toNat (s.vin b q r)
    let v := s.vin b q d
    let dest := (c.physV d).val
    let lanes := (List.range 512).filter (act m)
    let cursor : Int := c.tapec.toNat + tapeMoves c.timed
    let covers (l : LaneAddrs) (i : Nat) : List Elem := c.covered (l.at w i) w
    let bytes (l : LaneAddrs) (keep : Nat → Bool) : List (Nat × Byte) := (lanes.filter keep).flatMap fun i =>
      bytesAt (l.at w i) (toBytes w (lane v i).toNat)
    let full (code : Nat) : State := s.slotTrap b q k.val code 0 (c.tapec.zeroExtend 64)
    let stores (i : Instr) (l : LaneAddrs) (recs : List (Nat × Nat × Elem)) (off lat : Nat) : Prop :=
      (∀ i ∈ lanes, c.windowHit (l.at w i) w = none) →
      let moved : Int := 8 * recs.length
      let whole := recs.any fun x => decide (x.2.2.width ≤ w)
      (c.dmode = .off ∨ recs = [] → exec i s = .next (s.issued b q k
        ((c.sched k.val (c.cbc + off) (.store (bytes l fun _ => true) [])).enter k.val (c.cbc + off)))) ∧
      (c.dmode = .fwd → recs ≠ [] → cursor + moved ≤ c.tapel.toNat → exec i s = .next (s.issued b q k
        ((c.sched k.val (c.cbc + off) (.store (bytes l fun _ => true) (recs.map fun x => x.2.2))).enter k.val
          (c.cbc + off)))) ∧
      (c.dmode = .fwd → recs ≠ [] → (c.tapel.toNat : Int) < cursor + moved → exec i s = .next (full 0x20)) ∧
      (c.dmode = .rev → recs ≠ [] → cursor - moved < (c.tapeb.toNat : Int) → exec i s = .next (full 0x21)) ∧
      (c.dmode = .rev → recs ≠ [] → c.tapeb.toNat ≤ cursor - moved → ∃ got : PReg,
        (∀ i, i < 512 → act got i = (act m i && ((covers l i).isEmpty || (covers l i).any fun e => e.width ≤ w))) ∧
        exec i s = .next (s.issued b q k ((c.sched k.val (c.cbc + off) (.revStore
          (recs.reverse.map fun x => ⟨x.2.2, decide (x.2.2.width ≤ w), x.1, 8 * (x.2.2.addr - x.2.1)⟩)
          (bytes l fun i => (covers l i).isEmpty) (if whole then some (.v dest got) else none)
          (c.cbc + lat))).enter k.val (if whole then c.cbc + lat - 1 else c.cbc + off))))
    let loads (i : Instr) (l : LaneAddrs) (off lat : Nat) : Prop :=
      let acc : List Accum := ((c.laneElems m l w).filter fun x => decide (x.2.2.width ≤ w)).map fun x =>
        ⟨x.2.2.cell, x.2.2.abf16, x.2.2.width == 2,
          BitVec.ofNat 32 ((lane v x.1).toNat / 2 ^ (8 * (x.2.2.addr - x.2.1)) % 2 ^ (8 * x.2.2.width))⟩
      let c1 := if acc = [] then c else c.sched k.val (c.cbc + off) (.accum acc)
      ((∀ i ∈ lanes, covers l i ≠ []) → exec i s = .next (s.issued b q k (c1.enter k.val (c.cbc + off)))) ∧
      ((∃ i ∈ lanes, covers l i = []) → ∃ got : PReg,
        (∀ i, i < 512 → act got i = (act m i && (covers l i).isEmpty)) ∧
        exec i s = .next (s.issued b q k ((c1.sched k.val (c.cbc + off)
          (.ldv dest got l w (signExt ty) (c.cbc + lat))).enter k.val (c.cbc + lat - 1))))
    let closed (i : Instr) (l : LaneAddrs) (w : Nat) : Prop :=
      c.dmode ≠ .off → c.LanesInShare m l w → ∀ x ∈ lanes, ∀ n, c.windowHit (l.at w x) w = some n →
        (∀ y ∈ lanes, ∀ n', c.windowHit (l.at w y) w = some n' → n ≤ n') →
        exec i s = .next (s.slotTrap b q k.val 0x0C 1 (BitVec.ofNat 64 n))
    (s.ReadyLanes b q k g m 6 →
      (c.LanesInShare m la w → base.toNat % w = 0 → (dispVal w disp).toInt % w = 0 →
        ((c.laneElems m la w).Pairwise (fun x y => x.2.2.addr ≤ y.2.2.addr) →
          ∃ recs : List (Nat × Nat × Elem), recs.Sublist (c.laneElems m la w) ∧
            recs.Pairwise (fun x y => x.2.2.addr < y.2.2.addr) ∧
            (∀ x ∈ c.laneElems m la w, ∃ y ∈ recs, y.2.2.addr = x.2.2.addr ∧ y.1 ≤ x.1) ∧
            stores (.vst g a disp d ty) la recs 2 5) ∧
        (c.dmode = .rev → loads (.vld g d a disp ty) la 2 5)) ∧
      (c.LanesInShare m ix w → (s.xin b q a).toNat % w = 0 →
        stores (.vscat g a r d ty) ix (c.laneElems m ix w) 3 7 ∧
        (c.dmode = .rev → loads (.vgath g d a r ty) ix 3 7)) ∧
      (c.LanesInShare m ix (atomBytes ty) → (s.xin b q a).toNat % atomBytes ty = 0 →
        (∀ i ∈ lanes, c.windowHit (ix.at (atomBytes ty) i) (atomBytes ty) = none) →
        exec (.vatom g d a r ty op true) s = .next (s.issued b q k
          ((c.sched k.val (c.cbc + 3) (.atom m ix ty op v none)).enter k.val (c.cbc + 3))) ∧
        exec (.vatom g d a r ty op false) s = .next (s.issued b q k
          ((c.sched k.val (c.cbc + 3) (.atom m ix ty op v (some dest))).enter k.val (c.cbc + 6))))) ∧
    (s.ReadyLanes b q k g m 0 →
      (base.toNat % w = 0 → (dispVal w disp).toInt % w = 0 → closed (.vst g a disp d ty) la w) ∧
      ((s.xin b q a).toNat % w = 0 → closed (.vscat g a r d ty) ix w) ∧
      ∀ noret, (s.xin b q a).toNat % atomBytes ty = 0 → closed (.vatom g d a r ty op noret) ix (atomBytes ty))

/-- A tagged read (02 R72, 09 R214): the lowest active lane beyond the share, then the alignment of the base, is checked
first (09 R211). Outside every landing tile, or leaving its tile, it raises the schedule fault with cause 2; the tag
expected lets it read; an older tag makes the bundle wait; a newer one raises the schedule fault with cause 1. TINFO of
cause 2 is the lowest active byte outside the tile. -/
def Obligations.TaggedRead : Prop :=
  (∀ (s : State) (b : Fin 8) (q : Fin 4) (k : Fin 8) (g : Fin 16) (m : PReg) (d : Fin 64) (a e : Fin 32)
    (disp : BitVec 8) (ty : Ty), s.ReadyLanes b q k g m 0 →
    let c := s.ctx b q
    let w := vecBytes ty
    let base := s.xin b q a + disp.signExtend 64 * BitVec.ofNat 64 w
    let la := LaneAddrs.contig base.toNat
    (∀ n, c.FirstBeyond m la w n →
      exec (.vldt g d a disp e ty) s = .next (s.slotTrap b q k.val 0x02 0 (BitVec.ofNat 64 (la.at w n)))) ∧
    (c.LanesInShare m la w → base.toNat % w ≠ 0 →
      exec (.vldt g d a disp e ty) s = .next (s.slotTrap b q k.val 0x03 0 base))) ∧
  ∀ (s : State) (b : Fin 8) (q : Fin 4) (k : Fin 8) (g : Fin 16) (m : PReg) (d : Fin 64) (a e : Fin 32)
    (disp : BitVec 8) (ty : Ty) (i : Nat), s.ReadyLanes b q k g m 4 →
    let c := s.ctx b q
    let w := vecBytes ty
    let base := s.xin b q a + disp.signExtend 64 * BitVec.ofNat 64 w
    let la := LaneAddrs.contig base.toNat
    i < 512 → act m i = true → (∀ j, j < i → act m j = false) → c.LanesInShare m la w → base.toNat % w = 0 →
    (c.tileOf (la.at w i) = none → exec (.vldt g d a disp e ty) s =
      .next (s.slotTrap b q k.val 0x0A 2 (BitVec.ofNat 64 (la.at w i)))) ∧
    (∀ t start j, c.tileOf (la.at w i) = some t → c.tiles[t]? = some start → j < 512 → act m j = true →
      start + 4096 < la.at w j + w → (∀ n, n < j → act m n = true → la.at w n + w ≤ start + 4096) →
      exec (.vldt g d a disp e ty) s =
        .next (s.slotTrap b q k.val 0x0A 2 (BitVec.ofNat 64 (max (la.at w j) (start + 4096))))) ∧
    ∀ t start, c.tileOf (la.at w i) = some t → c.tiles[t]? = some start →
      (∀ j, j < 512 → act m j = true → start ≤ la.at w j ∧ la.at w j + w ≤ start + 4096) →
      let dist := ((s.xin b q e).truncate 32 - mapGet 0 c.tags t : BitVec 32).toNat
      (dist = 0 → exec (.vldt g d a disp e ty) s = .next (s.issued b q k
        ((c.sched k.val (c.cbc + 2) (.ldv (c.physV d).val m la w (signExt ty) (c.cbc + 5))).enter k.val
          (c.cbc + 4)))) ∧
      (0 < dist → dist < 2 ^ 31 → exec (.vldt g d a disp e ty) s =
        .next { s.setCtx b q { c with phase := .split k } with cur := none }) ∧
      (2 ^ 31 ≤ dist → exec (.vldt g d a disp e ty) s = .next (s.slotTrap b q k.val 0x0A 1
        (BitVec.ofNat 64 ((mapGet 0 c.tags t).toNat + t * 2 ^ 32))))

/-! ### Slots 4 and 5 -/

/-- Vector arithmetic (09 R200, R201): integers wrap, floating results are the exact value rounded once (`fpLane`),
the product of `vfma` not rounded; sums land two beats on, products four, on the active lanes alone. Lanes are 32-bit
fields of a register (09 R197), and a masked write changes the lanes of its mask alone (09 R199). The numbers behind
them (03 R86, R87, R102): what each code of FP32 and BF16 denotes, one rounding to nearest with ties to even, with
subnormals, overflow to an infinity and the one canonical NaN, and the exact sum, product and negation of two values
with their special cases. -/
def Obligations.VectorArithmetic : Prop :=
  (∀ x : BitVec 32,
    let E : Nat := x.toNat / 2 ^ 23 % 256
    let m := x.toNat % 2 ^ 23
    let n := x.getLsbD 31
    f32v x = (if E = 255 then (if m = 0 then .inf n else .nan)
      else if E = 0 then .fin n m (-149) else .fin n (2 ^ 23 + m) ((E : Int) - 150)) ∧
    (f32v x ≠ .nan → toF32 (f32v x) = x)) ∧
  (∀ x : Nat, x < 2 ^ 16 →
    let E : Nat := x / 2 ^ 7 % 256
    let m := x % 2 ^ 7
    let n := x.testBit 15
    b16v x = (if E = 255 then (if m = 0 then .inf n else .nan)
      else if E = 0 then .fin n m (-133) else .fin n (2 ^ 7 + m) ((E : Int) - 134)) ∧
    (b16v x ≠ .nan → bf16.encode (b16v x) = x)) ∧
  ((∀ v, toF32 v = BitVec.ofNat 32 (fp32.encode v)) ∧ fp32.encode .nan = 0x7FC0_0000 ∧ bf16.encode .nan = 0x7FC0 ∧
    fp32.encode (.inf false) = 0x7F80_0000 ∧ fp32.encode (.inf true) = 0xFF80_0000 ∧
    bf16.encode (.inf false) = 0x7F80 ∧ bf16.encode (.inf true) = 0xFF80) ∧
  (∀ F ∈ [fp32, bf16], ∀ (n : Bool) (m k r : Nat) (e : Int),
    F.encode (.fin n (m * 2 ^ k) e) = F.encode (.fin n m (e + k)) ∧
    (m < 2 ^ (F.mb + 1) → r < 2 ^ k → F.qmin ≤ e + k → (2 ^ F.mb ≤ m ∨ e + k = F.qmin) →
      F.encode (.fin n (m * 2 ^ k + r) e) =
        F.encode (.fin n (if 2 * r < 2 ^ k ∨ (2 * r = 2 ^ k ∧ m % 2 = 0) then m else m + 1) (e + k))) ∧
    (m ≠ 0 → 128 ≤ e + Nat.log2 m → F.encode (.fin n m e) = F.encode (.inf n))) ∧
  (∀ (v : FV) (a b : Bool) (m m' : Nat) (e e' : Int),
    let num (n : Bool) (k : Nat) : Int := if n then -(k : Int) else k
    FV.add .nan v = .nan ∧ v.add .nan = .nan ∧ FV.mul .nan v = .nan ∧ v.mul .nan = .nan ∧ FV.neg .nan = .nan ∧
    (FV.inf a).add (.inf b) = (if a = b then .inf a else .nan) ∧ (FV.inf a).add (.fin b m e) = .inf a ∧
    (FV.fin a m e).add (.inf b) = .inf b ∧ (FV.inf a).mul (.inf b) = .inf (a != b) ∧
    (FV.inf a).mul (.fin b m e) = (if m = 0 then .nan else .inf (a != b)) ∧
    (FV.fin a m e).mul (.inf b) = (if m = 0 then .nan else .inf (a != b)) ∧
    (FV.fin a m e).mul (.fin b m' e') = .fin (a != b) (m * m') (e + e') ∧
    (FV.inf a).neg = .inf (!a) ∧ (FV.fin a m e).neg = .fin (!a) m e ∧
    ∃ n k, (FV.fin a m e).add (.fin b m' e') = .fin n k (min e e') ∧
      num n k = num a (m * 2 ^ (e - min e e').toNat) + num b (m' * 2 ^ (e' - min e e').toNat) ∧
      (k = 0 → n = (a && b))) ∧
  (∀ f : (BitVec 32 → FV) → FV, fpLane .f32 f = toF32 (f f32v) ∧
    fpLane .bf16 f = BitVec.ofNat 32 (bf16.encode (f fun x => b16v x.toNat) +
      2 ^ 16 * bf16.encode (f fun x => b16v (x.toNat / 2 ^ 16)))) ∧
  (∀ (m : PReg) (f : Nat → BitVec 32) (old new : VReg) (i : Nat), i < 512 →
    lane (ofLanes f) i = f i ∧ lane old i = old.extractLsb' (32 * i) 32 ∧
      lane (mergeLanes m old new) i = (if m.getLsbD i then lane new i else lane old i) ∧
      ∀ p p' : PReg, (mergeBits m p p').getLsbD i = (if m.getLsbD i then p'.getLsbD i else p.getLsbD i)) ∧
  ∀ (s : State) (b : Fin 8) (q : Fin 4) (k : Fin 8) (g : Fin 16) (m : PReg) (d u v w : Fin 64) (ty : Ty),
    let A (i : Nat) := lane (s.vin b q u) i
    let B (i : Nat) := lane (s.vin b q v) i
    let C (i : Nat) := lane (s.vin b q w) i
    (s.ReadyLanes b q k g m 1 → ty = .s32 ∨ ty = .n32 →
      exec (.vadd g d u v ty) s = .next (s.givingLanes b q k m d 2 fun i => A i + B i) ∧
      exec (.vsub g d u v ty) s = .next (s.givingLanes b q k m d 2 fun i => A i - B i)) ∧
    (s.ReadyLanes b q k g m 3 → ty = .s32 ∨ ty = .n32 →
      exec (.vmul g d u v ty) s = .next (s.givingLanes b q k m d 4 fun i => A i * B i) ∧
      exec (.vfma g d u v w ty) s = .next (s.givingLanes b q k m d 4 fun i => A i * B i + C i)) ∧
    (s.ReadyLanes b q k g m 1 → ty = .f32 ∨ ty = .bf16 →
      exec (.vadd g d u v ty) s =
        .next (s.givingLanes b q k m d 2 fun i => fpLane ty fun r => (r (A i)).add (r (B i))) ∧
      exec (.vsub g d u v ty) s =
        .next (s.givingLanes b q k m d 2 fun i => fpLane ty fun r => (r (A i)).add (r (B i)).neg)) ∧
    (s.ReadyLanes b q k g m 3 → ty = .f32 ∨ ty = .bf16 →
      exec (.vmul g d u v ty) s =
        .next (s.givingLanes b q k m d 4 fun i => fpLane ty fun r => (r (A i)).mul (r (B i))) ∧
      exec (.vfma g d u v w ty) s =
        .next (s.givingLanes b q k m d 4 fun i => fpLane ty fun r => ((r (A i)).mul (r (B i))).add (r (C i))))

/-- `vmin`, `vmax` and `vabs` (09 R201, R202): signed for `.s32`, unsigned for `.n32`, on values for the floating
types; the magnitude of -2^31 wraps to itself. On values the order is that of the numbers, a NaN gives NaN, -0 is the
smaller zero and +0 the larger. `vsel`, `vbcast` and `vperm` (09 R204 to R206): a lane of one source
or the other by the predicate; the low bits of a scalar in every lane, twice for `.bf16`; the lane that the low 9
bits of V[B]'s lane name. -/
def Obligations.VectorMinMaxAbsMoves : Prop :=
  (∀ (v w : FV) (a b : Bool) (m m' : Nat) (e e' : Int),
    let num (n : Bool) (k : Nat) : Int := if n then -(k : Int) else k
    (FV.lt .nan v = false ∧ v.lt .nan = false ∧ (FV.inf a).lt (.inf b) = (a && !b) ∧ (FV.inf a).lt (.fin b m e) = a ∧
      (FV.fin a m e).lt (.inf b) = !b ∧
      ((FV.fin a m e).lt (.fin b m' e') = true ↔
        num a (m * 2 ^ (e - min e e').toNat) < num b (m' * 2 ^ (e' - min e e').toNat))) ∧
    (v = .nan ∨ w = .nan → v.min w = .nan ∧ v.max w = .nan) ∧
    (v.lt w = true → v.min w = v ∧ v.max w = w ∧ w.min v = v ∧ w.max v = w) ∧
    v.min v = v ∧ v.max v = v ∧
    (v ≠ .nan → w ≠ .nan → v.lt w = false → w.lt v = false →
      (v.min w = v ∨ v.min w = w) ∧ (v.max w = v ∨ v.max w = w)) ∧
    (FV.fin a 0 e).min (.fin (!a) 0 e') = (if a then .fin true 0 e else .fin true 0 e') ∧
    (FV.fin a 0 e).max (.fin (!a) 0 e') = (if a then .fin false 0 e' else .fin false 0 e) ∧
    FV.abs .nan = .nan ∧ (FV.inf a).abs = .inf false ∧ (FV.fin a m e).abs = .fin false m e) ∧
  (∀ (s : State) (b : Fin 8) (q : Fin 4) (k : Fin 8) (g : Fin 16) (m : PReg) (d u v : Fin 64) (ty : Ty),
      s.ReadyLanes b q k g m 1 →
      let A (i : Nat) := lane (s.vin b q u) i
      let B (i : Nat) := lane (s.vin b q v) i
      (exec (.vmin g d u v .s32) s =
          .next (s.givingLanes b q k m d 2 fun i => BitVec.ofInt 32 (min (A i).toInt (B i).toInt)) ∧
        exec (.vmax g d u v .s32) s =
          .next (s.givingLanes b q k m d 2 fun i => BitVec.ofInt 32 (max (A i).toInt (B i).toInt)) ∧
        exec (.vmin g d u v .n32) s =
          .next (s.givingLanes b q k m d 2 fun i => BitVec.ofNat 32 (min (A i).toNat (B i).toNat)) ∧
        exec (.vmax g d u v .n32) s =
          .next (s.givingLanes b q k m d 2 fun i => BitVec.ofNat 32 (max (A i).toNat (B i).toNat)) ∧
        exec (.vabs g d u .s32) s =
          .next (s.givingLanes b q k m d 2 fun i => BitVec.ofNat 32 (A i).toInt.natAbs)) ∧
      (ty = .f32 ∨ ty = .bf16 →
        exec (.vmin g d u v ty) s =
          .next (s.givingLanes b q k m d 2 fun i => fpLane ty fun r => (r (A i)).min (r (B i))) ∧
        exec (.vmax g d u v ty) s =
          .next (s.givingLanes b q k m d 2 fun i => fpLane ty fun r => (r (A i)).max (r (B i))) ∧
        exec (.vabs g d u ty) s = .next (s.givingLanes b q k m d 2 fun i => fpLane ty fun r => (r (A i)).abs))) ∧
  (∀ (s : State) (b : Fin 8) (q : Fin 4) (k : Fin 8) (g e : Fin 16) (m : PReg) (d u v : Fin 64) (a : Fin 32)
      (ty : Ty),
      (s.ReadyLanes b q k g m 1 →
        exec (.vsel g d e u v ty) s = .next (s.givingLanes b q k m d 2 fun i =>
          if ((s.ctx b q).view.pr e).getLsbD i then lane (s.vin b q u) i else lane (s.vin b q v) i) ∧
        (ty ≠ .bf16 → exec (.vbcast g d a ty) s =
          .next (s.givingLanes b q k m d 2 fun _ => (s.xin b q a).truncate 32)) ∧
        exec (.vbcast g d a .bf16) s = .next (s.givingLanes b q k m d 2 fun _ =>
          (s.xin b q a).truncate 16 ++ ((s.xin b q a).truncate 16 : BitVec 16))) ∧
      (s.ReadyLanes b q k g m 3 → exec (.vperm g d u v ty) s = .next (s.givingLanes b q k m d 4 fun i =>
        lane (s.vin b q u) ((lane (s.vin b q v) i).toNat % 512))))

/-- `vcmp` writes the active lanes of a predicate pair, the second complemented (09 R203); `vcvt` converts the low
element of each active lane, and its counter receives the clips of those lanes at the beat at which the result lands
(09 R207, R208); `vredadd` reduces the active lanes to a scalar at ten beats (09 R210). The transcendentals (09 R209,
03 R105 to R108): the function of the chapter on each active lane, or on both halves of a packed lane, eight beats on.
Behind them: what each comparison of each type holds of; the conversion of 03 R91 to R93, which clips, counts and
rounds by the destination's width, and the magnitude that enters AMAX; the tree of 03 R103; and the four functions,
their special cases and their reference algorithms with the constants and the entries of their tables. -/
def Obligations.VectorCompareConvertReduceTranscend : Prop :=
  ([log2B1, log2B2, log2B3, log2B4].map BitVec.toNat = [0x3FB8_AA3B, 0xBF38_AA3B, 0x3EF6_384F, 0xBEB8_AA3B] ∧
    (∀ j, j < 64 → ∃ m, 2 ^ 23 ≤ m ∧ m < 2 ^ 24 ∧ exp2Table.getD j 0 = 126 * 2 ^ 23 + m ∧
      (2 * m - 1) ^ 64 < 2 ^ (64 * 24 + j) ∧ 2 ^ (64 * 24 + j) < (2 * m + 1) ^ 64) ∧
    (∀ j, j < 128 → ∃ m, 2 ^ 23 ≤ m ∧ m < 2 ^ 24 ∧ rcpTable.getD j 0 = 125 * 2 ^ 23 + m ∧
      (2 * m - 1) * (257 + 2 * j) < 2 ^ 33 ∧ 2 ^ 33 < (2 * m + 1) * (257 + 2 * j)) ∧
    (∀ j, j < 128 → ∃ m, 2 ^ 23 ≤ m ∧ m < 2 ^ 24 ∧ rsqTable.getD j 0 = 125 * 2 ^ 23 + m ∧
      (2 * m - 1) ^ 2 * (129 + 2 * (j % 64)) < 2 ^ (57 - j / 64) ∧
      2 ^ (57 - j / 64) < (2 * m + 1) ^ 2 * (129 + 2 * (j % 64))) ∧
    (∀ j, j < 96 → ∃ m, 2 ^ 23 ≤ m ∧ m < 2 ^ 24 ∧
      let h := if j < 33 then 1 else 0
      log2RTable.getD j 0 = (125 + h) * 2 ^ 23 + m ∧
      (j = 31 ∨ j = 32 → m = 2 ^ 23 ∧ log2LTable.getD j 0 = 0) ∧
      (j ≠ 31 → j ≠ 32 → (2 * m - 1) * (193 + 2 * j) < 2 ^ (33 - h) ∧ 2 ^ (33 - h) < (2 * m + 1) * (193 + 2 * j) ∧
        ∃ (n e : Nat), f32v (tabAt log2LTable j) = .fin (decide (j < 31)) n (-(e : Int)) ∧
          let l := n * 2 ^ 12 / 2 ^ e
          if j < 31 then 2 ^ (23 * 2 ^ 12 + l) ≤ m ^ 2 ^ 12 ∧ m ^ 2 ^ 12 ≤ 2 ^ (23 * 2 ^ 12 + l + 1)
          else m ^ 2 ^ 12 * 2 ^ l ≤ 2 ^ (24 * 2 ^ 12) ∧ 2 ^ (24 * 2 ^ 12) ≤ m ^ 2 ^ 12 * 2 ^ (l + 1)))) ∧
  (∀ x y : BitVec 32,
    let v := f32v x
    let w := f32v y
    let same : Prop := v ≠ .nan ∧ w ≠ .nan ∧ v.lt w = false ∧ w.lt v = false
    ([VCond.eq, .ne, .lt, .le, .gt, .ge, .un].map (vcondHolds .s32 · x y) =
      [decide (x = y), decide (x ≠ y), decide (x.toInt < y.toInt), decide (x.toInt ≤ y.toInt),
        decide (y.toInt < x.toInt), decide (y.toInt ≤ x.toInt), false]) ∧
    ([VCond.eq, .ne, .lt, .le, .gt, .ge, .un].map (vcondHolds .n32 · x y) =
      [decide (x = y), decide (x ≠ y), decide (x.toNat < y.toNat), decide (x.toNat ≤ y.toNat),
        decide (y.toNat < x.toNat), decide (y.toNat ≤ x.toNat), false]) ∧
    (vcondHolds .f32 .eq x y = true ↔ same) ∧ (vcondHolds .f32 .ne x y = true ↔ ¬same) ∧
    vcondHolds .f32 .lt x y = v.lt w ∧ vcondHolds .f32 .gt x y = w.lt v ∧
    (vcondHolds .f32 .le x y = true ↔ v.lt w = true ∨ same) ∧ (vcondHolds .f32 .ge x y = true ↔ w.lt v = true ∨ same) ∧
    (vcondHolds .f32 .un x y = true ↔ v = .nan ∨ w = .nan)) ∧
  ([Ty.f32, .bf16, .e4m3, .e5m2, .s8, .s16, .s32, .n8, .n16, .n32, .mx4, .mx6, .mx8].map dstOf =
      [.flt fp32, .flt bf16, .flt fe4m3, .flt fe5m2, .int 8 true, .int 16 true, .int 32 true, .int 8 false,
        .int 16 false, .int 32 false, .int 4 true, .int 6 true, .int 8 true] ∧
    (∀ (F : FFmt) (ty : Ty) (n : Nat), dstOf ty = .flt F → elemVal ty n = F.decode n) ∧
    (∀ (w n : Nat) (sgn : Bool) (ty : Ty), dstOf ty = .int w sgn → n < 2 ^ w → ∃ neg m, elemVal ty n = .fin neg m 0 ∧
      (if neg then -(m : Int) else m) = if sgn = true ∧ 2 ^ (w - 1) ≤ n then (n : Int) - 2 ^ w else n) ∧
    (∀ F ∈ [fe4m3, fe5m2], ∀ n, n < 2 ^ 8 →
      let c := n % 2 ^ 7
      F.decode n = (if c = F.maxCode + 1 ∧ F.hasInf = true then .inf (n.testBit 7) else if F.maxCode < c then .nan
        else if c < 2 ^ F.mb then .fin (n.testBit 7) c F.qmin
        else .fin (n.testBit 7) (2 ^ F.mb + c % 2 ^ F.mb) (F.qmin + (c / 2 ^ F.mb : Nat) - 1))) ∧
    fe4m3.decode 0x7E = .fin false 14 5 ∧ fe5m2.decode 0x7B = .fin false 7 13 ∧
    fp32.decode 0x7F7F_FFFF = .fin false (2 ^ 24 - 1) 104 ∧ bf16.decode 0x7F7F = .fin false (2 ^ 8 - 1) 120) ∧
  (∀ (ty src : Ty) (x : BitVec 32),
    laneCvt ty src x = convert (elemVal src (x.toNat % 2 ^ tyBits src)) (some 0) (dstOf ty) false) ∧
  (∀ F ∈ [fp32, bf16, fe4m3, fe5m2], ∀ (n z : Bool) (m k r : Nat) (e x : Int) (v : FV) (w : Nat) (sgn : Bool),
    let go (v : FV) : Conv := convert v (some 0) (.flt F) z
    let big (m : Nat) (e : Int) : Prop := (F.decode F.maxCode).lt (.fin false m e) = true
    go .nan = ⟨F.nan, false, none⟩ ∧ convert v none (.flt F) z = ⟨F.nan, false, none⟩ ∧
    convert v none (.int w sgn) z = ⟨0, true, none⟩ ∧ convert .nan (some x) (.int w sgn) z = ⟨0, true, none⟩ ∧
    go (.inf n) = ⟨(if n then 2 ^ (F.width - 1) else 0) + F.maxCode, true, some 0x7F80_0000⟩ ∧
    (∀ d, convert (.fin n m e) (some x) d z = convert (.fin n m (e + x)) (some 0) d z) ∧
    (big m e → (go (.fin n m e)).sat = true ∧
      (go (.fin n m e)).out = (if n then 2 ^ (F.width - 1) else 0) + F.maxCode) ∧
    (¬big m e → (go (.fin n m e)).sat = false ∧
      (z = true → m ≠ 0 → (FV.fin false m e).lt (.fin false 1 (F.qmin + F.mb)) = true →
        (go (.fin n m e)).out = if n then 2 ^ (F.width - 1) else 0) ∧
      (z = false → 16 ≤ F.width → (go (.fin n m e)).out = F.encode (.fin n m e))) ∧
    (z = false → F.width < 16 → ¬big (m * 2 ^ k + r) e → m < 2 ^ (F.mb + 1) → r < 2 ^ k → F.qmin ≤ e + k →
      (2 ^ F.mb ≤ m ∨ e + k = F.qmin) →
      (go (.fin n (m * 2 ^ k + r) e)).out =
        (go (.fin n (if 2 * r < 2 ^ k then m else m + 1) (e + k))).out) ∧
    (z = false → r ≤ F.maxCode → (go (F.decode r)).out = r) ∧
    (∀ d, m < 2 ^ 24 → r < 2 ^ k → -149 ≤ e + k → (2 ^ 23 ≤ m ∨ e + k = -149) →
      (convert (.fin n (m * 2 ^ k + r) e) (some 0) d z).amax =
        some (fp32.encode (.fin false (if r = 0 then m else m + 1) (e + k))))) ∧
  (∀ (n sgn z : Bool) (w m j : Nat), 0 < w →
    let lim := if sgn then (if n then 2 ^ (w - 1) else 2 ^ (w - 1) - 1) else if n then 0 else 2 ^ w - 1
    let code (k : Nat) : Nat := if n then (2 ^ w - k) % 2 ^ w else k
    let y := convert (.fin n m (-(j : Int))) (some 0) (.int w sgn) z
    let up := if w < 16 then j ≠ 0 ∧ 2 ^ j ≤ 2 * (m % 2 ^ j)
      else 2 ^ j < 2 * (m % 2 ^ j) ∨ (2 ^ j = 2 * (m % 2 ^ j) ∧ m / 2 ^ j % 2 = 1)
    (lim * 2 ^ j < m → y.sat = true ∧ y.out = code lim) ∧
    (m ≤ lim * 2 ^ j → y.sat = false ∧ (up → y.out = code (m / 2 ^ j + 1)) ∧ (¬up → y.out = code (m / 2 ^ j))) ∧
    (convert (.inf n) (some 0) (.int w sgn) z).out = code lim ∧
    convert (.fin n m j) (some 0) (.int w sgn) z = convert (.fin n (m * 2 ^ j) 0) (some 0) (.int w sgn) z) ∧
  (∀ l : List Conv, (convSums l).1 = (l.filter (·.sat)).length ∧
    (∀ x ∈ l, x.amax.getD 0 ≤ (convSums l).2) ∧ ((convSums l).2 = 0 ∨ ∃ x ∈ l, x.amax = some (convSums l).2)) ∧
  (∀ n : Nat, cvtLane .s8 n = (BitVec.ofNat 8 n).signExtend 32 ∧ cvtLane .s16 n = (BitVec.ofNat 16 n).signExtend 32 ∧
    (∀ ty ∈ [Ty.s32, .n32, .f32], cvtLane ty n = BitVec.ofNat 32 n) ∧
    (∀ ty ∈ [Ty.n16, .bf16], cvtLane ty n = BitVec.ofNat 32 (n % 2 ^ 16)) ∧
    ∀ ty ∈ [Ty.n8, .e4m3, .e5m2], cvtLane ty n = BitVec.ofNat 32 (n % 2 ^ 8)) ∧
  (∀ (f : Nat → BitVec 32) (l i : Nat), treeAdd f 0 i = f i ∧
    treeAdd f (l + 1) i = toF32 ((f32v (treeAdd f l (2 * i))).add (f32v (treeAdd f l (2 * i + 1))))) ∧
  (∀ x : BitVec 32,
    let v := f32v x
    let inf (n : Bool) : BitVec 32 := if n then 0xFF80_0000#32 else 0x7F80_0000#32
    let nan := 0x7FC0_0000#32
    (v = .nan → exp2 x = nan ∧ log2 x = nan ∧ rcp x = nan ∧ rsq x = nan) ∧
    (v ≠ .nan → v.lt (.fin false 128 0) = false → exp2 x = inf false) ∧
    (v.lt (.fin true 150 0) = true → exp2 x = 0) ∧
    (v.lt (.fin false 0 0) = true → log2 x = nan ∧ rsq x = nan) ∧
    (x = 0 ∨ x = 0x8000_0000#32 → log2 x = inf true ∧ rcp x = inf (x.getLsbD 31) ∧ rsq x = inf (x.getLsbD 31)) ∧
    (v = .inf false → log2 x = inf false ∧ rcp x = 0 ∧ rsq x = 0) ∧ (v = .inf true → rcp x = 0x8000_0000#32) ∧
    (∀ neg m e (k : Int), v = .fin neg m e → v.lt (.fin false 128 0) = true → v.lt (.fin true 150 0) = false →
      let num : Int := if neg then -(m : Int) else m
      let off := 2 * num * 2 ^ (e + 6).toNat - 2 * k * 2 ^ (-(e + 6)).toNat
      off.natAbs < 2 ^ (-(e + 6)).toNat ∨ (off.natAbs = 2 ^ (-(e + 6)).toNat ∧ k % 2 = 0) →
      let r := toF32 (v.add (.fin (!neg) k.natAbs (-6)))
      let p := f32Mul (f32Fma (f32Fma 0x3D63_5847#32 r 0x3E75_FDF0#32) r 0x3F31_7218#32) r
      let t := tabAt exp2Table (k % 64).toNat
      exp2 x = toF32 ((f32v (f32Fma t p t)).scale (k / 64))) ∧
    (∀ neg m e (n : Nat), v = .fin neg m e → 2 ^ 23 ≤ m * 2 ^ n → m * 2 ^ n < 2 ^ 24 →
      let sg := m * 2 ^ n
      let k : Int := e + 23 - n
      let one := 0x3F80_0000#32
      (neg = false →
        let up : Nat := if 3 * 2 ^ 22 ≤ sg then 1 else 0
        let y := 2 * sg / 2 ^ up
        let j := (y - 3 * 2 ^ 22) / 2 ^ 17
        let r := f32Fma (toF32 (.fin false y (-24))) (tabAt log2RTable j) 0xBF80_0000#32
        let p := f32Fma (f32Fma (f32Fma log2B4 r log2B3) r log2B2) r log2B1
        log2 x = f32Add (toF32 (.fin (decide (k + up < 0)) (k + up).natAbs 0)) (f32Fma p r (tabAt log2LTable j))) ∧
      (let mm := toF32 (.fin true sg (-23))
       let more (y : BitVec 32) : BitVec 32 := f32Fma y (f32Fma mm y one) y
       let y := (f32v (more (more (tabAt rcpTable (sg / 2 ^ 16 % 128))))).scale (-k)
       rcp x = toF32 (if neg then y.neg else y)) ∧
      (neg = false →
        let odd := k % 2
        let mm := toF32 (.fin true sg (odd - 23))
        let more (y : BitVec 32) : BitVec 32 := f32Fma (f32Mul y 0x3F00_0000#32) (f32Fma mm (f32Mul y y) one) y
        let j := 64 * odd.toNat + sg / 2 ^ 17 % 64
        rsq x = toF32 ((f32v (more (more (tabAt rsqTable j)))).scale (-((k - odd) / 2))))) ∧
    ∀ f : BitVec 32 → BitVec 32, onHalves f x = BitVec.ofNat 32 (bf16.encode (f32v (f (toF32 (b16v x.toNat)))) +
      2 ^ 16 * bf16.encode (f32v (f (toF32 (b16v (x.toNat / 2 ^ 16))))))) ∧
  (∀ (s : State) (b : Fin 8) (q : Fin 4) (k : Fin 8) (g e : Fin 16) (m : PReg) (u v d : Fin 64) (x : Fin 32)
      (ty src : Ty) (cond : VCond) (n : Fin 16),
      let c := s.ctx b q
      let A (i : Nat) := lane (s.vin b q u) i
      let active := (List.range 512).filter (act m)
      (s.ReadyLanes b q k g m 1 → e.val % 2 = 0 → ∃ r : PReg,
        (∀ i, i < 512 → r.getLsbD i = vcondHolds ty cond (A i) (lane (s.vin b q v) i)) ∧
        exec (.vcmp g e u v ty cond) s = .next (s.issued b q k
          (((c.sched k.val (c.cbc + 2) (.pw (c.physP e).val m r)).sched k.val (c.cbc + 2)
            (.pw (c.physP (e + 1)).val m (BitVec.allOnes 512 ^^^ r))).enter k.val (c.cbc + 1)))) ∧
      (s.ReadyLanes b q k g m 2 →
        let conv (i : Nat) := laneCvt ty src (A i)
        exec (.vcvt g d u ty src n) s = .next (s.issued b q k
          ((c.vresult k.val m d 3 fun i => cvtLane ty (conv i).out).sched k.val (c.cbc + 3)
            (.cnt n (convSums (active.map conv)).1 (BitVec.ofNat 32 (convSums (active.map conv)).2))))) ∧
      (s.ReadyLanes b q k g m 9 →
        exec (.vredadd g x u .n32) s = .next (s.giving b q k x 10
          (BitVec.ofNat 64 ((active.map fun i => (A i).toNat).sum % 2 ^ 32))) ∧
        exec (.vredadd g x u .s32) s = .next (s.giving b q k x 10
          (BitVec.ofInt 64 (BitVec.ofInt 32 (active.map fun i => (A i).toInt).sum).toInt)) ∧
        exec (.vredadd g x u .f32) s = .next (s.giving b q k x 10
          ((treeAdd (fun i => if act m i then A i else 0) 9 0).zeroExtend 64)))) ∧
  (∀ (s : State) (b : Fin 8) (q : Fin 4) (k : Fin 8) (g : Fin 16) (m : PReg) (d u : Fin 64),
      s.ReadyLanes b q k g m 7 →
      let A (i : Nat) := lane (s.vin b q u) i
      (exec (.vexp2 g d u .f32) s = .next (s.givingLanes b q k m d 8 fun i => exp2 (A i)) ∧
        exec (.vlog2 g d u .f32) s = .next (s.givingLanes b q k m d 8 fun i => log2 (A i)) ∧
        exec (.vrcp g d u .f32) s = .next (s.givingLanes b q k m d 8 fun i => rcp (A i)) ∧
        exec (.vrsq g d u .f32) s = .next (s.givingLanes b q k m d 8 fun i => rsq (A i))) ∧
      (exec (.vexp2 g d u .bf16) s = .next (s.givingLanes b q k m d 8 fun i => onHalves exp2 (A i)) ∧
        exec (.vlog2 g d u .bf16) s = .next (s.givingLanes b q k m d 8 fun i => onHalves log2 (A i)) ∧
        exec (.vrcp g d u .bf16) s = .next (s.givingLanes b q k m d 8 fun i => onHalves rcp (A i)) ∧
        exec (.vrsq g d u .bf16) s = .next (s.givingLanes b q k m d 8 fun i => onHalves rsq (A i))))

/-! ### Slot 6 -/

/-- `sarm` (10 R225, R226): a descriptor that the image does not hold raises cause 0x0E, and one that contradicts
itself the cause that the table gives; otherwise the stream register receives, one beat on, the descriptor with its
base moved by X[A] modulo 2^52 and ARMED set. The table of 10 R226 stands in the order in which its causes are checked,
over the fields of 10 R223 and the lines of 10 R224.
Where the spec leaves a reading open, the model's choice is that of log entry 23. -/
def Obligations.ArmStream : Prop :=
  (∀ (w : BitVec 192) (base share tiles : Nat),
    let bits (i n : Nat) : Nat := w.toNat / 2 ^ i % 2 ^ n
    let global := w.getLsbD 52
    let layout := bits 53 2
    let fmt := bits 55 4
    let tr := w.getLsbD 59
    let prec := bits 61 2
    let rows := bits 64 16
    let cols := bits 80 16
    let stride := bits 96 32
    let scsrc := bits 128 2
    let scbase := bits 132 27
    let stage := bits 160 11
    let nst := bits 171 5
    let mx := fmt = 11 ∨ fmt = 12 ∨ fmt = 13
    let planes := if fmt = 11 then 2 else if fmt = 12 then 3 else if fmt = 13 then 4 else 0
    let width := if fmt = 11 then 4 else if fmt = 12 then 6 else if fmt ∈ [1, 4, 9, 10, 13] then 8
      else if fmt ∈ [2, 5, 8] then 16 else 32
    let stored := if layout = 1 then cols else rows
    let nblk := (cols + 31) / 32
    let lineBytes := if layout = 2 then
        (if fmt = 11 then 32 * ((nblk + 1) / 2) else if fmt = 12 then 96 * ((nblk + 3) / 4) else 32 * nblk)
      else ((if layout = 1 then rows else cols) * width + 7) / 8
    let scales := (if tr then cols else rows) * (((if tr then rows else cols) + 31) / 32)
    let unit := if global then 64 else 32
    let across : Prop := (layout = 1 ∧ tr = false) ∨ (layout ≠ 1 ∧ tr = true)
    let causes : List (Bool × Nat) := [
      (decide (w.getLsbD 63 = true ∨ bits 130 2 ≠ 0 ∨ w.getLsbD 159 = true ∨ bits 176 16 ≠ 0 ∨ layout = 3 ∨ prec = 3 ∨
        scsrc = 3 ∨ fmt = 0 ∨ 14 ≤ fmt), 0x0D),
      (decide ((layout = 2 ∧ (¬mx ∨ global = true)) ∨ (layout ≠ 2 ∧ fmt = 12)), 0x01),
      (decide (rows = 0 ∨ cols = 0), 0x02), (decide (1 < stored ∧ stride < lineBytes), 0x03),
      (decide (base % unit ≠ 0), 0x04), (decide (stride % unit ≠ 0), 0x05),
      (decide (global = false ∧ across ∧ 1 < stored ∧ ¬(stride % 512 = 0 ∧ stride / 512 % 2 = 1)), 0x06),
      (decide ((if global then 2 ^ 52 else share) < base + (stored - 1) * stride + lineBytes), 0x07),
      (decide (prec ≠ 0 ∧ (layout ≠ 2 ∨ planes < prec + 1)), 0x08), (decide (tr = true ∧ layout = 2), 0x09),
      (decide ((mx ∧ scsrc = 0) ∨ (¬mx ∧ fmt ≠ 9 ∧ fmt ≠ 10 ∧ scsrc ≠ 0) ∨ (scsrc = 1 ∧ share < scbase + scales)),
        0x0A),
      (decide (scsrc = 2 ∧ 128 < scales), 0x0B),
      (decide (if global then nst < 2 ∨ tiles < stage + nst else nst ≠ 0 ∨ stage ≠ 0), 0x0C)]
    ({ strm w with base := base } : Strm).cause (strmReserved w) share tiles =
      (causes.find? (·.1)).map (·.2)) ∧
  ∀ (s : State) (b : Fin 8) (q : Fin 4) (k : Fin 8) (g n : Fin 16) (idx : BitVec 12) (a : Fin 32),
    s.Ready b q k g 0 →
    let c := s.ctx b q
    let bad (cause : Nat) := s.slotTrap b q k.val 0x06 cause (BitVec.ofNat 64 n.val)
    (c.streams[idx.toNat]? = none → exec (.sarm g n idx a) s = .next (bad 0x0E)) ∧
    ∀ w, c.streams[idx.toNat]? = some w →
      let base := (w.toNat + (s.xin b q a).toNat) % 2 ^ 52
      let fault := ({ strm w with base := base } : Strm).cause (strmReserved w) c.spadShare c.tiles.length
      (∀ e, fault = some e → exec (.sarm g n idx a) s = .next (bad e)) ∧
      (fault = none → ∃ x : BitVec 192,
        x.toNat % 2 ^ 52 = base ∧ x.toNat / 2 ^ 52 = w.toNat / 2 ^ 52 + 2 ^ 139 ∧
        exec (.sarm g n idx a) s =
          .next (s.issued b q k ((c.sched k.val (c.cbc + 1) (.sw n x)).hold k.val)))

/-- `mxmm` (10 R227 to R235, R237): its checks in the order of 10 R233, the streams' among them in the order that the
model takes, then the banks, the mode and the pop of the scale queue. Past them the command starts at the later of its
defer and the beat at which the engine is free, takes one step for each Kbeat positions of 10 R229, and completes 14
beats after its last step; where a stream takes its scales from the queue, it takes the oldest entry, and while that is
still to come the bundle waits. What the fetcher has staged ahead for a command of this very beat comes with it
(10 R238).
Where the spec leaves a reading open, the model's choice is that of log entry 23. -/
def Obligations.MatrixMultiply : Prop :=
  (∀ p r : Strm,
    let mx (d : Strm) : Prop := d.fmt = 11 ∨ d.fmt = 12 ∨ d.fmt = 13
    let fp8 (d : Strm) : Prop := d.fmt = 9 ∨ d.fmt = 10
    let digits (d : Strm) : Nat := if d.prec = 1 then 2 else if d.prec = 2 then 3 else
      if d.fmt = 11 then 2 else if d.fmt = 12 then 3 else 4
    (mx p ∧ mx r → kbeat p r = some (4608 / (digits p * digits r))) ∧ (fp8 p ∧ fp8 r → kbeat p r = some 512) ∧
    (p.fmt = 8 ∧ r.fmt = 8 → kbeat p r = some 144) ∧
    (¬(mx p ∧ mx r) → ¬(fp8 p ∧ fp8 r) → ¬(p.fmt = 8 ∧ r.fmt = 8) → kbeat p r = none) ∧
    p.lines = (if p.tr then p.cols else p.rows) ∧ p.len = (if p.tr then p.rows else p.cols) ∧
    (∀ kb, p.stageShort kb = true ↔ p.global = true ∧ p.nst * 4096 * 8 < 2 * kb * p.lines * p.bits)) ∧
  (∀ (c : Context) (l : List (Nat × Nat)),
    let meets (a n x m : Nat) : Prop := 0 < n ∧ 0 < m ∧ a < x + m ∧ x < a + n
    let hit (i : Nat) : Prop := let r := c.ag.getD i 0
      r.getLsbD 97 = true ∧ ∃ p ∈ l, meets (agPbase r) (agLen r) p.1 p.2 ∨ meets (agAbase r) (agAlen r) p.1 p.2
    let inWindow (p : Nat × Nat) : Prop := meets c.tapeb.toNat (c.tapel.toNat - c.tapeb.toNat) p.1 p.2
    (∀ i, c.streamRegion l = some i ↔ i < 16 ∧ hit i ∧ ∀ i', i' < i → ¬hit i') ∧
    (c.dmode = .off → c.spanWindow l = none) ∧
    (c.dmode ≠ .off → (c.spanWindow l = none ↔ ∀ p ∈ l, ¬inWindow p) ∧
      ∀ a, c.spanWindow l = some a → (∃ p ∈ l, inWindow p ∧ a = max p.1 c.tapeb.toNat) ∧
        ∀ p ∈ l, inWindow p → a ≤ max p.1 c.tapeb.toNat)) ∧
  ∀ (s : State) (b : Fin 8) (q : Fin 4) (k : Fin 8) (g sa sb sc : Fin 16) (a : Fin 32) (defer : Fin 64)
    (int init : Bool),
    let c := s.ctx b q
    let p := s.sin b q sa
    let r := s.sin b q sb
    let kb := (kbeat p r).getD 1
    let start := max (c.cbc + defer.val) c.mxFree
    let steps := (p.len + kb - 1) / kb
    let pops := decide (p.scsrc = 2 ∨ r.scsrc = 2)
    let checks := c.mxmmChecks p r sa.val sb.val (s.xin b q a).toNat int
    let i := Instr.mxmm g a sa sb sc defer int init
    (s.Ready b q k g 0 → s.StopsAt b q k checks i) ∧
    (s.Ready b q k g 0 → firstCheck checks = none → pops = true → c.sq = [] →
      exec i s = .next { s.setCtx b q { c with phase := .split k } with cur := none }) ∧
    ∀ e c', s.Ready b q k g (start + 14 + steps - c.cbc) → firstCheck checks = none → c.Pops pops e c' →
      let m : Cmd := { Cmd.blank c.nextId .mxmm c.cbc start steps (start + 14 + steps) with
        p := c.view.s.get sa, q := c.view.s.get sb, pnum := sa.val, qnum := sb.val
        bank := (s.xin b q a).toNat, int := int, init := init, sc := sc, sq := e }
      exec i s = .next (s.issued b q k
        ({ c' with mxFree := start + steps }.command k.val (m.withStaged c.pre) steps (.mxStep m.id)))

/-- `acq` and `arls` (02 R75, R76, 10 R242): `acq` takes the lowest free group whose first bank is a multiple of n,
its number landing one beat on in banks that read zero; with none, bank exhaustion (code 0x07); `arls` of a group
that the context holds frees it four beats on; of any other bank it raises bank not held (code 0x08), and beyond the
share operand range (code 0x04). `azero` zeroes its group one beat on, and `ard` reads a bank of a held group one
beat on, its elements landing at three beats in all lanes, with or without `clr` (10 R243, R244). A release that would
discard an engine's write raises bank not held, and so does a read of a bank that is not held.
Where the spec leaves a reading open, the model's choice is that of log entry 23. -/
def Obligations.AccumulatorBanks : Prop :=
  (∀ (s : State) (b : Fin 8) (q : Fin 4) (k : Fin 8) (g : Fin 16) (d a : Fin 32) (n : Nat),
      let c := s.ctx b q
      let x := s.xin b q a
      (s.Ready b q k g 1 → ∀ f, c.freeGroup n = some f →
        exec (.acq g d n) s = .next (s.issued b q k
          (((({ c with held := mapSet 0 c.held f n }).sched k.val (c.cbc + 1) (.xw d (BitVec.ofNat 64 f))).sched k.val
            (c.cbc + 1) (.zeroBanks f n)).enter k.val (c.cbc + 1)))) ∧
      (∀ f, n = 1 ∨ n = 2 ∨ n = 4 ∨ n = 8 → c.freeGroup n = some f → f % n = 0 ∧ f + n ≤ c.bankShare ∧
        (∀ i, i < n → c.holds (f + i) = false ∧ c.freeing (f + i) = false) ∧
        ∀ f', f' % n = 0 → f' < f → ∃ i, i < n ∧ (c.holds (f' + i) = true ∨ c.freeing (f' + i) = true)) ∧
      (∀ f, n = 1 ∨ n = 2 ∨ n = 4 ∨ n = 8 → f % n = 0 → f + n ≤ c.bankShare →
        (∀ i, i < n → c.holds (f + i) = false ∧ c.freeing (f + i) = false) → c.freeGroup n ≠ none) ∧
      (∀ bank, (c.holds bank = true ↔ ∃ e ∈ c.held, e.1 ≤ bank ∧ bank < e.1 + e.2) ∧
        (c.freeing bank = true ↔ ∃ t ∈ c.timed, ∃ f m, t.eff = .freeBanks f m ∧ c.cbc < t.due ∧ f ≤ bank ∧
          bank < f + m)) ∧
      (s.Ready b q k g 0 → c.freeGroup n = none →
        exec (.acq g d n) s = .next (s.slotTrap b q k.val 0x07 0 (BitVec.ofNat 64 n))) ∧
      (s.Ready b q k g 4 → x.toNat < c.bankShare → 0 < mapGet 0 c.held x.toNat →
        c.engineWrites c.cbc x.toNat (mapGet 0 c.held x.toNat) = false →
        exec (.arls g a) s = .next (s.issued b q k
          ((({ c with held := mapSet 0 c.held x.toNat 0 }).sched k.val (c.cbc + 4)
            (.freeBanks x.toNat (mapGet 0 c.held x.toNat))).enter k.val (c.cbc + 4)))) ∧
      (s.Ready b q k g 0 → x.toNat < c.bankShare → 0 < mapGet 0 c.held x.toNat →
        c.engineWrites c.cbc x.toNat (mapGet 0 c.held x.toNat) = true →
        exec (.arls g a) s = .next (s.slotTrap b q k.val 0x08 0 x)) ∧
      (s.Ready b q k g 0 → x.toNat < c.bankShare → mapGet 0 c.held x.toNat = 0 →
        exec (.arls g a) s = .next (s.slotTrap b q k.val 0x08 0 x) ∧
        exec (.azero g a) s = .next (s.slotTrap b q k.val 0x08 0 x)) ∧
      (s.Ready b q k g 0 → c.bankShare ≤ x.toNat →
        exec (.arls g a) s = .next (s.slotTrap b q k.val 0x04 0 x) ∧
        exec (.azero g a) s = .next (s.slotTrap b q k.val 0x04 0 x))) ∧
  (∀ (s : State) (b : Fin 8) (q : Fin 4) (k : Fin 8) (g : Fin 16) (d : Fin 64) (a : Fin 32) (clr : Bool),
      let c := s.ctx b q
      let x := (s.xin b q a).toNat
      (s.Ready b q k g 1 → x < c.bankShare → 0 < mapGet 0 c.held x →
        exec (.azero g a) s = .next (s.issued b q k
          ((c.sched k.val (c.cbc + 1) (.zeroBanks x (mapGet 0 c.held x))).enter k.val (c.cbc + 1)))) ∧
      (s.Ready b q k g 2 → c.HoldsBanks x 1 →
        exec (.ard g d a clr) s = .next (s.issued b q k
          ((c.sched k.val (c.cbc + 1) (.readBank (c.physV d).val x clr)).enter k.val (c.cbc + 2)))) ∧
      (s.Ready b q k g 0 → s.StopsAt b q k (c.bankChecks x 1) (.ard g d a clr)))

/-- The issue of `acvt` (10 R227, R233, R234, R237, R245 to R248): its checks in their order, the destination's stream,
the banks that its positions lie in, the mode and the pop; past them the write-back path takes it at the later of its
defer and the beat at which the path is free, and completes six beats later. A scale that is popped is the oldest entry
of the queue, and while that is still to come the bundle waits.
Where the spec leaves a reading open, the model's choice is that of log entry 23. -/
def Obligations.ConvertAccumulators : Prop :=
  ∀ (s : State) (b : Fin 8) (q : Fin 4) (k : Fin 8) (g n cn : Fin 16) (a : Fin 32) (sc : AcvtScale)
    (defer : Fin 64) (ftz int : Bool),
    let c := s.ctx b q
    let d := s.sin b q n
    let start := max (c.cbc + defer.val) c.wbFree
    let pops := decide (sc = .sq)
    let checks := c.acvtChecks d n.val (s.xin b q a).toNat sc
    let i := Instr.acvt g a n sc cn defer ftz int
    (s.Ready b q k g 0 → s.StopsAt b q k checks i) ∧
    (s.Ready b q k g 0 → firstCheck checks = none → pops = true → c.sq = [] →
      exec i s = .next { s.setCtx b q { c with phase := .split k } with cur := none }) ∧
    ∀ e c', s.Ready b q k g (start + 6 - c.cbc) → firstCheck checks = none → c.Pops pops e c' →
      let m : Cmd := { Cmd.blank c.nextId .acvt c.cbc start 1 (start + 6) with
        p := c.view.s.get n, pnum := n.val, bank := (s.xin b q a).toNat, int := int, ftz := ftz, scale := sc, sc := cn
        sq := e }
      exec i s = .next (s.issued b q k ({ c' with wbFree := start + 1 }.command k.val m 1 fun _ => .writeBack m.id))

/-- `ltbuild`, `ltspill` and `ltfill` (11 R252 to R256, R267, R268, R270): the checks in their order, of the stream,
the table range and the mode; then 1,024 tables or 256 records a step, from the later of the defer and the beat at
which the table unit is free; the registers that will be written become invalid at the issue beat. An activation
stream is one of the two kinds of 11 R254, and a record stream that of cause 0x1A. 11 R265: `ltstat` returns META0 as
it stands at the end of the beat before; beyond the share it raises operand range.
Where the spec leaves a reading open, the model's choice is that of log entry 24. -/
def Obligations.TableCommandsAndStatus : Prop :=
  (∀ d : Strm,
    (d.isActivation = true ↔ d.global = false ∧ d.lines ≤ 64 ∧ ((d.layout = 0 ∧ d.fmt = 1 ∧ d.tr = false) ∨
      (d.layout = 2 ∧ d.fmt = 13 ∧ d.prec = 0 ∧ d.scsrc = 1))) ∧
    (d.isRecords = true ↔ d.global = false ∧ d.layout = 0 ∧ d.fmt = 6 ∧ d.cols = 16 ∧ d.tr = false ∧ d.scsrc = 0) ∧
    d.groups = (d.len + 3) / 4) ∧
  (∀ (s : State) (b : Fin 8) (q : Fin 4) (k : Fin 8) (g n : Fin 16) (a : Fin 32) (defer : Fin 64),
      let c := s.ctx b q
      let d := s.sin b q n
      let t0 := (s.xin b q a).toNat
      let start := max (c.cbc + defer.val) c.tabFree
      let tables := d.lines * d.groups
      let nb := (tables + 1023) / 1024
      let nr := (d.lines + 255) / 256
      let cmd (kind : CmdKind) (steps extra : Nat) : Cmd :=
        { Cmd.blank c.nextId kind c.cbc start steps (start + steps + extra) with
          p := c.view.s.get n, pnum := n.val, t0 := t0 }
      let m : Cmd := { cmd .ltbuild nb 2 with gen := c.ltgen + 1 }
      let build := c.buildChecks d n.val t0
      let spill := c.spillChecks d n.val t0
      let fill := c.fillChecks d n.val t0
      (s.Ready b q k g 0 → s.StopsAt b q k build (.ltbuild g a n defer) ∧ s.StopsAt b q k spill (.ltspill g a n defer) ∧
        s.StopsAt b q k fill (.ltfill g a n defer)) ∧
      (s.Ready b q k g (start + nb + 2 - c.cbc) → firstCheck build = none →
        exec (.ltbuild g a n defer) s = .next (s.issued b q k
          ((({ c with tabFree := start + nb, ltgen := c.ltgen + 1 }).sched k.val c.cbc
            (.prepTables t0 tables (some (c.ltgen + 1)))).command k.val m nb (.buildStep m.id)))) ∧
      (s.Ready b q k g (start + nr + 1 - c.cbc) → firstCheck spill = none →
        exec (.ltspill g a n defer) s = .next (s.issued b q k
          (({ c with tabFree := start + nr }).command k.val (cmd .ltspill nr 1) nr (.spillStep c.nextId)))) ∧
      (s.Ready b q k g (start + nr + 2 - c.cbc) → firstCheck fill = none →
        exec (.ltfill g a n defer) s = .next (s.issued b q k
          ((({ c with tabFree := start + nr }).sched k.val c.cbc (.prepTables t0 d.lines none)).command k.val
            (cmd .ltfill nr 2) nr (.fillStep c.nextId))))) ∧
  (∀ (s : State) (b : Fin 8) (q : Fin 4) (k : Fin 8) (g : Fin 16) (d a : Fin 32), s.Ready b q k g 0 →
      let x := s.xin b q a
      (x.toNat < (s.ctx b q).tableShare →
        exec (.ltstat g d a) s = .next (s.giving b q k d 1 ((s.ctx b q).table x.toNat).meta0)) ∧
      ((s.ctx b q).tableShare ≤ x.toNat → exec (.ltstat g d a) s = .next (s.slotTrap b q k.val 0x04 0 x)))

/-- `ltlook` (11 R256 to R260, R270, 10 R237): its checks in the order of 11 R259, the streams', the range of X[A],
banks held, the mode and the pop of the scale queue; past them 2048 / b positions a step, completing ten beats after
the last one. Its scales are the vector registers that SEL names, or the oldest entry of the scale queue; while that
is still to come the bundle waits.
Where the spec leaves a reading open, the model's choice is that of log entries 23 and 24. -/
def Obligations.TableLookup : Prop :=
  ∀ (s : State) (b : Fin 8) (q : Fin 4) (k : Fin 8) (g wn tn sel : Fin 16) (a : Fin 32) (defer : Fin 64)
    (int init sq : Bool) (wb : WBits),
    let c := s.ctx b q
    let dw := s.sin b q wn
    let dt := s.sin b q tn
    let bits := match wb with
      | .b1 => 1
      | .b2 => 2
      | .b4 => 4
    let x := (s.xin b q a).toNat
    let bank := x % 2 ^ 13
    let t0 := x / 2 ^ 32 % 2 ^ 13
    let start := max (c.cbc + defer.val) c.lookFree
    let per := 2048 / bits
    let steps := (dt.len + per - 1) / per
    let checks := c.lookChecks dw dt wn.val tn.val x bits int sq
    let i := Instr.ltlook g a wn tn sel defer int init wb sq
    (s.Ready b q k g 0 → s.StopsAt b q k checks i) ∧
    (s.Ready b q k g 0 → firstCheck checks = none → sq = true → c.sq = [] →
      exec i s = .next { s.setCtx b q { c with phase := .split k } with cur := none }) ∧
    ∀ e c', s.Ready b q k g (start + steps + 10 - c.cbc) → firstCheck checks = none → c.Pops sq e c' →
      let m : Cmd := { Cmd.blank c.nextId .ltlook c.cbc start steps (start + steps + 10) with
        p := c.view.s.get wn, q := c.view.s.get tn, pnum := wn.val, qnum := tn.val, bank := bank, t0 := t0
        int := int, init := init, wb := wb, useSq := sq, sc := sel, sq := e
        scales := if sq || int then [] else (List.range 4).map fun i => c.view.vr (nameV (4 * sel.val + i)) }
      exec i s = .next (s.issued b q k ({ c' with lookFree := start + steps }.command k.val m steps (.lookStep m.id)))

/-- 11 R264: `ltinv` sets V = 0 in registers X[A] to X[A] + X[B] - 1 at the end of the issue beat and keeps the other
fields; X[B] = 0 invalidates nothing; a range beyond the share raises operand range with TINFO the lowest number beyond
it, and no register changes. (The premise on the table list is the invariant `MemoriesCanonical`.) -/
def Obligations.InvalidateTables : Prop :=
  ∀ (s : State) (b : Fin 8) (q : Fin 4) (k : Fin 8) (g : Fin 16) (u v : Fin 32), s.Ready b q k g 0 →
    let c := s.ctx b q
    let first := (s.xin b q u).toNat
    let n := (s.xin b q v).toNat
    (n = 0 ∨ first + n ≤ c.tableShare → exec (.ltinv g u v) s =
      .next (s.issued b q k ((c.sched k.val c.cbc (.invTables first n)).hold k.val))) ∧
    (n ≠ 0 → c.tableShare < first + n → exec (.ltinv g u v) s =
      .next (s.slotTrap b q k.val 0x04 0 (BitVec.ofNat 64 (max first c.tableShare)))) ∧
    (∀ t : Timed, t.eff = .invTables first n → mapWf Table.zero c.tables = true → ∀ r,
      (tableEffect c t).table r =
        (if first ≤ r ∧ r < first + n then
          { c.table r with meta0 := (c.table r).meta0 &&& BitVec.ofNat 64 (2 ^ 64 - 2) }
        else c.table r)) ∧
    decodeSlot 6 (encTrio 0x08A g 0 u.val v.val 0 0) none = .ok (.ltinv g u v)

/-! ### Slot 7 -/

/-- `cpld`, `cpst` and `cpfill` (13 R292, R293, R295, R296): with a word that keeps its limits, spans in the share and
aligned, a load that carries a tag inside landing tiles and no load into the closed tape window, the copy is in flight
on its token, to start when its defer has run. A word that breaks its limits is out of range. `cpga`, `cpsc`, `cpsq`
and `cpat` (13 R295 to R298, R300): the address list, the landing or source rows, the source that SRC names, and the
atomic word are checked, and the operation is in flight on its token. `fenci` (04 R122, 13 R301): it covers, from the
operations in flight, those that its scope names, as 04 R453 has it kind by kind; with none its token is good at once,
else it is outstanding until they have completed. Checks 4 to 8 of 13 R293 stand in their order: the word's limits,
each scratchpad span's range and alignment, the global alignment, the landing rule and the tape window.
Where the spec leaves a reading open, the model's choice is that of log entry 25. -/
def Obligations.CopyIssue : Prop :=
  (∀ (s : State) (b : Fin 8) (c : Context) (sc : Scope) (o : Op),
    let here (n : Nat) : Prop := ∃ i, i < n ∧ ∀ pa,
      s.translate b c.asid c.gen (o.a.toNat + 64 * i) false false = some pa → pa / 2 ^ 40 = b.val
    let far (n : Nat) : Prop := sc = .sysMod ∨ sc = .sys ∨ (sc = .brk ∧ here n)
    let bytes := o.c.toNat % 2 ^ 24
    s.fenceCovers b c sc o = true ↔ o.tokenDone = false ∧ o.spoiled = false ∧
      (o.kind = .cpld ∨ o.kind = .cpga ∨ (o.kind = .cpat ∧ (o.c.getLsbD 8 = true ∨ far 1)) ∨
        ((o.kind = .cpst ∨ o.kind = .cpfill) ∧ far (bytes / 64)) ∨ (o.kind = .cpsc ∧ sc ≠ .ctx) ∨
        (o.kind = .cpsq ∧ o.c = 0 ∧ far 4) ∨
        ((o.kind = .xsend ∨ o.kind = .xcc ∨ o.kind = .xat) ∧ (sc = .sys ∨ (sc = .sysMod ∧ o.pdim ≤ 2))))) ∧
  (∀ (c : Context) (a n x : Nat),
    (c.outsideTile a n = some x ↔ ∃ j, 64 * j < n ∧ x = a + 64 * j ∧ c.tileOf x = none ∧
      ∀ i, i < j → c.tileOf (a + 64 * i) ≠ none) ∧
    (c.tileOf x = none ↔ ∀ t ∈ c.tiles, ¬(t ≤ x ∧ x < t + 4096)) ∧
    (c.windowHit a n = some x ↔ c.dmode ≠ .off ∧ 0 < n ∧ c.tapeb.toNat < c.tapel.toNat ∧ c.tapeb.toNat < a + n ∧
      a < c.tapel.toNat ∧ x = max a c.tapeb.toNat)) ∧
  (∀ (s : State) (b : Fin 8) (q : Fin 4) (k : Fin 8) (g : Fin 16) (u v w t : Fin 32) (defer : Fin 64),
    s.ReadyOp b q k g t 0 →
    let c := s.ctx b q
    let x := (s.xin b q w).toNat
    let A := (s.xin b q u).toNat
    let B := (s.xin b q v).toNat
    let len := x % 2 ^ 24
    let rows := x % 2 ^ 12
    let units := x / 2 ^ 12 % 2 ^ 6
    let tagged := x.testBit 24
    let ret := x.testBit 8
    let tag (allowed : Bool) : Prop := x / 2 ^ 25 % 2 ^ 7 = 0 ∧ (tagged = false → x / 2 ^ 32 = 0) ∧
      (allowed = false → tagged = false)
    let linear (allowed : Bool) : Prop := tag allowed ∧ len ≠ 0 ∧ len % 64 = 0
    let gather (allowed : Bool) : Prop := tag allowed ∧ x / 2 ^ 18 % 2 ^ 6 = 0 ∧ rows ≠ 0 ∧ units ≠ 0
    let op := x % 2 ^ 3
    let ty := x / 2 ^ 4 % 2 ^ 4
    let atomic : Prop := tag ret ∧ x / 2 ^ 3 % 2 = 0 ∧ x / 2 ^ 9 % 2 ^ 15 = 0 ∧ op ≠ 7 ∧ (ty = 3 ∨ ty = 6 ∨ ty = 7) ∧
      ¬((op = 3 ∨ op = 4 ∨ op = 5) ∧ ty = 7)
    let limits (p : Prop) [Decidable p] : Bool × Nat × Nat × Nat := (decide ¬p, 0x04, 0, x)
    let span (a n align : Nat) : List (Bool × Nat × Nat × Nat) :=
      [(decide (c.spadShare < a + n), 0x02, 0, a), (decide (a % align ≠ 0), 0x03, 0, a)]
    let far : Bool × Nat × Nat × Nat := (decide (A % 64 ≠ 0), 0x03, 0, A)
    let lands (n : Nat) : Bool × Nat × Nat × Nat :=
      (tagged && (c.outsideTile B n).isSome, 0x0A, 2, (c.outsideTile B n).getD 0)
    let window (n : Nat) : Bool × Nat × Nat × Nat := ((c.windowHit B n).isSome, 0x0C, 1, (c.windowHit B n).getD 0)
    let bytes := 64 * units * rows
    s.StopsAt b q k ([limits (linear true)] ++ span B len 64 ++ [far, lands len, window len]) (.cpld g u v w t defer) ∧
    s.StopsAt b q k ([limits (linear false)] ++ span B len 64 ++ [far]) (.cpst g u v w t defer) ∧
    s.StopsAt b q k ([limits (linear false)] ++ span B 64 64 ++ [far]) (.cpfill g u v w t defer) ∧
    s.StopsAt b q k ([limits (gather true)] ++ span A (8 * rows) 8 ++ span B bytes 64 ++ [lands bytes, window bytes])
      (.cpga g u v w t defer) ∧
    s.StopsAt b q k ([limits (gather false)] ++ span A (8 * rows) 8 ++ span B bytes 64) (.cpsc g u v w t defer) ∧
    s.StopsAt b q k ([limits (x ≤ 1)] ++ if x = 1 then span B 256 64 else [far]) (.cpsq g u v w t defer) ∧
    s.StopsAt b q k ([limits atomic] ++ span B 64 64 ++ [far, lands 64] ++ if ret then [window 64] else [])
      (.cpat g u v w t defer) ∧
    (linearOk x true = true ↔ linear true) ∧ (linearOk x false = true ↔ linear false) ∧
    (gatherOk x true = true ↔ gather true) ∧ (gatherOk x false = true ↔ gather false) ∧ (atomicOk x = true ↔ atomic)) ∧
  ((∀ (s : State) (b : Fin 8) (q : Fin 4) (k : Fin 8) (g : Fin 16) (u v w t : Fin 32) (defer : Fin 64),
        s.ReadyOp b q k g t defer.val →
        let c := s.ctx b q
        let x := s.xin b q w
        let len := x.toNat % 2 ^ 24
        let local' := s.xin b q v
        let far := s.xin b q u
        let go (kind : OpKind) : Host.Outcome State Fault Refusal :=
          .next (s.issued b q k ((c.named t).started
            { Op.blank c.nextId kind t (c.cbc + defer.val) c.asgen with a := far, b := local', c := x } defer.val))
        let range := s.slotTrap b q k.val 0x04 0 x
        (linearOk x.toNat true = true → c.SpanOk local'.toNat len 64 → far.toNat % 64 = 0 →
          (x.getLsbD 24 = true → c.outsideTile local'.toNat len = none) → c.windowHit local'.toNat len = none →
          exec (.cpld g u v w t defer) s = go .cpld) ∧
        (linearOk x.toNat false = true → c.SpanOk local'.toNat len 64 → far.toNat % 64 = 0 →
          exec (.cpst g u v w t defer) s = go .cpst) ∧
        (linearOk x.toNat false = true → c.SpanOk local'.toNat 64 64 → far.toNat % 64 = 0 →
          exec (.cpfill g u v w t defer) s = go .cpfill) ∧
        (len = 0 ∨ len % 64 ≠ 0 → exec (.cpld g u v w t defer) s = .next range ∧
          exec (.cpst g u v w t defer) s = .next range ∧ exec (.cpfill g u v w t defer) s = .next range)) ∧
    (∀ (s : State) (b : Fin 8) (q : Fin 4) (k : Fin 8) (g : Fin 16) (u v w t : Fin 32) (defer : Fin 64),
        s.ReadyOp b q k g t defer.val →
        let c := s.ctx b q
        let x := s.xin b q w
        let rows := x.toNat % 2 ^ 12
        let bytes := 64 * (x.toNat / 2 ^ 12 % 2 ^ 6) * rows
        let A := s.xin b q u
        let B := s.xin b q v
        let go (kind : OpKind) (a b' : Word) : Host.Outcome State Fault Refusal :=
          .next (s.issued b q k ((c.named t).started
            { Op.blank c.nextId kind t (c.cbc + defer.val) c.asgen with a := a, b := b', c := x } defer.val))
        (gatherOk x.toNat true = true → c.SpanOk A.toNat (8 * rows) 8 → c.SpanOk B.toNat bytes 64 →
          (x.getLsbD 24 = true → c.outsideTile B.toNat bytes = none) → c.windowHit B.toNat bytes = none →
          exec (.cpga g u v w t defer) s = go .cpga A B) ∧
        (gatherOk x.toNat false = true → c.SpanOk A.toNat (8 * rows) 8 → c.SpanOk B.toNat bytes 64 →
          exec (.cpsc g u v w t defer) s = go .cpsc A B) ∧
        (x = 1 → c.SpanOk B.toNat 256 64 → exec (.cpsq g u v w t defer) s = go .cpsq 0 B) ∧
        (x = 0 → A.toNat % 64 = 0 → exec (.cpsq g u v w t defer) s = go .cpsq A 0) ∧
        (1 < x.toNat → exec (.cpsq g u v w t defer) s = .next (s.slotTrap b q k.val 0x04 0 x)) ∧
        (atomicOk x.toNat = true → c.SpanOk B.toNat 64 64 → A.toNat % 64 = 0 →
          (x.getLsbD 24 = true → c.outsideTile B.toNat 64 = none) →
          (x.getLsbD 8 = true → c.windowHit B.toNat 64 = none) →
          exec (.cpat g u v w t defer) s = go .cpat A B))) ∧
  (∀ (s : State) (b : Fin 8) (q : Fin 4) (k : Fin 8) (g : Fin 16) (t : Fin 32) (sc : Scope),
      s.ReadyOp b q k g t 0 →
      let c := s.ctx b q
      let covered := (c.ops.filter (s.fenceCovers b (c.named t) sc)).map Op.id
      (covered = [] → exec (.fenci g t sc) s = .next (s.issued b q k ((c.named t).doneNow t))) ∧
      (covered ≠ [] → exec (.fenci g t sc) s = .next (s.issued b q k ((c.named t).startedNow
        { Op.blank c.nextId .fence t c.cbc c.asgen with covers := covered }))))

/-- `xch`, `xcc`, `xsib` and `xgs` (13 R302 to R307): with words that keep their limits, spans in the share, the
destination inside landing tiles and the spans equal or apart, the exchange is in flight over its logical dimension
and the physical dimension that DIMMAP gives; a brick that `xsib` leaves out, and an `xgs` of an empty mask, have a
good token at once. `xbar` and `xat` (13 R308, R309): a barrier over a mask that is not empty waits for the whole of
the exchanges of its dimensions that were issued before it, and for the steps of an earlier barrier over them; an
`xat` to a span of the share is in flight with its operation and type. The checks of 13 R293 stand in their order: the
dimension range, that of SB too, the words' limits, the spans' range, the landing rule and the overlap rule. The
dimension over which `xgs` sends is that in which the Gray code of the masked coordinate and its neighbour's differ, by
the rank of 13 R307.
Where the spec leaves a reading open, the model's choice is that of log entry 26. -/
def Obligations.ExchangeIssue : Prop :=
  (∀ (mask : BitVec 12) (coord t : Nat) (back : Bool),
    let dims := (List.range 12).filter fun d => mask.getLsbD d
    let rank (u : Nat) : Bool := ((dims.drop u).filter fun d => coord.testBit d).length % 2 == 1
    t < dims.length → (∀ u, u < t → rank u = !back) → rank t = back ∨ t + 1 = dims.length →
      grayOut mask.toNat coord back = dims.getD t 0) ∧
  (∀ (c : Context) (mask : BitVec 12) (o : Op),
    (barCovers mask o = true ↔ o.tokenDone = false ∧ (o.kind = .xsend ∨ o.kind = .xcc ∨ o.kind = .xat) ∧
      o.dim < 12 ∧ mask.getLsbD o.dim = true) ∧
    (c.barFree o = true ↔ ∀ p ∈ c.ops, p.kind = .xbar → p.id < o.id → ∀ i d, p.dims[i]? = some d → d < 12 →
      o.mask.getLsbD d = true → i < p.barStep) ∧
    o.dims = (List.range 12).filter fun d => o.mask.getLsbD d) ∧
  (∀ (s : State) (b : Fin 8) (q : Fin 4) (k : Fin 8) (g dim : Fin 16) (u v t : Fin 32) (cb : Comb) (mask : BitVec 12)
      (val back : Bool) (op : AtomOp), s.ReadyOp b q k g t 0 →
    let c := s.ctx b q
    let sw := (s.xin b q u).toNat
    let srcLimits (w : Nat) (sb ety : Bool) : Prop := w % 2 ^ 27 % 64 = 0 ∧ w / 2 ^ 27 % 2 ^ 5 = 0 ∧
      w / 2 ^ 32 % 2 ^ 24 ≠ 0 ∧ w / 2 ^ 32 % 2 ^ 24 % 64 = 0 ∧ (sb = false → w / 2 ^ 56 % 2 ^ 4 = 0) ∧
      (ety = false → w / 2 ^ 60 = 0)
    let destLimits (w : Nat) (tag : Bool) : Prop := w % 2 ^ 27 % 64 = 0 ∧ w / 2 ^ 27 % 2 ^ 5 = 0 ∧
      (tag = false → w / 2 ^ 32 = 0)
    let dims (m : Nat) : Bool × Nat × Nat × Nat := (decide (2 ^ c.ndim ≤ m), 0x05, 0, m)
    let limits (p : Prop) [Decidable p] (w : Nat) : Bool × Nat × Nat × Nat := (decide ¬p, 0x04, 0, w)
    let spans (sw dw : Nat) (tiles : Bool) : List (Bool × Nat × Nat × Nat) :=
      let src := sw % 2 ^ 27
      let dst := dw % 2 ^ 27
      let n := sw / 2 ^ 32 % 2 ^ 24
      [(decide (c.spadShare < src + n), 0x02, 0, src), (decide (c.spadShare < dst + n), 0x02, 0, dst),
        (tiles && (c.outsideTile dst n).isSome, 0x0A, 2, (c.outsideTile dst n).getD 0),
        (decide (src ≠ dst ∧ src < dst + n ∧ dst < src + n), 0x0A, 5, dst)]
    let data (sw dw : Nat) (sb : Bool) : List (Bool × Nat × Nat × Nat) :=
      [limits (srcLimits sw sb false) sw, limits (destLimits dw true) dw] ++ spans sw dw true
    let dw := (s.xin b q v).toNat
    s.StopsAt b q k (dims (2 ^ dim.val) :: data sw dw false) (.xch g dim u v t) ∧
    s.StopsAt b q k (dims (2 ^ dim.val) :: data sw dw false) (.xcc g dim u v t cb) ∧
    s.StopsAt b q k (dims (2 ^ dim.val) :: dims (2 ^ (sw / 2 ^ 56 % 16)) :: data sw dw true) (.xsib g dim u v t val) ∧
    s.StopsAt b q k (dims mask.toNat :: data sw (s.xin b q (u + 1)).toNat false) (.xgs g mask u t back) ∧
    s.StopsAt b q k [dims mask.toNat] (.xbar g mask t) ∧
    (let ety := sw / 2 ^ 60
     let fits : Prop := srcLimits sw false true ∧ (ety = 3 ∨ ety = 6 ∨ ety = 7 ∨ ety = 8) ∧
       ¬((op = .and ∨ op = .or ∨ op = .xor) ∧ (ety = 7 ∨ ety = 8))
     s.StopsAt b q k ([dims (2 ^ dim.val), limits fits sw, limits (destLimits dw false) dw] ++ spans sw dw false)
       (.xat g dim u v t op)) ∧
    (∀ sb ety, srcOk sw sb ety = true ↔ srcLimits sw sb ety) ∧ ∀ tag, destOk dw tag = true ↔ destLimits dw tag) ∧
  (∀ (s : State) (b : Fin 8) (q : Fin 4) (k : Fin 8) (g dim : Fin 16) (u v t : Fin 32) (cb : Comb) (mask : BitVec 12)
      (val back : Bool), s.ReadyOp b q k g t 0 →
      let c := s.ctx b q
      let Fine (sw dw : Word) (sb : Bool) : Prop :=
        let src := sw.toNat % 2 ^ 27
        let dst := dw.toNat % 2 ^ 27
        let n := sw.toNat / 2 ^ 32 % 2 ^ 24
        srcOk sw.toNat sb false = true ∧ destOk dw.toNat true = true ∧ c.SpanOk src n 64 ∧ c.SpanOk dst n 64 ∧
          c.outsideTile dst n = none ∧ (src = dst ∨ dst + n ≤ src ∨ src + n ≤ dst)
      let sends (kind : OpKind) (dm : Nat) (sw dw : Word) (fn : Nat) : Host.Outcome State Fault Refusal :=
        .next (s.issued b q k ((c.named t).startedNow { Op.blank c.nextId kind t c.cbc c.asgen with
          a := sw, b := dw, fn := fn, dim := dm, pdim := c.pd dm }))
      let good : Host.Outcome State Fault Refusal := .next (s.issued b q k ((c.named t).doneNow t))
      let A := s.xin b q u
      let B := s.xin b q v
      (dim.val < c.ndim → Fine A B false →
        exec (.xch g dim u v t) s = sends .xsend dim.val A B 0 ∧
        exec (.xcc g dim u v t cb) s = sends .xcc dim.val A B cb.code) ∧
      (dim.val < c.ndim → A.toNat / 2 ^ 56 % 16 < c.ndim → Fine A B true →
        (nbit c.coord (A.toNat / 2 ^ 56 % 16) = val → exec (.xsib g dim u v t val) s = sends .xsend dim.val A B 0) ∧
        (nbit c.coord (A.toNat / 2 ^ 56 % 16) ≠ val → exec (.xsib g dim u v t val) s = good)) ∧
      (mask.toNat < 2 ^ c.ndim → Fine A (s.xin b q (u + 1)) false →
        (mask ≠ 0 → exec (.xgs g mask u t back) s =
          sends .xsend (grayOut mask.toNat c.coord back) A (s.xin b q (u + 1)) 0) ∧
        (mask = 0 → exec (.xgs g mask u t back) s = good))) ∧
  (∀ (s : State) (b : Fin 8) (q : Fin 4) (k : Fin 8) (g dim : Fin 16) (u v t : Fin 32) (op : AtomOp) (ety : Ty)
      (mask : BitVec 12), s.ReadyOp b q k g t 0 →
      let c := s.ctx b q
      let A := s.xin b q u
      let B := s.xin b q v
      let src := A.toNat % 2 ^ 27
      let dst := B.toNat % 2 ^ 27
      let n := A.toNat / 2 ^ 32 % 2 ^ 24
      (mask.toNat < 2 ^ c.ndim →
        (mask = 0 → exec (.xbar g mask t) s = .next (s.issued b q k ((c.named t).doneNow t))) ∧
        (mask ≠ 0 → exec (.xbar g mask t) s = .next (s.issued b q k ((c.named t).startedNow
          { Op.blank c.nextId .xbar t c.cbc c.asgen with
            mask := mask, covers := (c.ops.filter (barCovers mask)).map Op.id })))) ∧
      (dim.val < c.ndim → etyOf A.toNat = some ety → srcOk A.toNat false true = true → atomTyOk ety op = true →
        destOk B.toNat false = true → c.SpanOk src n 64 → c.SpanOk dst n 64 →
        (src = dst ∨ dst + n ≤ src ∨ src + n ≤ dst) →
        exec (.xat g dim u v t op) s = .next (s.issued b q k ((c.named t).startedNow
          { Op.blank c.nextId .xat t c.cbc c.asgen with
            a := A, b := B, fn := op.code, ety := ety, dim := dim.val, pdim := c.pd dim.val }))))


/-! ### The step, and decoding -/

/-- A step runs the decoded instruction. With power, the slot that issues runs what its 44 bits decode to, a carrier is
passed over, and a slot that does not decode raises the illegal-operation fault with its cause (07 R175); between
bundles the agenda's next event runs; a beat that is due, of a bundle or a trailing-idle one, is taken, or an arrival
that belongs to it comes first; without power the outside's next event runs. Every instruction answers a next state, so
a step stops only where the module is off and the outside is silent.
Where the spec leaves a reading open, the model's choice is that of log entries 4, 36 and 38. -/
def Obligations.StepRunsDecoded : Prop :=
  (∀ (s : State) (b : Fin 8) (q : Fin 4) (k : Fin 8), s.power ≠ .off → s.Issues b q k →
    let c := s.ctx b q
    (∀ i, slotInstr c.bundle k = some (.ok i) → step s = exec i s) ∧
    (slotInstr c.bundle k = none → step s = .next (s.issued b q k c)) ∧
    ∀ cause, slotInstr c.bundle k = some (.error cause) →
      step s = .next (s.slotTrap b q k.val 0x01 cause (BitVec.ofNat 64 (slotOf c.bundle k.val)))) ∧
  (∀ (s : State) (b : Fin 8) (q : Fin 4), s.power ≠ .off → s.cur = some ⟨b, q⟩ → (s.ctx b q).phase = .beatDue →
    ∃ i, (i = .contextBeat b q ∨ i ∈ beatEvents s b q) ∧ step s = exec i { s with freeCtr := s.freeCtr + 1 }) ∧
  (∀ (s : State) (i : Instr) (t : List Instr), s.power ≠ .off → s.cur = none → s.agenda = i :: t →
    ((∀ b q, i = .trailingIdleBeat b q → s.idleDue b q = false) → step s = exec i { s with agenda := t }) ∧
    ∀ b q, i = .trailingIdleBeat b q → s.idleDue b q = true →
      (∃ j ∈ beatEvents s b q, step s = exec j { s with freeCtr := s.freeCtr + 1 }) ∨
        step s = exec i { s with agenda := t, freeCtr := s.freeCtr + 1 }) ∧
  (∀ (s : State) (i : Instr) (t : List (Option Instr)), s.power = .off → s.inbox = some i :: t →
    step s = exec i { s with inbox := t }) ∧
  (∀ (i : Instr) (s : State), ∃ t, exec i s = .next t) ∧
  ∀ s : State, (∃ t, step s = .next t) ∨ (s.power = .off ∧ s.inbox = [] ∧ step s = .fault .noEvent)

/-- Words written out from the formats of 07 R170, with OP and the guard of R167, TY of R172 and the opcodes of R174,
decode to the instructions that they stand for. -/
def Obligations.WordsDecode : Prop :=
  decodeSlot 1 0b0000100000_0000_000011_000001_000010_0000_00000000 none = .ok (.add 0 3 1 2) ∧
  decodeSlot 2 0b0000110011_0011_000100_000101_000110_000111_0000_00 none = .ok (.sel 3 4 7 5 6) ∧
  decodeSlot 1 0b0000110110_0000_000001_100000000000000000000001 none = .ok (.li 0 1 (.short 0x800001)) ∧
  decodeSlot 0 0b0000000010_0001_0000000000000111_000010_00000000 none = .ok (.brl 1 2 7) ∧
  decodeSlot 0 0b0000000110_0000_000000_000011_000000000000001010 none = .ok (.tchk 0 3 10) ∧
  decodeSlot 2 0b0000111100_0000_000101_000001_11111111111111_0100 none = .ok (.lds 0 5 1 (.short (-1)) .n8) ∧
  decodeSlot 3 0b0001000000_0010_000011_000001_00000000000010_0000 none = .ok (.vld 2 3 1 (.short 2) .none) ∧
  decodeSlot 4 0b0001100011_0000_000001_000010_000011_000100_0111_00 none = .ok (.vfma 0 1 2 3 4 .f32) ∧
  decodeSlot 5 0b0001110101_0000_000001_000010_000000_0011_00000000 none = .ok (.vredadd 0 1 2 .s32) ∧
  decodeSlot 6 0b0010000001_0000_000001_0010_0011_0100_000101_000100 none = .ok (.mxmm 0 1 2 3 4 5 false true) ∧
  decodeSlot 7 0b0010100000_0000_000001_000010_000011_00100_000101_0 none = .ok (.cpld 0 1 2 3 4 5) ∧
  decodeSlot 7 0b0010110001_0000_000001_000010_0011_00100_010_000000 none = .ok (.xcc 0 3 1 2 4 .iadd)

/-- Decoding undoes encoding, and encoding decoding: an instruction whose fields hold defined values has a word below
2^44 for each slot that lists it, which decodes to it with every operand; and a word that decodes without a long
immediate is the word of what it decodes to (06 R153, 07 R171 to R175). -/
def Obligations.DecodeEncode : Prop :=
  (∀ (i : Instr) (k : Fin 8), wellFormed i = true → k ∈ slots i →
    ∃ w l, encode i = some (w, l) ∧ w < 2 ^ 44 ∧ decodeSlot k w l = .ok i) ∧
  ∀ (k : Fin 8) (w : Nat) (i : Instr), w < 2 ^ 44 → decodeSlot k w none = .ok i →
    wellFormed i = true ∧ k ∈ slots i ∧ encode i = some (w, none)

/-! ### The beat -/

/-- Results land at their beat and nowhere else (02 R57 to R61): a register that no due result names keeps its value; of
several results for one register, or for one lane of one, the one issued last stays (R59); `x0`, `p0` and `p1` keep
theirs (R57); and two results for one scalar register at one beat set WCOL.C (R60). -/
def Obligations.BeatLandsRegisters : Prop :=
  ∀ (gbc : Word) (c : Context),
    let r := (c.beat gbc).ctx
    let due (t : Timed) : Prop := t ∈ c.timed ∧ t.due = c.cbc
    (∀ n, (∀ t, due t → ∀ v, t.eff ≠ .xw n v) → r.x.get n = c.x.get n) ∧
    r.x.get 0 = c.x.get 0 ∧
    (∀ t n v, due t → t.eff = .xw n v → n ≠ 0 →
      (∀ t' v', due t' → t'.eff = .xw n v' → t' = t ∨ t'.key < t.key) → r.x.get n = v) ∧
    (∀ t t' n v v', due t → due t' → t ≠ t' → t.eff = .xw n v → t'.eff = .xw n v' → n ≠ 0 → r.wcol = true) ∧
    (∀ t t' (n : Fin 64) m m' v v' i, due t → due t' → t ≠ t' → t.eff = .vw n.val m v → t'.eff = .vw n.val m' v' →
      i < 512 → act m i = true → act m' i = true → r.wcol = true) ∧
    (∀ t t' (n : Fin 16) m m' v v' i, due t → due t' → t ≠ t' → t.eff = .pw n.val m v → t'.eff = .pw n.val m' v' →
      1 < n.val → i < 512 → act m i = true → act m' i = true → r.wcol = true) ∧
    (let meets (t t' : Timed) : Prop :=
      (∃ n v v', n ≠ 0 ∧ t.eff = .xw n v ∧ t'.eff = .xw n v') ∨
      (∃ n m m' v v' i, i < 512 ∧ act m i = true ∧ act m' i = true ∧
        ((t.eff = .vw n m v ∧ t'.eff = .vw n m' v') ∨
          1 < n ∧ ∃ p p', t.eff = .pw n m p ∧ t'.eff = .pw n m' p'))
     (c.timed.filter fun t => t.due == c.cbc).Pairwise (fun t t' => ¬meets t t') →
      (∀ t, due t → ∀ n v, t.eff ≠ .csr n v) → r.wcol = c.wcol) ∧
    (∀ n, (∀ t, due t → ∀ v, t.eff ≠ .sw n v) → r.s.get n = c.s.get n) ∧
    (∀ t n v, due t → t.eff = .sw n v →
      (∀ t' v', due t' → t'.eff = .sw n v' → t' = t ∨ t'.key < t.key) → r.s.get n = v) ∧
    (∀ (n : Fin 64) i, i < 512 → (∀ t, due t → ∀ m v, t.eff = .vw n.val m v → act m i = false) →
      lane (r.v.get n) i = lane (c.v.get n) i) ∧
    (∀ t (n : Fin 64) m v i, due t → t.eff = .vw n.val m v → i < 512 → act m i = true →
      (∀ t' m' v', due t' → t'.eff = .vw n.val m' v' → act m' i = true → t' = t ∨ t'.key < t.key) →
      lane (r.v.get n) i = lane v i) ∧
    (∀ (n : Fin 16) i, i < 512 → n.val ≤ 1 ∨ (∀ t, due t → ∀ m v, t.eff = .pw n.val m v → act m i = false) →
      (r.p.get n).getLsbD i = (c.p.get n).getLsbD i) ∧
    (∀ t (n : Fin 16) m v i, due t → t.eff = .pw n.val m v → 1 < n.val → i < 512 → act m i = true →
      (∀ t' m' v', due t' → t'.eff = .pw n.val m' v' → act m' i = true → t' = t ∨ t'.key < t.key) →
      (r.p.get n).getLsbD i = v.getLsbD i)

/-- The beat's writes of scratchpad (04 R113, R118): with no write due and no arrival no byte changes; a store due alone
writes its bytes, the later of two for one address, and no other byte, and the tables that watch one of them become
invalid; a granule that arrives alone writes its 64 bytes and no other. (The premise on the memory is the invariant
`MemoriesCanonical`.)
Where the spec leaves a reading open, the model's choice is that of log entry 22. -/
def Obligations.BeatWritesScratchpad : Prop :=
  ∀ (gbc : Word) (c : Context), Memory.wf c.spad = true → c.phase3 = [] →
    let r := (c.beat gbc).ctx
    let due (t : Timed) : Prop := t ∈ c.timed ∧ t.due = c.cbc
    let writes (e : Eff) : Prop := match e with
      | .store _ _ | .revStore _ _ _ _ | .accum _ | .atom _ _ _ _ _ _ | .markPush _ | .markPop _ => True
      | _ => False
    ((∀ t, due t → ¬writes t.eff) → c.phase2 = [] → r.spad = c.spad) ∧
    (∀ t bytes, due t → t.eff = .store bytes [] → c.phase2 = [] →
      (∀ t', due t' → writes t'.eff → t' = t) →
      (∀ a, getB r.spad a = (match bytes.reverse.find? (fun e => e.1 == a) with
        | some e => e.2
        | none => getB c.spad a)) ∧
      (c.pendTables = [] → ∀ n a v, (a, v) ∈ bytes → (c.table n).watches a = true → (r.table n).valid = false)) ∧
    (∀ key a d, (∀ t, due t → ¬writes t.eff) → c.phase2 = [(key, a, d)] →
      getN r.spad a 64 = d.toNat ∧ ∀ x, x < a ∨ a + 64 ≤ x → getB r.spad x = getB c.spad x)

/-- What a scratchpad read and an atomic do at the beat of their perform (08 R193, 09 R202, R211, R212, R215, R216,
02 R67, 03 R102). A scalar load lands two beats on with the bytes it reads, extended as its type says; a vector load
lands at its beat with the element of each active lane. `vatom` replaces the element of each lane by the result of its
operation, later lanes of one element after earlier ones, changes no other byte, and its old elements land four beats
on. -/
def Obligations.BeatLoadsAndAtomics : Prop :=
  ∀ (gbc : Word) (c : Context) (t : Timed), c.Alone t →
    let r := (c.beat gbc).ctx
    let mem (a n : Nat) : Nat := getN c.spad a n
    (∀ d a n sgn, n ∈ [1, 2, 4, 8] → t.eff = .ldx d a n sgn → r.spad = c.spad ∧
      r.timed = { t with
        due := t.due + 2
        eff := .xw d (if sgn then (BitVec.ofNat (8 * n) (mem a n)).signExtend 64 else BitVec.ofNat 64 (mem a n)) } ::
        c.others) ∧
    (∀ d m la n sgn land, n ∈ [1, 2, 4] → t.eff = .ldv d m la n sgn land → r.spad = c.spad ∧
      ∃ v, r.timed = { t with due := land, eff := .vw d m v } :: c.others ∧
        ∀ i, i < 512 → act m i = true → lane v i =
          (if sgn then (BitVec.ofNat (8 * n) (mem (la.at n i) n)).signExtend 32
          else BitVec.ofNat 32 (mem (la.at n i) n))) ∧
    (∀ m la ty op x dest, t.eff = .atom m la ty op x dest →
      let w := atomBytes ty
      let at' (i : Nat) : Nat := la.at w i
      let arg (i : Nat) : BitVec 32 := if w = 2 then (lane x i).extractLsb' 0 16 |>.zeroExtend 32 else lane x i
      let new (old : Nat) (i : Nat) : Nat := (atomNew ty op (BitVec.ofNat 32 old) (arg i)).toNat % 2 ^ (8 * w)
      let on (i : Nat) : Prop := i < 512 ∧ act m i = true
      ((∀ i j, on i → on j → i ≠ j → at' i + w ≤ at' j ∨ at' j + w ≤ at' i) →
        (∀ i, on i → getN r.spad (at' i) w = new (mem (at' i) w) i) ∧
        (∀ a, (∀ i, on i → a < at' i ∨ at' i + w ≤ a) → getB r.spad a = getB c.spad a) ∧
        (dest = none → r.timed = c.others) ∧
        ∀ d, dest = some d → ∃ v, r.timed = { t with due := t.due + 4, eff := .vw d m v } :: c.others ∧
          ∀ i, on i → lane v i = BitVec.ofNat 32 (mem (at' i) w)) ∧
      ∀ i j, i < j → on i → on j → (∀ n, on n → n = i ∨ n = j) → at' i = at' j →
        let first := new (mem (at' i) w) i
        getN r.spad (at' i) w = new first j ∧
        ∀ d, dest = some d → ∃ v, r.timed = { t with due := t.due + 4, eff := .vw d m v } :: c.others ∧
          lane v i = BitVec.ofNat 32 (mem (at' i) w) ∧ lane v j = BitVec.ofNat 32 first) ∧
    (∀ (ty : Ty) (old x : BitVec 32),
      atomNew ty .swap old x = x ∧
      (∀ n, (atomNew ty .and old x).getLsbD n = (old.getLsbD n && x.getLsbD n) ∧
        (atomNew ty .or old x).getLsbD n = (old.getLsbD n || x.getLsbD n) ∧
        (atomNew ty .xor old x).getLsbD n = (old.getLsbD n ^^ x.getLsbD n)) ∧
      (∀ i ∈ [Ty.s32, Ty.n32], atomNew i .add old x = BitVec.ofNat 32 (old.toNat + x.toNat)) ∧
      (atomNew .s32 .min old x).toInt = min old.toInt x.toInt ∧
      (atomNew .s32 .max old x).toInt = max old.toInt x.toInt ∧
      (atomNew .n32 .min old x).toNat = min old.toNat x.toNat ∧
      (atomNew .n32 .max old x).toNat = max old.toNat x.toNat ∧
      atomNew .f32 .add old x = f32Add old x ∧
      atomNew .f32 .min old x = toF32 ((f32v old).min (f32v x)) ∧
      atomNew .f32 .max old x = toF32 ((f32v old).max (f32v x)) ∧
      (atomNew .bf16 .add old x).toNat = bf16.encode ((b16v old.toNat).add (b16v x.toNat)) ∧
      (atomNew .bf16 .min old x).toNat = bf16.encode ((b16v old.toNat).min (b16v x.toNat)) ∧
      (atomNew .bf16 .max old x).toNat = bf16.encode ((b16v old.toNat).max (b16v x.toNat)))

/-- The tape and the adjoint cells at a beat (12 R277 to R280, 08 R195, 09 R218, R220). A mark pushes its record at
TAPEC and moves TAPEC up by 8, or pops the record below it, which must be a marker with the same mark. A taped store
pushes a record for each of its elements, with the element's number, region and old value, before its bytes are
written. A reverse-mode store pops a record for each element in order, which must name the element, and restores it; its
bytes outside every region are written; the adjoint cell of each whole element then goes into its lane and is cleared;
and a record that does not match is a
deferred fault with the low half of the record in TINFO. An accumulation adds to its cell, with one rounding.
Where the spec leaves a reading open, the model's choice is that of log entry 21. -/
def Obligations.BeatTape : Prop :=
  (∀ (gbc : Word) (c : Context) (t : Timed), c.Alone t →
    let r := (c.beat gbc).ctx
    let faults := (c.beat gbc).faults
    let top := c.tapec.toNat
    let below (n : Nat) : Nat := getN c.spad (top - 8 * (n + 1)) 8
    let mismatch (rec : Nat) : DFault := ⟨t.issue, t.addr, 0x12, 0, BitVec.ofNat 64 (rec % 2 ^ 32)⟩
    (∀ imm, t.eff = .markPush imm → top + 8 < 2 ^ 27 → faults = [] ∧ r.tapec.toNat = top + 8 ∧
      getN r.spad top 8 = 2 ^ 27 + imm.toNat * 2 ^ 32 ∧
      ∀ a, a < top ∨ top + 8 ≤ a → getB r.spad a = getB c.spad a) ∧
    (∀ imm, t.eff = .markPop imm → 8 ≤ top → r.tapec.toNat = top - 8 ∧ r.spad = c.spad ∧
      faults = (if below 0 / 2 ^ 27 % 2 = 1 ∧ below 0 / 2 ^ 32 % 2 ^ 16 = imm.toNat then []
        else [mismatch (below 0)])) ∧
    (∀ bytes es, t.eff = .store bytes es → top + 8 * es.length < 2 ^ 27 →
      (∀ e ∈ es, e.addr < 2 ^ 27 ∧ e.region < 16 ∧ e.width ≤ 4) →
      (∀ p ∈ bytes, p.1 < top ∨ top + 8 * es.length ≤ p.1) →
      faults = [] ∧ r.tapec.toNat = top + 8 * es.length ∧
      (∀ n e, es[n]? = some e → getN r.spad (top + 8 * n) 8 =
        e.addr + e.region * 2 ^ 28 + getN c.spad e.addr e.width * 2 ^ 32) ∧
      ∀ a, a < top ∨ top + 8 * es.length ≤ a → getB r.spad a =
        (match bytes.reverse.find? (fun p => p.1 == a) with
        | some p => p.2
        | none => getB c.spad a)) ∧
    (∀ es land, t.eff = .revStore es [] none land → 8 * es.length ≤ top → (∀ e ∈ es, e.whole = false) →
      (∀ e ∈ es, e.elem.addr + e.elem.width ≤ top - 8 * es.length ∨ top ≤ e.elem.addr) →
      es.Pairwise (fun x y => x.elem.addr + x.elem.width ≤ y.elem.addr ∨ y.elem.addr + y.elem.width ≤ x.elem.addr) →
      (∀ n e, es[n]? = some e → below n / 2 ^ 27 % 2 = 0 ∧ below n % 2 ^ 27 = e.elem.addr) →
      faults = [] ∧ r.tapec.toNat = top - 8 * es.length ∧ r.timed = c.others ∧
      (∀ n e, es[n]? = some e →
        getN r.spad e.elem.addr e.elem.width = below n / 2 ^ 32 % 2 ^ (8 * e.elem.width)) ∧
      ∀ a, (∀ e ∈ es, a < e.elem.addr ∨ e.elem.addr + e.elem.width ≤ a) → getB r.spad a = getB c.spad a) ∧
    (∀ e dest land, t.eff = .revStore [e] [] (some dest) land → 8 ≤ top → e.whole = true →
      let width := if e.elem.abf16 then 2 else 4
      let got := cellBits e.elem (getN c.spad e.elem.cell width) * 2 ^ e.shift
      e.elem.cell + width ≤ e.elem.addr ∨ e.elem.addr + e.elem.width ≤ e.elem.cell →
      below 0 / 2 ^ 27 % 2 = 0 → below 0 % 2 ^ 27 = e.elem.addr →
      faults = [] ∧ r.tapec.toNat = top - 8 ∧
      getN r.spad e.elem.addr e.elem.width = below 0 / 2 ^ 32 % 2 ^ (8 * e.elem.width) ∧
      getN r.spad e.elem.cell width = 0 ∧
      (∀ a, (a < e.elem.addr ∨ e.elem.addr + e.elem.width ≤ a) → (a < e.elem.cell ∨ e.elem.cell + width ≤ a) →
        getB r.spad a = getB c.spad a) ∧
      (∀ d m, dest = .v d m → ∃ v, r.timed = { t with due := land, eff := .vw d m v } :: c.others ∧
        ∀ i, i < 512 → act m i = true → lane v i = (if i = e.lane then BitVec.ofNat 32 got else 0)) ∧
      ∀ d, dest = .x d → e.lane = 0 →
        r.timed = { t with due := land, eff := .xw d (BitVec.ofNat 64 got) } :: c.others) ∧
    (∀ es bytes dest land, t.eff = .revStore es bytes dest land → 8 * es.length ≤ top →
      let cell (e : RevElem) : Nat × Nat := (e.elem.cell, if e.elem.abf16 then 2 else 4)
      let wholes := es.filter (·.whole)
      let spans := es.map (fun e => (e.elem.addr, e.elem.width)) ++ wholes.map cell ++
        [(top - 8 * es.length, 8 * es.length)]
      let got (i : Nat) : Nat := ((wholes.filter (·.lane == i)).map fun e =>
        cellBits e.elem (getN c.spad (cell e).1 (cell e).2) * 2 ^ e.shift).sum
      spans.Pairwise (fun x y => x.1 + x.2 ≤ y.1 ∨ y.1 + y.2 ≤ x.1) →
      (∀ p ∈ bytes, ∀ x ∈ spans, p.1 < x.1 ∨ x.1 + x.2 ≤ p.1) →
      (∀ n e, es[n]? = some e → below n / 2 ^ 27 % 2 = 0 ∧ below n % 2 ^ 27 = e.elem.addr) →
      faults = [] ∧ r.tapec.toNat = top - 8 * es.length ∧
      (∀ n e, es[n]? = some e →
        getN r.spad e.elem.addr e.elem.width = below n / 2 ^ 32 % 2 ^ (8 * e.elem.width)) ∧
      (∀ e ∈ wholes, getN r.spad (cell e).1 (cell e).2 = 0) ∧
      (∀ a, (∀ e ∈ es, a < e.elem.addr ∨ e.elem.addr + e.elem.width ≤ a) →
        (∀ e ∈ wholes, a < (cell e).1 ∨ (cell e).1 + (cell e).2 ≤ a) → getB r.spad a =
          (match bytes.reverse.find? (fun p => p.1 == a) with
          | some p => p.2
          | none => getB c.spad a)) ∧
      (dest = none → r.timed = c.others) ∧
      (∀ d m, dest = some (.v d m) → ∃ v, r.timed = { t with due := land, eff := .vw d m v } :: c.others ∧
        ∀ i, i < 512 → act m i = true → lane v i = BitVec.ofNat 32 (got i)) ∧
      ∀ d, dest = some (.x d) →
        r.timed = { t with due := land, eff := .xw d (BitVec.ofNat 64 (got 0)) } :: c.others) ∧
    (∀ e dest land, t.eff = .revStore [e] [] dest land → 8 ≤ top →
      (below 0 / 2 ^ 27 % 2 = 1 ∨ below 0 % 2 ^ 27 ≠ e.elem.addr) →
      faults = [mismatch (below 0)] ∧ r.spad = c.spad ∧ r.tapec.toNat = top - 8) ∧
    (∀ l cell, t.eff = .accum l → (∀ x ∈ l, x.cell = cell) →
      (∀ a, a < cell ∨ cell + 4 ≤ a → getB r.spad a = getB c.spad a) ∧
      ((∀ x ∈ l, x.abf16 = false) → getN r.spad cell 4 =
        (l.foldl (fun s x => f32Add s x.value) (BitVec.ofNat 32 (getN c.spad cell 4))).toNat) ∧
      ((∀ x ∈ l, x.abf16 = true) → getN r.spad cell 2 =
        l.foldl (fun s x => bf16.encode ((b16v s).add (if x.pbf16 then b16v x.value.toNat else f32v x.value)))
          (getN c.spad cell 2)))) ∧
  ∀ (e : Elem) (x : Nat),
    (e.abf16 = false ∨ e.width ≠ 4 → cellBits e x = x) ∧
    (e.abf16 = true → e.width = 4 → x < 2 ^ 16 →
      cellBits e x = if 0x7F80 < x % 2 ^ 15 then 0x7FC0_0000 else x * 2 ^ 16)

/-- The accumulator, the matrix engine, the write-back path and the saturation counters at a beat (02 R75, R76, 03 R96
to R100, 10 R230 to R232, R241 to R248). Banks that are acquired, zeroed or released become zero, and a read lands two
beats on. Each contribution is added to its position in order, the first of an INIT command to zero, also before those
that later-issued commands have made to it; an INT32 sum clips at the format's limits and counts, once its place in
the order of issue is known. A counter takes the sum of its updates and the largest magnitude, and when it passes its
LIMIT from below the saturation trap becomes pending. A K-step gives, fifteen beats on, the blocks that end in it,
from codes read now and, where a block straddles steps, from those kept by the step before. `acvt` converts its
positions at its start, in every layout and format; the bytes, an MXINT destination's scale bytes among them, and the
counts land six beats on. A block sum is that of 03 R98 for MXINT and of R99 for FP8 and BF16; a derived scale is that
of R94.
Where the spec leaves a reading open, the model's choice is that of log entries 23 and 24. -/
def Obligations.BeatEngines : Prop :=
  (∀ (gbc : Word) (c : Context) (t : Timed), c.Alone t →
    let r := (c.beat gbc).ctx
    let cell (c : Context) (bank i : Nat) : BitVec 32 := lane (bankOf c.banks bank) i
    let start (old : BitVec 32) (x : Contrib) : Int := if x.init then 0 else old.toInt
    let add (old : BitVec 32) (x : Contrib) : BitVec 32 := match x.val with
      | .fp bits => f32Add (if x.init then 0 else old) bits
      | .int d _ => BitVec.ofInt 32 (max (-2 ^ 31) (min (2 ^ 31 - 1) (start old x + d)))
    let counted (k : Fin 16) (n amax : Nat) : Prop :=
      (r.count.get k).toNat = min ((c.count.get k).toNat + n) (2 ^ 48 - 1) ∧
      (r.amax.get k).toNat = max (c.amax.get k).toNat amax ∧
      ∀ k', k' ≠ k → r.count.get k' = c.count.get k' ∧ r.amax.get k' = c.amax.get k'
    (∀ first n, t.eff = .zeroBanks first n ∨ t.eff = .freeBanks first n → ∀ bank,
      bankOf r.banks bank = if first ≤ bank ∧ bank < first + n then 0 else bankOf c.banks bank) ∧
    (∀ d bank clr, t.eff = .readBank d bank clr →
      r.timed = { t with due := t.due + 2, eff := .vw d (BitVec.allOnes 512) (bankOf c.banks bank) } :: c.others ∧
      ∀ n, bankOf r.banks n = if clr = true ∧ n = bank then 0 else bankOf c.banks n) ∧
    (∀ l, t.eff = .contribs l → (∀ x ∈ l, x.elem < 512) → c.late = [] →
      ∀ bank i, i < 512 → cell r bank i =
        (l.filter fun x => x.bank == bank && x.elem == i).foldl add (cell c bank i)) ∧
    (∀ x e, t.eff = .contribs [x] → x.elem < 512 → c.late = [e] → e.x.bank = x.bank → e.x.elem = x.elem →
      t.issue < e.issue → cell r x.bank x.elem = add (add e.base x) e.x) ∧
    (∀ x m, t.eff = .contribs [x] → x.elem < 512 → c.late = [] → m ∈ c.cmds → m.owes t.issue c.cbc x.bank = true →
      r.count = c.count ∧ r.amax = c.amax ∧ r.late = [⟨t.issue, cell c x.bank x.elem, x⟩]) ∧
    (∀ (m : Cmd) b n, m.owes t.issue b n = true ↔ (m.kind = .mxmm ∨ m.kind = .ltlook) ∧ m.issue < t.issue ∧
      b < m.complete ∧ m.bank ≤ n ∧ 16 * (n - m.bank) < m.accRows) ∧
    (∀ x d k, t.eff = .contribs [x] → x.elem < 512 → x.val = .int d k → d.natAbs < 2 ^ 64 → c.late = [] →
      (∀ m ∈ c.cmds, m.owes t.issue c.cbc x.bank = false) →
      let sum := start (cell c x.bank x.elem) x + d
      (-2 ^ 31 ≤ sum ∧ sum < 2 ^ 31 → r.count = c.count ∧ r.amax = c.amax) ∧
      (sum < -2 ^ 31 ∨ 2 ^ 31 ≤ sum → counted k 1 (roundMag fp32 .up sum.natAbs 0))) ∧
    (∀ k n amax, t.eff = .cnt k n amax → c.late = [] → counted k n amax.toNat ∧
      let crosses := (c.count.get k).toNat ≤ (c.limit.get k).toNat ∧ (c.limit.get k).toNat < (r.count.get k).toNat
      let bit : Word := BitVec.ofNat 64 (2 ^ k.val)
      (¬crosses → r.pending = c.pending ∧ r.crossed = c.crossed) ∧
      (crosses → r.crossed.getLsbD k.val = true ∧
        (c.pending.find? (fun p => p.code == 0x28) = none → r.pending = c.pending ++ [⟨0x28, bit⟩]) ∧
        ∀ p, c.pending.find? (fun p => p.code == 0x28) = some p →
          r.pending.find? (fun p => p.code == 0x28) = some { p with info := p.info ||| bit })) ∧
    (∀ id j m kb, t.eff = .mxStep id j → c.cmd id = some m →
      let p := strm m.p
      let q := strm m.q
      kbeat p q = some kb → p.global = false → q.global = false → 0 < p.lines → 0 < q.lines → p.lines ≤ 64 →
      q.lines ≤ 32 → p.len < 2 ^ 16 →
      let lo := j * kb
      let hi := min ((j + 1) * kb) p.len
      let first := lo / 32
      let last := if hi = p.len then (hi + 31) / 32 else hi / 32
      let code (side : Nat) (d : Strm) (l i : Nat) : Nat :=
        if i < lo then (mapGet 0 m.buf (bufKey side l i)).toNat else d.code (getB c.spad) l i
      let block (side : Nat) (d : Strm) (l k : Nat) : List Nat :=
        (List.range (min (32 * k + 32) hi - 32 * k)).map fun i => code side d l (32 * k + i)
      let scale (side : Nat) (d : Strm) (l k : Nat) : Nat := if m.int then 0 else d.scale c.spad m.sq side l k
      lo < hi →
      (∃ l, r.timed = { t with due := t.due + 15, eff := .contribs l } :: c.others ∧
        (∀ x ∈ l, ∃ a b, a < p.lines ∧ b < q.lines ∧ x.bank = m.bank + (32 * a + b) / 512 ∧
          x.elem = (32 * a + b) % 512) ∧
        ∀ a b, a < p.lines → b < q.lines →
          (l.filter fun x => x.bank == m.bank + (32 * a + b) / 512 && x.elem == (32 * a + b) % 512) =
            (List.range (last - first)).map fun i =>
              ⟨m.bank + (32 * a + b) / 512, (32 * a + b) % 512, m.init && first + i == 0,
                blockPair m p q (block 0 p a (first + i)) (block 1 q b (first + i)) (scale 0 p a (first + i))
                  (scale 1 q b (first + i))⟩) ∧
      ∀ side d l i, (side = 0 ∧ d = p) ∨ (side = 1 ∧ d = q) → l < d.lines → 32 * last ≤ i → i < hi →
        ((r.cmd id).map fun x => mapGet 0 x.buf (bufKey side l i)) = some (BitVec.ofNat 32 (code side d l i))) ∧
    (∀ id m, t.eff = .writeBack id → c.cmd id = some m →
      let d := strm m.p
      let nblk := (d.cols + 31) / 32
      let value (i j : Nat) : FV :=
        let x := if d.tr then 32 * j + i else 32 * i + j
        accVal m.int (cell c (m.bank + x / 512) (x % 512))
      let E (i k : Nat) : Nat := match m.scale with
        | .noscale => 127
        | .sq => m.sq.toNat % 256
        | .derive => deriveScale d.bits ((List.range (min 32 (d.cols - 32 * k))).map fun n => value i (32 * k + n))
      let exp (i k : Nat) : Option Int := if E i k = 0xFF then none
        else some (if m.scale = .derive then 127 - (E i k : Int) else E i k - 127)
      let byte (i k : Nat) : Nat := if m.scale = .derive ∨ E i k = 0xFF then E i k else 254 - E i k
      let conv (i j : Nat) : Conv := convert (value i j) (exp i (j / 32)) (dstOf d.ty) m.ftz
      let code (i j : Nat) : Nat := if i < d.rows ∧ j < d.cols then (conv i j).out else 0
      let wide := if d.isMx then 32 * nblk else d.cols
      let w := d.bits / 8
      let all : List (Nat × Nat) := (List.range d.rows).flatMap fun i => (List.range d.cols).map fun j => (i, j)
      (d.layout = 2 ∧ d.isMx = true) ∨ (d.layout < 2 ∧ d.bits ≠ 6) →
      ∃ bytes n amax, r.timed = { t with due := t.due + 6, eff := .cnt m.sc n (BitVec.ofNat 32 amax) } ::
          { t with due := t.due + 6, eff := .store bytes [] } :: c.others ∧
        n = (all.filter fun p => (conv p.1 p.2).sat).length ∧
        (∀ p ∈ all, (conv p.1 p.2).amax.getD 0 ≤ amax) ∧
        (amax = 0 ∨ ∃ p ∈ all, (conv p.1 p.2).amax = some amax) ∧
        ∀ a v, (a, v) ∈ bytes ↔ a < c.spadShare ∧
          ((d.layout = 0 ∧ d.bits ≠ 4 ∧ ∃ i j n, i < d.rows ∧ j < wide ∧ n < w ∧ a = d.base + i * d.stride + j * w + n ∧
              v = BitVec.ofNat 8 (code i j / 2 ^ (8 * n))) ∨
            (d.layout = 1 ∧ d.bits ≠ 4 ∧ ∃ i j n, i < d.rows ∧ j < wide ∧ n < w ∧
              a = d.base + j * d.stride + i * w + n ∧
              v = BitVec.ofNat 8 (code i j / 2 ^ (8 * n))) ∨
            (d.layout = 0 ∧ d.bits = 4 ∧ ∃ i j, i < d.rows ∧ j < wide / 2 ∧ a = d.base + i * d.stride + j ∧
              v = BitVec.ofNat 8 (code i (2 * j) + 16 * code i (2 * j + 1))) ∨
            (d.layout = 1 ∧ d.bits = 4 ∧ ∃ i j, i < (d.rows + 1) / 2 ∧ j < wide ∧ a = d.base + j * d.stride + i ∧
              v = BitVec.ofNat 8 (code (2 * i) j + 16 * code (2 * i + 1) j)) ∨
            (d.layout = 2 ∧ ∃ i k p n, i < d.rows ∧ k < nblk ∧ p < d.stored2 ∧ n < 8 ∧
              a = d.base + i * d.stride + 8 * d.stored2 * k + 8 * p + n ∧
              let digit (e : Nat) : Nat := code i (32 * k + 4 * n + e) / 4 ^ p % 4
              v = BitVec.ofNat 8 (digit 0 + 4 * digit 1 + 16 * digit 2 + 64 * digit 3)) ∨
            (d.isMx = true ∧ ∃ i k, i < d.rows ∧ k < nblk ∧ a = d.scbase + i * nblk + k ∧
              v = BitVec.ofNat 8 (byte i k))))) ∧
  (∀ x : BitVec 32, accVal true x = .fin (decide (x.toInt < 0)) x.toInt.natAbs 0 ∧ accVal false x = f32v x) ∧
  (∀ (P : Nat) (xs : List FV),
    let zero (x : FV) : Prop := ∃ n e, x = .fin n 0 e
    let level (x : FV) (L : Int) : Prop := ∃ n m e, x = .fin n m e ∧ m ≠ 0 ∧ e + Nat.log2 m = L
    (.nan ∈ xs → deriveScale P xs = 0xFF) ∧
    (.nan ∉ xs → (∃ n, .inf n ∈ xs) → deriveScale P xs = 254) ∧ ((∀ x ∈ xs, zero x) → deriveScale P xs = 127) ∧
    ∀ L, (∃ x ∈ xs, level x L) → (∀ x ∈ xs, zero x ∨ ∃ L', L' ≤ L ∧ level x L') →
      (deriveScale P xs : Int) = max 0 (min 254 (L - ((P : Int) - 2) + 127))) ∧
  (∀ (ps : List FV) (sa sb : Nat),
    let zero (x : FV) : Prop := ∃ n e, x = .fin n 0 e
    let level (x : FV) (L : Int) : Prop := ∃ n m e, x = .fin n m e ∧ m ≠ 0 ∧ e + Nat.log2 m = L
    let bad : Prop := .nan ∈ ps ∨ (.inf false ∈ ps ∧ .inf true ∈ ps) ∨ sa = 0xFF ∨ sb = 0xFF
    (bad → blockFloat ps sa sb = 0x7FC0_0000#32) ∧
    (¬bad → .inf false ∈ ps → blockFloat ps sa sb = 0x7F80_0000#32) ∧
    (¬bad → .inf true ∈ ps → blockFloat ps sa sb = 0xFF80_0000#32) ∧
    (¬bad → (∀ x ∈ ps, zero x) → blockFloat ps sa sb = 0) ∧
    ∀ L, ¬bad → (∃ x ∈ ps, level x L) → (∀ x ∈ ps, zero x ∨ ∃ L', L' ≤ L ∧ level x L') →
      let W := L - 57
      let term (x : FV) : Int := match x with
        | .fin n m e => (if n then -1 else 1) * ((m * 2 ^ (e - W).toNat / 2 ^ (W - e).toNat : Nat) : Int)
        | _ => 0
      let S := (ps.map term).sum
      blockFloat ps sa sb =
        if S = 0 then 0 else toF32 (.fin (decide (S < 0)) S.natAbs (W + ((sa : Int) - 127) + ((sb : Int) - 127)))) ∧
  (∀ (m : Cmd) (p q : Strm) (xs ys : List Nat) (sa sb : Nat), p.isMx = false →
    blockPair m p q xs ys sa sb =
      .fp (blockFloat ((List.zip xs ys).map fun e => (elemVal p.ty e.1).mul (elemVal q.ty e.2)) sa sb)) ∧
  ∀ (m : Cmd) (p q : Strm) (xs ys : List Nat) (sa sb : Nat), p.isMx = true →
    let sum := ((List.zip xs ys).map fun e => p.mxVal e.1 * q.mxVal e.2).sum
    blockPair m p q xs ys sa sb = if m.int then .int sum m.sc
      else .fp (if sa = 0xFF ∨ sb = 0xFF then 0x7FC0_0000#32
        else if sum = 0 then 0
        else toF32 (.fin (decide (sum < 0)) sum.natAbs ((sa : Int) + sb - 254)))

/-- The tables at a beat (11 R250 to R254, R258 to R268, 03 R90). A build or a fill invalidates the registers that it
will write. A build step reads the activations, and its tables, which hold every subset sum of their groups, land three
beats on; a table that a store has touched since lands invalid. A spill writes each register's record two beats on, and
a fill reads records and, a beat later, their spans: what was built from unchanged bytes comes back as it was, and no
table is valid over changed ones. A lookup adds, eleven beats on, the block sums, each group's being the product of its
weights and activations, under the weight scale of 11 R261; the first table that it may not use, or index beyond a
short group, is a deferred fault, by the conditions of 11 R262.
Where the spec leaves a reading open, the model's choice is that of log entry 24. -/
def Obligations.BeatTables : Prop :=
  let off (x : Table) : Table := { x with meta0 := x.meta0 &&& BitVec.ofNat 64 (2 ^ 64 - 2) }
  let record (x : Table) : Nat :=
    x.entries.toNat + x.meta0.toNat * 2 ^ 256 + x.meta1.toNat * 2 ^ 320 + x.copy.toNat * 2 ^ 384
  (∀ (gbc : Word) (c : Context) (t : Timed), c.Alone t → (∀ p ∈ c.pendTables, p.due ≠ c.cbc) →
    let r := (c.beat gbc).ctx
    (∀ first n gen, t.eff = .prepTables first n (some gen) → ∀ reg,
      let x := c.table reg
      let y := r.table reg
      if first ≤ reg ∧ reg < first + n then
        (y.entries, y.meta1, y.copy) = (x.entries, x.meta1, x.copy) ∧ y.meta0.getLsbD 0 = false ∧
          y.meta0.extractLsb' 13 16 = gen ∧ y.meta0.extractLsb' 1 12 = x.meta0.extractLsb' 1 12 ∧
          y.meta0.extractLsb' 29 35 = x.meta0.extractLsb' 29 35
      else y = x) ∧
    (∀ first n, t.eff = .prepTables first n none → ∀ reg,
      r.table reg = if first ≤ reg ∧ reg < first + n then off (c.table reg) else c.table reg) ∧
    (∀ bytes, t.eff = .store bytes [] → r.pendTables = c.pendTables.map fun p =>
      if (bytes.any fun e => p.table.watches e.1) = true then { p with spoiled := true } else p) ∧
    (∀ id j m, t.eff = .buildStep id j → c.cmd id = some m →
      let d := strm m.p
      r.timed = c.others ∧ r.pendTables = c.pendTables ++
        (List.range (min 1024 (d.lines * d.groups - 1024 * j))).map fun i =>
          let n := 1024 * j + i
          ⟨t.due + 3, m.t0 + n, buildTable c.spad d m.gen (n / d.groups) (n % d.groups), false⟩) ∧
    (∀ id j m, t.eff = .spillStep id j → c.cmd id = some m →
      let d := strm m.p
      r.timed = { t with
        due := t.due + 2
        eff := .store ((List.range (min 256 (d.lines - 256 * j))).flatMap fun i =>
          let n := 256 * j + i
          bytesAt (d.base + n * d.stride) (toBytes 64 (record (c.table (m.t0 + n))))) [] } :: c.others) ∧
    (∀ id j m, t.eff = .fillStep id j → c.cmd id = some m →
      let d := strm m.p
      r.timed = { t with
        due := t.due + 1
        eff := .fillCheck id j ((List.range (min 256 (d.lines - 256 * j))).map fun i =>
          let n := 256 * j + i
          (m.t0 + n, BitVec.ofNat 512 (getN c.spad (d.base + n * d.stride) 64))) } :: c.others) ∧
    (∀ id j recs, t.eff = .fillCheck id j recs → r.pendTables = c.pendTables ++
      recs.map fun x => ⟨t.due + 2, x.1, fillTable c x.2, false⟩) ∧
    (∀ id j m, t.eff = .lookStep id j → c.cmd id = some m →
      let w := strm m.p
      let d := strm m.q
      let b := wbitsNat m.wb
      let first := j * (2048 / b) / 32
      let last := min ((j + 1) * (2048 / b) / 32) d.blocks
      let fault (x : Nat × Nat) : Option (Nat × Nat × Nat) :=
        let reg := m.t0 + x.1 * d.groups + x.2
        tableFault c.spad w d b x.1 x.2 reg (c.table reg)
      let looked : List (Nat × Nat) := (List.range d.lines).flatMap fun i =>
        (List.range (min (8 * last) d.groups - 8 * first)).map fun q => (i, 8 * first + q)
      let scale (i k : Nat) : Nat := (c.table (m.t0 + i * d.groups + 8 * k)).ascale
      w.lines ≤ 32 →
      ((∀ x ∈ looked, fault x = none) → (c.beat gbc).faults = [] ∧
        ∃ l, r.timed = { t with due := t.due + 11, eff := .contribs l } :: c.others ∧
          (∀ x ∈ l, ∃ i n, i < d.lines ∧ n < w.lines ∧ x.bank = m.bank + (32 * i + n) / 512 ∧
            x.elem = (32 * i + n) % 512) ∧
          ∀ i n, i < d.lines → n < w.lines →
            (l.filter fun x => x.bank == m.bank + (32 * i + n) / 512 && x.elem == (32 * i + n) % 512) =
              (List.range (last - first)).map fun z =>
                let k := first + z
                let sum := lookSum c m w d b i n k
                ⟨m.bank + (32 * i + n) / 512, (32 * i + n) % 512, m.init && k == 0,
                  if m.int then .int sum m.sc else .fp (blockInt sum (scale i k) (weightScale m d.blocks n k))⟩) ∧
      ∀ before x rest code cause info, looked = before ++ x :: rest → (∀ y ∈ before, fault y = none) →
        fault x = some (code, cause, info) → r.timed = c.others ∧
          (c.beat gbc).faults = [⟨t.issue, t.addr, code, cause, BitVec.ofNat 64 info⟩])) ∧
  (∀ (gbc : Word) (c : Context) (p : PendTable), (∀ t ∈ c.timed, t.due ≠ c.cbc) → c.phase2 = [] → c.phase3 = [] →
    mapWf Table.zero c.tables = true → c.pendTables.filter (fun x => x.due == c.cbc) = [p] →
    let r := (c.beat gbc).ctx
    r.pendTables = c.pendTables.filter (fun x => x.due != c.cbc) ∧
    ∀ reg, r.table reg = if reg = p.reg then (if p.spoiled then off p.table else p.table) else c.table reg) ∧
  (∀ (spad : List Host.Cell) (w t : Strm) (b m q reg : Nat) (x : Table),
    let span := t.span m q
    let mx := t.ty == .mx8
    let fits : Prop := x.mx = mx ∧ x.sv = mx ∧ x.gran = span.1 ∧ x.bmask = span.2.1 ∧ (mx = true → x.saddr = span.2.2)
    let index (n p : Nat) : Nat :=
      getN spad (w.base + n * w.stride + 4 * b * (q / 8) + 4 * p) 4 / 2 ^ (4 * (q % 8)) % 2 ^ 4
    let limit := 2 ^ min x.groupSize (t.groupLen q)
    let first := tableFault spad w t b m q reg x
    (∀ n p, weightIndex spad w b n q p = index n p) ∧
    (x.valid = false → first = some (0x10, 1, reg)) ∧
    (x.valid = true → ¬fits → first = some (0x10, 2, reg)) ∧
    (x.valid = true → fits → ((∀ n p, n < w.lines → p < b → index n p < limit) → first = none) ∧
      ∀ n p, n < w.lines → p < b → limit ≤ index n p →
        (∀ n' p', p' < b → n' < n ∨ (n' = n ∧ p' < p) → index n' p' < limit) →
        first = some (0x11, 0, reg + index n p * 2 ^ 16))) ∧
  (∀ (c : Context) (m : Cmd) (w d : Strm) (b r n k nblk : Nat),
    let i := n * nblk + k
    lookSum c m w d b r n k = ((List.range (min 8 (d.groups - 8 * k))).map fun z =>
      let q := 8 * k + z
      groupSum (c.table (m.t0 + r * d.groups + q)) b (d.groupLen q)
        ((List.range b).map fun p => weightIndex c.spad w b n q p)).sum ∧
    (m.useSq = true → weightScale m nblk n k = m.sq.toNat / 2 ^ (8 * i) % 2 ^ 8) ∧
    (m.useSq = false → weightScale m nblk n k =
      (lane (m.scales.getD (i / 2 ^ 11) 0) (i / 4 % 512)).toNat / 2 ^ (8 * (i % 4)) % 2 ^ 8)) ∧
  (∀ (c c' : Context) (d : Strm) (gen : BitVec 16) (l q : Nat), d.isActivation = true → d.base % 32 = 0 →
    d.stride % 32 = 0 → l < d.lines → q < d.groups →
    let x := buildTable c.spad d gen l q
    let acts := (List.range (d.groupLen q)).map fun e => signed 8 (d.code (getB c.spad) l (4 * q + e))
    let span := d.span l q
    let y := fillTable c' (BitVec.ofNat 512 (record x))
    span.1 * 32 + 31 < c'.spadShare → span.2.2 < c'.spadShare →
    (x.valid = true ∧ x.groupSize = d.groupLen q ∧ x.mx = (d.ty == .mx8) ∧ x.sv = (d.ty == .mx8) ∧
      x.gran = span.1 ∧ x.bmask = span.2.1 ∧ x.saddr = span.2.2 ∧ x.meta0.extractLsb' 13 16 = gen ∧
      x.ascale = (if d.ty == .mx8 then (getB c.spad span.2.2).toNat else 127) ∧
      ∀ i, i < 2 ^ d.groupLen q → x.entry i = subsetSum acts i) ∧
    (c'.spad = c.spad → y = x) ∧ (y = x ∨ y = off x) ∧
    (y.valid = true → ∀ a, x.watches a = true → getB c'.spad a = getB c.spad a)) ∧
  ∀ (x : Table) (acts : List Int) (b : Nat) (idx : List Nat), acts ≠ [] → acts.length ≤ 4 → b ∈ [1, 2, 4] →
    idx.length = b → (∀ i ∈ idx, i < 2 ^ acts.length) → (∀ i, i < 2 ^ acts.length → x.entry i = subsetSum acts i) →
    let bit (p e : Nat) : Int := if (idx.getD p 0).testBit e then 1 else 0
    let weight (e : Nat) : Int :=
      if b = 1 then 2 * bit 0 e - 1
      else ((List.range (b - 1)).map fun p => 2 ^ p * bit p e).sum - 2 ^ (b - 1) * bit (b - 1) e
    groupSum x b acts.length idx = ((List.range acts.length).map fun e => acts.getD e 0 * weight e).sum

/-- A bundle's beat (01 R23, R43, R47, 08 R178, R185): CBC rises by one; the next bundle is the one that follows, or the
taken target of the bundle two before it, so that two delay bundles issue in between; QCNT counts a Q bundle; the header
gives the idle beats; what has landed stands; and no other context changes. At a `halt` bundle the task ends instead. -/
def Obligations.BeatFixesNextBundle : Prop :=
  ∀ (s : State) (b : Fin 8) (q : Fin 4),
    let c := s.ctx b q
    let r := c.beat (s.brick b).gbc
    c.run = .running → c.phase = .beatDue → c.phase3 = [] → r.faults = [] →
    (c.halting = false → ∃ t, exec (.contextBeat b q) s = .next t ∧
      let c' := t.ctx b q
      c'.cbc = c.cbc + 1 ∧ c'.phase = .entry ∧ c'.run = .running ∧ c'.beatThisCycle = true ∧
      c'.pc = (match c.redir0 with
        | some a => a.toNat
        | none => c.pc + 48) ∧
      c'.redir0 = c.redir1 ∧ c'.redir1 = c.takenTo ∧ c'.takenTo = none ∧
      c'.qcnt = (if c.header % 2 = 1 then c.qcnt + 1 else c.qcnt) ∧ c'.idleLeft = c.header / 2 % 16 ∧
      c'.x = r.ctx.x ∧ c'.v = r.ctx.v ∧ c'.p = r.ctx.p ∧ c'.s = r.ctx.s ∧ c'.spad = r.ctx.spad ∧ c'.imem = c.imem ∧
      t.mem = s.mem ∧ ∀ b' q', (b', q') ≠ (b, q) → t.ctx b' q' = s.ctx b' q') ∧
    (c.halting = true → r.ctx.pending = [] →
      ∃ t, exec (.contextBeat b q) s = .next t ∧ (t.ctx b q).run = .ended ∧
        ∀ b' q', (b', q') ≠ (b, q) → t.ctx b' q' = s.ctx b' q')

/-! ### Traps -/

/-- Taking a trap (05 R130, R134, R138, R146): the status registers say what, where and when; a fault that firmware
serves freezes the context in service at the slot or bundle that will issue on resume, unless it recurs there with no
beat taken in between; every other fault ends every task of the context's kernel, and no context of another.
The end of a task (01 R43, 05 R142, R146, 21 R400): its record joins those of the kernel, its bytes as laid out, with
what its own fault, that of a sibling or an asynchronous one gives them. The end of a kernel (01 R44, 04 R124, 21 R399,
R400): with every task's record there and nothing left to deliver, it posts its report, a header and as many records as
fit, in ascending COORD, then the completion entry at CTAIL, then CTAIL, then the vector.
Where the spec leaves a reading open, the model's choice is that of log entries 20, 28 and 30. -/
def Obligations.TrapTaking : Prop :=
  (∀ (c : Context) (x : Trap), x.code < 256 → x.cause < 256 → x.slot < 8 → x.addr < 2 ^ 21 →
    let d := c.setTrap x
    d.tstat.toNat = x.code + 256 * x.cause + (if x.prec = .slot then 2 ^ 16 * x.slot else 0) + 2 ^ 19 * x.prec.code ∧
    d.taddr.toNat = x.addr ∧ d.tbeat = BitVec.ofNat 64 x.beat ∧ d.tinfo = x.info ∧
    d.tibeat = BitVec.ofNat 64 x.ibeat ∧
    d.srw.toNat = (match x.prec with
      | .boundary => 8
      | .deferred => 0
      | _ => x.slot)) ∧
  (∀ (s : State) (b : Fin 8) (q : Fin 4) (x : Trap), x.code ∈ [0x20, 0x21, 0x22, 0x28] →
    let c := s.ctx b q
    x.prec ≠ .slot ∨ c.serviced ≠ some (x.code, x.slot, c.pc, c.cbc) →
    (s.takeTrap b q x).ctx b q = { c.setTrap x with
      run := .service (s.brick b).gbc, frozenSince := none, svcDone := false, svcCounted := 0
      phase := if x.prec = .slot then .split (Fin.ofNat 8 x.slot) else .entry
      slipHeld := c.slipAt (s.brick b).gbc c.cbc
      pre := if x.code = 0x22 then c.pre else none } ∧
    (s.takeTrap b q x).mem = s.mem ∧
    ∀ b' q', (b', q') ≠ (b, q) → (s.takeTrap b q x).ctx b' q' = s.ctx b' q') ∧
  (∀ (s : State) (b : Fin 8) (q : Fin 4) (x : Trap) (k : Kernel),
    let c := s.ctx b q
    x.code ∉ [0x20, 0x21, 0x22, 0x28] ∨ (x.prec = .slot ∧ c.serviced = some (x.code, x.slot, c.pc, c.cbc)) →
    s.kernel c.kernel = some k →
    (∀ p ∈ k.seats, (s.ctx p.1 p.2).kernel = c.kernel → ((s.takeTrap b q x).ctx p.1 p.2).run.over = true) ∧
    ∀ b' q', (s.ctx b' q').kernel ≠ c.kernel → (s.takeTrap b q x).ctx b' q' = s.ctx b' q') ∧
  (∀ (s : State) (b : Fin 8) (q : Fin 4) (c : Context) (e : EndInfo),
    let r := taskRecord s b q c e
    let ending : Nat := match e.kind with
      | .halted => 0
      | .killed => 1
      | .sibling => 2
      | .stall => 3
      | .machineCheck => 4
    let slip := match c.run with
      | .armed _ => 0
      | .restored => (c.restoring.getD (0, none)).1
      | _ => c.slipAt (s.brick b).gbc (if e.kind ≠ TaskEnd.halted ∧ c.beatThisCycle = true then c.cbc - 1 else c.cbc)
    r.length = 384 ∧
    (∀ f ∈ [(0, 2, c.coord), (2, 2, b.val), (4, 1, q.val), (5, 1, ending), (6, 1, e.code), (7, 1, e.cause),
        (8, 1, e.slot), (9, 1, e.prec), (10, 1, if c.wcol then 1 else 0), (11, 1, 0), (12, 4, c.discarded),
        (16, 8, e.taddr), (24, 8, e.tbeat), (32, 8, e.tinfo), (40, 8, e.srw), (48, 8, slip.toNat), (56, 8, e.cbc),
        (68, 4, c.outAtKill.toNat), (104, 2, c.scst.toNat), (106, 2, c.crossed.toNat), (108, 4, 0), (304, 80, 0)],
      fieldAt r f.1 f.2.1 = f.2.2 % 2 ^ (8 * f.2.1)) ∧
    (∀ k : Fin 32, ((fieldAt r 64 4).testBit k.val = true ↔
        c.unconsumed.getLsbD k.val = true ∨ ∃ x, c.tok.get k = .error x) ∧
      fieldAt r (72 + k.val) 1 = (match c.tok.get k with
        | .error x => x.toNat
        | _ => 0)) ∧
    ∀ k : Fin 16, fieldAt r (112 + 8 * k.val) 8 = (c.count.get k).toNat ∧
      fieldAt r (240 + 4 * k.val) 4 = (c.amax.get k).toNat) ∧
  (∀ c : Context,
    let split := match c.phase with
      | .issuing k => k.val
      | .split k => k.val
      | _ => 0
    let last := if c.halting = true ∧ c.phase = .entry then c.cbc else c.cbc - 1
    let t := c.tstat.toNat
    siblingEnd c = ⟨.sibling, 0, 0, 0, 0, c.pc, c.cbc, 0, split, last, c.cbc⟩ ∧
    (∀ kind code cause, asyncEnd c kind code cause =
      ⟨kind, code, cause, 0, 4, c.pc, c.cbc, cause, split, last, c.cbc⟩) ∧
    haltEnd c = ⟨.halted, 0, 0, 0, 0, 0, 0, 0, 0, c.cbc, 0⟩ ∧
    ownEnd c = ⟨.killed, t % 2 ^ 8, t / 2 ^ 8 % 2 ^ 8, t / 2 ^ 16 % 2 ^ 3, t / 2 ^ 19 % 2 ^ 3, c.taddr.toNat,
      c.tbeat.toNat, c.tinfo.toNat, c.srw.toNat, last, c.tibeat.toNat⟩) ∧
  (∀ (s : State) (b : Fin 8) (q : Fin 4) (c : Context) (e : EndInfo) (k : Kernel), s.kernel c.kernel = some k →
    let t := s.endTask b q c e
    (t.ctx b q).run = (if e.kind = TaskEnd.halted then Run.ended else Run.killed) ∧
    (∀ b' q', (b', q') ≠ (b, q) → t.ctx b' q' = s.ctx b' q') ∧ t.mem = s.mem ∧
    ∃ k', t.kernel c.kernel = some k' ∧ k'.reports = k.reports ++ [(c.coord, taskRecord s b q
      { c with unconsumed := c.unconsumed ||| k.relErr c.coord } e)]) ∧
  (∀ (tag : Word) (seq : BitVec 16) (status reason n ndim flags gbcs gbcend pfree pbase first : Nat),
    let h := reportHeader tag seq status reason n ndim flags gbcs gbcend pfree pbase first
    let y := completionEntry tag seq status reason n gbcend
    let holds (l : List Byte) (f : Nat × Nat × Nat) : Prop := fieldAt l f.1 f.2.1 = f.2.2 % 2 ^ (8 * f.2.1)
    h.length = 64 ∧ y.length = 32 ∧
    (∀ f ∈ [(0, 8, tag.toNat), (8, 2, seq.toNat), (10, 1, status), (11, 1, reason), (12, 2, n), (14, 1, ndim),
      (15, 1, flags), (16, 8, gbcs), (24, 8, gbcend), (32, 2, pfree), (34, 2, pbase), (36, 2, first), (38, 26, 0)],
      holds h f) ∧
    ∀ f ∈ [(0, 8, tag.toNat), (8, 2, seq.toNat), (10, 1, status), (11, 1, reason), (12, 4, n), (16, 8, gbcend),
      (24, 8, 0)], holds y f) ∧
  (∀ (s : State) (k : Kernel) (recs : List (Nat × List Byte)), recs.Perm k.reports →
    recs.Pairwise (fun x y => x.1 < y.1) →
    let g := (k.endGbc.getD (s.brick 0).gbc).toNat
    let fit := min recs.length ((k.reportLen - 64) / 384)
    let status := if k.firstKill = none ∧ k.relRecs = [] then 0 else 1
    let reason := k.firstKill.elim 0 fun x => x.1.toNat
    let header := reportHeader k.tag k.seq status reason (2 ^ k.ndim) k.ndim (if fit < recs.length then 1 else 0)
      k.gbcs.toNat g k.pfree.toNat k.pbase.toNat (k.firstKill.elim 0 fun x => x.2.toNat)
    let t := ({ s with kernels := s.kernels.filter fun x => x.id != k.id } : State).post k.queue k.tag k.seq status
      reason g k.report (header ++ ((recs.take fit).map Prod.snd).flatten)
    (∃ beats, s.completeKernel k = t.setQueue k.queue { t.queue k.queue with tibeats := beats }) ∧
    (s.kernel k.id = some k → k.lapsed = false →
      (k.reports.length < k.seats.length → s.checkComplete k.id = s) ∧
      (k.seats.length ≤ k.reports.length → ∃ k', k' = { k with
          endGbc := some (k.endGbc.getD (s.brick 0).gbc), endPos := k'.endPos } ∧
        (s.postWaits k' = true → s.checkComplete k.id = s.setKernel k') ∧
        (s.postWaits k' = false → s.checkComplete k.id = s.completeKernel k')))) ∧
  (∀ (s : State) (k : Kernel), s.postWaits k = true ↔
    (∃ b d, let l := s.link b d
      let of (p : Payload) : Prop := payloadKernel p = some k.id
      (∃ p ∈ l.rx, of p) ∨ (∃ p ∈ l.held, of p) ∨ ∃ f ∈ l.unacked, of f.payload) ∨
    (∃ b q g, (s.ctx b q).kernel = k.id ∧ (s.ctx b q).run = .released g) ∨
    ∃ x ∈ s.kernels, x.queue = k.queue ∧ x.endGbc ≠ none ∧ x.endPos < k.endPos) ∧
  (∀ (s : State) (q : Fin 64) (tag : Word) (seq : BitVec 16) (status reason gbcend va : Nat) (report : List Byte),
    let u := s.queue q
    let a := u.asid.toNat
    let ring := u.cbase.toNat + 32 * (u.ctail.toNat % 2 ^ u.log2n.toNat)
    let entry (n : Nat) : List Byte := completionEntry tag seq status reason n gbcend
    let posted (t : State) : State :=
      let t1 := t.setQueue q { t.queue q with ctail := u.ctail + 1 }
      ({ t1 with interrupts := if u.ien then t1.interrupts ++ [1 + q.val] else t1.interrupts } : State).logEvent 0 0x21
        q.val (toBytes 8 tag.toNat ++ toBytes 8 status ++ toBytes 8 reason ++ toBytes 8 gbcend)
    (∀ s1 s2, s.vwrite a va report = some s1 → s1.vwrite a ring (entry report.length) = some s2 →
      s.post q tag seq status reason gbcend va report = posted s2) ∧
    ∀ s2, s.vwrite a va report = none → s.vwrite a ring (entry 0) = some s2 →
      s.post q tag seq status reason gbcend va report = posted s2) ∧
  ∀ (s : State) (asid va root gen : Nat) (l : List Byte), s.astEntry asid = some (root, gen) → l ≠ [] →
    va % 4096 + l.length ≤ 4096 → va + l.length ≤ 2 ^ 52 →
    (∀ pa, s.translate 0 asid gen va false true = some pa → s.genOk pa asid gen = true →
      s.vwrite asid va l = some { s with mem := setBytes s.mem pa l }) ∧
    (s.translate 0 asid gen va false true = none → s.vwrite asid va l = none)

/-! ### Time and entry -/

/-- Coming to issue (01 R23, R41, R49, 05 R135, R137, R140, 07 R165, 08 R178): the checks at entry in their order, each
with what it answers, and the issue of slot 0 when all pass. First comes the pending beat-boundary trap of the lowest
code, a crossing (0x28), which the telemetry counts (25 R449), or a failed step of a global stream that is due at the
beat (0x22); the others stay pending. A
resumed split bundle waits on its own slots and those after it alone; a trailing-idle beat is a beat in which nothing
issues, and a failed step due at it traps too; a committed task starts at GBCS, once every task of its kernel that has
not reported is held by its seat and committed, unless its brick holds a badly spaced table, or one of the kernel's
bricks does before any of its tasks has started (01 R39, R41).
Where the spec leaves a reading open, the model's choice is that of log entries 18, 19, 20 and 29. -/
def Obligations.ComingToIssue : Prop :=
  ∀ (s : State) (b : Fin 8) (q : Fin 4),
    let c := s.ctx b q
    let g := (s.brick b).gbc
    let boundary (code : Nat) (info : Word) : Trap := ⟨code, 0, info, .boundary, 0, c.pc, c.cbc - 1, c.cbc - 1⟩
    let due : List PendTrap := c.pending ++ (match c.streamFailed with
      | some va => [⟨0x22, va.zeroExtend 64⟩]
      | none => [])
    (s.ready b q = true → c.phase = .entry → c.idleLeft = 0 → due.Nodup → ∀ p ∈ due,
      (∀ p' ∈ due, p' = p ∨ p.code < p'.code) → ∃ rest, (∀ p', p' ∈ rest ↔ p' ∈ due ∧ p' ≠ p) ∧
        let s1 := (s.endFreeze b q).modCtx b q fun x => { x with pending := rest }
        exec (.bundleEntry b q) s = .next ((if p.code = 0x28 then s1.telCrossing b c.kernel p.info.toNat
          else s1).takeTrap b q (boundary p.code p.info))) ∧
    (s.ready b q = true → c.phase = .entry → c.idleLeft ≠ 0 → ∀ va, c.streamFailed = some va →
      exec (.trailingIdleBeat b q) s =
        .next ((s.endFreeze b q).takeTrap b q (boundary 0x22 (va.zeroExtend 64)))) ∧
    (s.ready b q = true → c.phase = .entry → c.idleLeft = 0 → c.pending = [] → c.streamFailed = none →
      let h := c.header
      (c.qi.toNat < c.qiCount + 1 → exec (.bundleEntry b q) s =
        .next (s.bundleTrap b q 0x19 3 (BitVec.ofNat 64 (c.qi.toNat + 1)))) ∧
      (c.qiCount + 1 ≤ c.qi.toNat →
        (h % 2 = 1 → c.counted c.cbc ≠ 0 → exec (.bundleEntry b q) s =
          .next (s.bundleTrap b q 0x18 0 (BitVec.ofNat 64 (c.counted c.cbc)))) ∧
        (h % 2 = 1 → c.counted c.cbc = 0 → (s.seat b q).preEn = true → (s.seat b q).preTarget = c.qcnt + 1 →
          exec (.bundleEntry b q) s = .next ((s.endFreeze b q).modCtx b q fun x =>
            { x with run := .stopped, stopGbc := g, slipHeld := x.slipAt g x.cbc, pre := none })) ∧
        (h % 2 = 0 ∨ (c.counted c.cbc = 0 ∧ ¬((s.seat b q).preEn = true ∧ (s.seat b q).preTarget = c.qcnt + 1)) →
          (c.imemShare < c.pc + 48 → c.streamFrozen = true →
            exec (.bundleEntry b q) s = .next (s.freeze b q .arrival)) ∧
          (c.imemShare < c.pc + 48 → c.streamFrozen = false → exec (.bundleEntry b q) s =
            .next ((s.endFreeze b q).slotTrap b q 0 0x04 0 (BitVec.ofNat 64 c.pc))) ∧
          (c.pc + 48 ≤ c.imemShare →
            (∀ kind, freezeFrom c 0 = some kind → exec (.bundleEntry b q) s = .next (s.freeze b q kind)) ∧
            (freezeFrom c 0 = none → headerOk h (slotOf c.bundle) = true →
              exec (.bundleEntry b q) s = .next (s.issueFrom b q 0)) ∧
            (freezeFrom c 0 = none → headerOk h (slotOf c.bundle) = false → exec (.bundleEntry b q) s =
              .next ((s.endFreeze b q).slotTrap b q 0 0x01 4 (BitVec.ofNat 64 h))))))) ∧
    (∀ k, s.ready b q = true → c.phase = .split k →
      (freezeFrom c k.val = none → exec (.bundleEntry b q) s = .next (s.issueFrom b q k)) ∧
      (∀ kind, freezeFrom c k.val = some kind → exec (.bundleEntry b q) s = .next (s.freeze b q kind))) ∧
    (s.ready b q = true → c.phase = .entry → c.idleLeft ≠ 0 → c.streamFailed = none → c.qiCount + 1 ≤ c.qi.toNat →
      (c.streamFrozen = false → exec (.trailingIdleBeat b q) s = .next ((s.endFreeze b q).takeBeat b q false)) ∧
      (c.streamFrozen = true → exec (.trailingIdleBeat b q) s = .next (s.freeze b q .arrival))) ∧
    (s.power = .on → (s.brick b).inService = true → (s.brick b).cycleNow = true → (s.brick b).owns q = true →
      c.run = .armed true → c.gbcs ≤ g →
      let held (p : Fin 8 × Fin 4) : Prop := (s.ctx p.1 p.2).kernel = c.kernel
      let ready' (k : Kernel) (i : Nat) (p : Fin 8 × Fin 4) : Prop := (∃ r ∈ k.reports, r.1 = i) ∨
        (held p ∧ (s.ctx p.1 p.2).run ≠ .armed false ∧ (s.ctx p.1 p.2).run ≠ .empty)
      let begun (p : Fin 8 × Fin 4) : Prop :=
        held p ∧ (s.ctx p.1 p.2).run ≠ .empty ∧ ∀ r, (s.ctx p.1 p.2).run ≠ .armed r
      ((s.brick b).tableBad = false → (∀ k, s.kernel c.kernel = some k →
          (∀ i p, k.seats[i]? = some p → ready' k i p) ∧
          ((∃ p ∈ k.seats, begun p) ∨ ∀ p ∈ k.seats, (s.brick p.1).tableBad = false)) →
        exec (.taskStart b q) s = .next (s.setSeat b q { s.seat b q with
          ctx := { c with run := .running, phase := .entry }, armedReg := false, runReg := true })) ∧
      ((s.brick b).tableBad = true ∨ (∃ k, s.kernel c.kernel = some k ∧
          ((∃ i p, k.seats[i]? = some p ∧ ¬ready' k i p) ∨
            ((∀ p ∈ k.seats, ¬begun p) ∧ ∃ p ∈ k.seats, (s.brick p.1).tableBad = true))) →
        exec (.taskStart b q) s = .next s))

/-- The tick of a reference count (01 R26, 21 R396, 24 R438, 25 R446): the global beat counter rises by one, by two or
by nothing while it slews, what is left to slew falls by one, and LOCK is 1 once at most two counts are left; a cycle
of the brick begins when its clock's steps reach 32, and then no context of it has taken its beat; a brick without a
context and without a scrub is Idle and its clock stands still (25 R445).
Where the spec leaves a reading open, the model's choice is that of log entry 34. -/
def Obligations.ReferenceCount : Prop :=
  ∀ (s : State) (b : Fin 8), s.power ≠ .off →
    let x := s.brick b
    ∃ t, exec (.gbcTick b) s = .next t ∧
      let idle := (∀ q, (s.ctx b q).run.over = true) ∧ ∀ k, x.quarters.get k ≠ .busy
      (t.brick b).gbc = x.gbc + (if 0 < x.slew then 2 else if x.slew < 0 then 0 else 1) ∧
      (t.brick b).slew.natAbs = x.slew.natAbs - 1 ∧
      (t.brick b).lock = (if x.slew = 0 ∨ x.lost = true then x.lock else decide (x.slew.natAbs ≤ 3)) ∧
      (idle ∨ x.clockAcc + x.clock < 32 → (t.brick b).cycleNow = false ∧ (t.brick b).bcyc = x.bcyc) ∧
      (¬idle → 32 ≤ x.clockAcc + x.clock → (t.brick b).cycleNow = true ∧ (t.brick b).bcyc = x.bcyc + 1 ∧
        ∀ q, (t.ctx b q).beatThisCycle = false) ∧
      (∀ b', b' ≠ b → (t.brick b').gbc = (s.brick b').gbc) ∧
      ∀ b' q', (t.ctx b' q').cbc = (s.ctx b' q').cbc ∧ (t.ctx b' q').spad = (s.ctx b' q').spad

/-- The faults of waiting (01 R33, R49, R52, R53, 05 R143, R454): the Q interval, the freeze budget while the cause of
the freeze holds and no stall is due, the service overrun, also of a heavy save that drains in trap service, but of no
context that is saved already (01 R31), and the stall of a partition, which ends every task of its kernels that have
not ended: it is due when the window has run out, no context of the partition is in trap service, and some context has
not been pre-empted, or has been in this very count.
Where the spec leaves a reading open, the model's choice is that of log entries 20 and 30. -/
def Obligations.WaitingFaults : Prop :=
  (∀ (s : State) (b : Fin 8) (q : Fin 4),
    let c := s.ctx b q
    let g := (s.brick b).gbc
    let budget := min c.fbud.toNat (2 ^ 30)
    (s.ready b q = true → c.phase = .entry → c.qi.toNat < c.qiCount + 1 → c.streamFailed = none →
      c.idleLeft ≠ 0 ∨ c.pending = [] →
      exec (.qIntervalFault b q) s = .next (s.bundleTrap b q 0x19 3 (BitVec.ofNat 64 (c.qi.toNat + 1)))) ∧
    (∀ g0 kind, c.frozenSince = some (g0, kind) → c.run = .running → budget ≤ (g - g0).toNat →
      s.stillFrozen b q = true → s.stallDue c = false →
      exec (.freezeBudget b q) s = .next (s.takeTrap b q ⟨0x19, 2, c.slipAt g c.cbc, .bundle,
        (match c.phase with
          | .split k => k.val
          | _ => 0), c.pc, c.cbc, c.cbc⟩)) ∧
    (∀ g0, (c.run = .service g0 ∨ ∃ h g1, c.run = .saving h g1 (some g0)) → budget ≤ (g - g0).toNat →
      (s.seat b q).resaved = none → exec (.serviceOverrun b q) s = .next ((s.setCtx b q { c with
        tstat := BitVec.ofNat 64 (0x3D + 4 * 2 ^ 19)
        tinfo := BitVec.ofNat 64 (c.tstat.toNat % 2 ^ 16) }).killOwn b q)) ∧
    (∀ g0, (c.run = .service g0 ∨ ∃ h g1, c.run = .saving h g1 (some g0)) →
        (g - g0).toNat < budget ∨ (s.seat b q).resaved ≠ none → exec (.serviceOverrun b q) s = .next s)) ∧
  ∀ (s : State) (p : Fin 64), (s.kernels.map Kernel.id).Nodup →
    let run (x : Fin 8 × Fin 4) : Run := (s.ctx x.1 x.2).run
    let counts (x : Fin 8 × Fin 4) : Prop := (∃ k ∈ s.kernels, k.queue = p ∧ x ∈ k.seats ∧
      (s.ctx x.1 x.2).kernel = k.id) ∧ (run x).over = false
    let preempted (r : Run) : Prop :=
      r = .stopped ∨ r = .restored ∨ (∃ h g, r = .saving h g none) ∨ ∃ spent, r = .saved spent
    let served (r : Run) : Prop := (∃ g, r = .service g) ∨ ∃ h g g', r = .saving h g (some g')
    let ends (k : Kernel) : Prop := k ∈ s.kernels ∧ k.queue = p ∧ k.endGbc = none
    (s.stalls p = true ↔ 2 ^ 20 ≤ (s.queue p).window ∧ (∀ x, counts x → ¬served (run x)) ∧
      ∃ x, counts x ∧ (¬preempted (run x) ∨ (run x = .stopped ∧ (s.ctx x.1 x.2).stopGbc = (s.brick x.1).gbc))) ∧
    (s.stalls p = false → exec (.stall p) s = .next s) ∧
    (s.stalls p = true → ∃ t, exec (.stall p) s = .next t ∧
      (∀ k, ends k → ∀ x ∈ k.seats, (s.ctx x.1 x.2).kernel = k.id → (t.ctx x.1 x.2).run.over = true) ∧
      ∀ b q, (∀ k, ends k → (s.ctx b q).kernel ≠ k.id) → t.ctx b q = s.ctx b q)

/-- Firmware's services (05 R137, R138, R145, 10 R239, 12 R282 to R284): a tape overflow spills the tape with its
trailer and empties it; an underflow refills it, or ends the kernel where nothing is spilled; a page of the spill area
may be mapped first (22 R412); a missing page of a stream is mapped, or the kernel ends; a crossing is flagged in
SCST, or ends every task of the kernel where its launch asks for that. Then the context resumes at its slot or bundle;
a task whose `halt` has taken its beat ends. What a spill writes and reads goes to the home of its page under its
translation and generation (12 R282). A refill puts the newest records of the top block below those on the tape, which
move up, the whole block with its trailer, or as many as there is room for, the trailer then holding what is left (12
R284); where a whole block is not enough, what follows is what the service does of the state that the block leaves. A
spill of an empty tape changes nothing, and one over several pages takes them one by one.
Where the spec leaves a reading open, the model's choice is that of log entries 21 and 37. -/
def Obligations.TrapServices : Prop :=
  ∀ (s : State) (b : Fin 8) (q : Fin 4) (g0 : Word),
    let c := s.ctx b q
    let code := c.tstat.toNat % 256
    let n := (c.tapec.toNat - c.tapeb.toNat) / 8
    let block := getBytes c.spad c.tapeb.toNat (8 * n) ++ trailer n
    c.run = .service g0 →
    (c.svcDone = false → code = 0x20 → n ≠ 0 →
      (∀ s1, s.spillWrite b c c.sp block = some s1 → exec (.tapeOverflowService b q) s = .next (s1.setCtx b q
        { c with sp := c.sp + 8 * n + 64, tapec := c.tapeb, tapes := c.tapes + 1, svcDone := true })) ∧
      (s.spillWrite b c c.sp block = none → exec (.tapeOverflowService b q) s = .next (s.killOwn b q)) ∧
      (c.op 0 = none → ∀ e, exec (.translationService b q 0 (some e)) s =
        .next (s.writePte c.asid (c.spillPages c.sp (c.tapec.toNat - c.tapeb.toNat + 64)) e)) ∧
      ofBytes ((trailer n).take 8) = n % 2 ^ 64 ∧ (trailer n).length = 64 ∧ ∀ x ∈ (trailer n).drop 8, x = 0) ∧
    (c.svcDone = false → code = 0x20 → n = 0 →
      exec (.tapeOverflowService b q) s = .next (s.setCtx b q { c with svcDone := true })) ∧
    (∀ (o k m : Nat) (rd wr : Bool) (l : List Byte) (r : Nat × Nat) (rs : List (Nat × Nat)) (mem : List Host.Cell),
      let va := c.tapesa.toNat + o
      let runs (a len : Nat) : Option (List (Nat × Nat)) := s.runsAt b c.asid c.gen a len rd wr
      (0 < k → 0 < m → va % 4096 + k = 4096 →
        runs va (k + m) = (runs va k).bind fun x => (runs (va + k) m).map fun y => x ++ y) ∧
      s.spillWrite b c o l = (s.runsAt b c.asid c.gen va l.length false true).map (fun x =>
        { s with mem := writeRuns s.mem x l }) ∧
      s.spillRead b c o m = (s.runsAt b c.asid c.gen va m true false).map (fun x =>
        x.flatMap fun y => getBytes s.mem y.1 y.2) ∧
      writeRuns mem [] l = mem ∧
      writeRuns mem (r :: rs) l = writeRuns (setBytes mem r.1 (l.take r.2)) rs (l.drop r.2)) ∧
    (∀ o l, l ≠ [] → (c.tapesa.toNat + o) % 4096 + l.length ≤ 4096 →
      let va := c.tapesa.toNat + o
      (∀ pa, s.translate b c.asid c.gen va false true = some pa → s.genOk pa c.asid c.gen = true →
        va + l.length ≤ 2 ^ 52 → s.spillWrite b c o l = some { s with mem := setBytes s.mem pa l }) ∧
      (∀ pa, s.translate b c.asid c.gen va true false = some pa → s.genOk pa c.asid c.gen = true →
        va + l.length ≤ 2 ^ 52 → s.spillRead b c o l.length = some (getBytes s.mem pa l.length)) ∧
      (∀ pa, s.translate b c.asid c.gen va false true = some pa → s.genOk pa c.asid c.gen = false →
        s.spillWrite b c o l = none) ∧
      (∀ pa, s.translate b c.asid c.gen va true false = some pa → s.genOk pa c.asid c.gen = false →
        s.spillRead b c o l.length = none) ∧
      (s.translate b c.asid c.gen va false true = none → s.spillWrite b c o l = none) ∧
      (s.translate b c.asid c.gen va true false = none → s.spillRead b c o l.length = none)) ∧
    (c.svcDone = false → code = 0x21 → ∀ k, c.phase = .split k →
      let r : Int := 8 * c.popsOf k
      let base := c.tapeb.toNat
      let held := (c.tapec.toNat - base) / 8
      let cursor : Int := c.tapec.toNat + tapeMoves c.timed
      let room := (c.tapel.toNat - base) / 8 - held - c.pendingPushes
      let got (new : List Byte) (m sp : Nat) : Context :=
        { c.writeSpad (bytesAt base (new ++ getBytes c.spad base (8 * held))) with
          tapec := c.tapec + BitVec.ofNat 27 (8 * m), sp := sp, svcDone := true }
      (∀ t new, c.sp ≠ 0 → cursor - r < base → s.spillRead b c (c.sp - 64) 8 = some t →
        let n := ofBytes t
        let m := min n room
        0 < m → s.spillRead b c (c.sp - 64 - 8 * m) (8 * m) = some new →
        (m = n → c.sp = 8 * n + 64 ∨ (base : Int) ≤ cursor + 8 * m - r → c.tapec.toNat + 8 * m < 2 ^ 27 →
          exec (.tapeUnderflowService b q) s = .next (s.setCtx b q (got new m (c.sp - 8 * n - 64)))) ∧
        (m < n → (base : Int) ≤ cursor + 8 * m - r → c.tapec.toNat + 8 * m < 2 ^ 27 →
          ∀ s1, s.spillWrite b c (c.sp - 64 - 8 * m) (trailer (n - m)) = some s1 →
          exec (.tapeUnderflowService b q) s = .next (s1.setCtx b q (got new m (c.sp - 8 * m)))) ∧
        let next := s.setCtx b q { got new m (c.sp - 8 * n - 64) with svcDone := false }
        (m = n → cursor + 8 * m - r < base → c.tapec.toNat + 8 * m < 2 ^ 27 → ∀ t,
          exec (.tapeUnderflowService b q) next = .next t → (t.ctx b q).svcDone = true →
          (t.ctx b q).sp = 0 ∨ (base : Int) ≤ (t.ctx b q).tapec.toNat + tapeMoves c.timed - r →
          exec (.tapeUnderflowService b q) s = .next t)) ∧
      (c.sp ≠ 0 → cursor - r < base → s.spillRead b c (c.sp - 64) 8 = none →
        exec (.tapeUnderflowService b q) s = .next (s.killOwn b q)) ∧
      (c.sp = 0 → exec (.tapeUnderflowService b q) s = .next (s.killOwn b q)) ∧
      (c.op 0 = none → ∀ e, exec (.translationService b q 0 (some e)) s =
        .next (s.writePte c.asid (c.spillPages 0 c.sp) e))) ∧
    (c.svcDone = false → code = 0x22 →
      (∀ e, exec (.streamTranslationService b q (some e)) s = .next
        ((s.writePte c.asid [c.tinfo.toNat] e).setCtx b q
          { c with cmds := c.cmds.map Cmd.refetch, pre := c.pre.map Cmd.refetch, svcDone := true })) ∧
      exec (.streamTranslationService b q none) s = .next (s.killOwn b q)) ∧
    (c.svcDone = false → code = 0x28 → ∀ k, s.kernel c.kernel = some k →
      ∃ t, exec (.saturationPolicyService b q) s = .next t ∧
        (k.satAbort = false → t.ctx b q =
          { c with scst := c.scst ||| c.tinfo.truncate 16, crossed := 0, svcDone := true }) ∧
        (k.satAbort = true →
          (∀ p ∈ k.seats, (s.ctx p.1 p.2).kernel = c.kernel → (t.ctx p.1 p.2).run.over = true) ∧
          ∀ b' q', (s.ctx b' q').kernel ≠ c.kernel → t.ctx b' q' = s.ctx b' q')) ∧
    (c.svcDone = true → c.halting = true → c.phase = .entry → c.pending = [] →
      ∃ t, exec (.trapResume b q) s = .next t ∧ (t.ctx b q).run = .ended ∧
        ∀ b' q', (b', q') ≠ (b, q) → t.ctx b' q' = s.ctx b' q') ∧
    (c.svcDone = true → c.halting = false ∨ c.phase ≠ .entry → ∃ t, exec (.trapResume b q) s = .next t ∧
      t.ctx b q = { c with
        run := .running, svcDone := false
        serviced := match c.phase with
          | .split k => some (code, k.val, c.pc, c.cbc)
          | _ => none } ∧
      ∀ b' q', (b', q') ≠ (b, q) → t.ctx b' q' = s.ctx b' q')

/-! ### Variable-latency traffic -/

/-- Copies, fences, the scale queue and global streams (02 R83, 04 R114, R121, R122, 10 R236 to R239, 13 R292 to
R301): an operation starts when its defer has run and no earlier ready one stands on its engine; a span is performed
at its home under a translation and the generation in force, or rejected with cause 1; a granule lands at once in a
cycle of no beat, in phase 2 at a beat, and waits in the rest of a cycle whose beat has been taken; a token completes
with the cause of highest priority (05 R133, the order spelt out), or good with its tags set; a fence completes with
its covered operations, in error (cause 2) with any of them; and an entry enters the scale queue while it has room. A
gather or scatter takes the address of a row from its list, as it was first read; an address that is not canonical is
rejected with cause 5, a row that is not aligned with cause 7. An atomic replaces each of 16 elements by the result of
its operation, and keeps the old span where RET asks for it. The entry of a `cpsq` is made of its four spans, of
scratchpad or of memory.
Where the spec leaves a reading open, the model's choice is that of log entries 25 and 39. -/
def Obligations.CopyTraffic : Prop :=
  (∀ errs : List (Nat × BitVec 8),
    let order : List (BitVec 8) := [4, 6, 1, 5, 7, 3]
    (causeOf errs = none ↔ ∀ e ∈ errs, e.2 ∉ order) ∧
    ∀ before k after, order = before ++ k :: after → (∃ e ∈ errs, e.2 = k) → (∀ e ∈ errs, e.2 ∉ before) →
      causeOf errs = some k) ∧
  ∀ (s : State) (b : Fin 8) (q : Fin 4) (o : Op) (i : Nat),
    let c := s.ctx b q
    let g := (s.brick b).gbc
    let now (o' : Op) : Host.Outcome State Fault Refusal := .next (s.setCtx b q (c.setOp o'))
    let done (c' : Context) (k : Token) : Host.Outcome State Fault Refusal :=
      .next ((s.setCtx b q (c'.finish o k)).progress c.kernel)
    let started := o.kind.isCopy = true ∧ o.started = true ∧ o.startCycle < g
    let quiet := started ∧ o.settled = true ∧ o.lastCycle < g
    let va := o.a.toNat + 64 * i
    c.op o.id = some o → c.run.live = true →
    (o.kind.isCopy = true → o.started = false → o.startBeat < c.cbc →
      (∀ p ∈ c.ops, p.kind.isCopy = true → p.started = false → p.startBeat < c.cbc → p.id < o.id →
        p.engine c ≠ o.engine c) →
      exec (.copyEngineStart b q o.id) s = now { o with started := true, startCycle := g }) ∧
    (started → o.pendingSpan i = true → o.kind ∈ [.cpld, .cpst, .cpfill, .cpat] → o.a.toNat < 2 ^ 52 → va < 2 ^ 52 →
      (∀ pa, s.translate b c.asid c.gen va o.needs.1 o.needs.2 = some pa →
        (s.genOk pa c.asid c.gen = false →
          exec (.homeAccess b q o.id i) s = now { o with errs := (i, 1) :: o.errs }) ∧
        (s.genOk pa c.asid c.gen = true →
          (o.kind = .cpld → exec (.homeAccess b q o.id i) s = now { o with
            performed := i :: o.performed, data := (i, BitVec.ofNat 512 (getN s.mem pa 64)) :: o.data }) ∧
          (o.kind = .cpst → exec (.homeAccess b q o.id i) s = .next
            ({ s with mem := setBytes s.mem pa (getBytes c.spad (o.b.toNat + 64 * i) 64) }.setCtx b q
              (c.setOp { o with performed := i :: o.performed }))) ∧
          (o.kind = .cpfill → exec (.homeAccess b q o.id i) s = .next
            ({ s with mem := setBytes s.mem pa (getBytes c.spad o.b.toNat 64) }.setCtx b q
              (c.setOp { o with performed := i :: o.performed }))))) ∧
      (s.translate b c.asid c.gen va o.needs.1 o.needs.2 = none → exec (.homeAccess b q o.id i) s = .next s)) ∧
    (started → o.pendingSpan i = true →
      let n := o.c.toNat / 2 ^ 12 % 2 ^ 6
      let row := i / n
      let first : Word := match o.rows.find? (fun e => e.1 == row) with
        | some e => e.2
        | none => BitVec.ofNat 64 (getN c.spad (o.a.toNat + 8 * row) 8)
      let o1 : Op := if (o.rows.any fun e => e.1 == row) = true then o else { o with rows := (row, first) :: o.rows }
      let rva := first.toNat + 64 * (i % n)
      let rejects (o' : Op) (cause : BitVec 8) : Prop :=
        exec (.homeAccess b q o.id i) s = now { o' with errs := (i, cause) :: o'.errs }
      (o.kind ∈ [.cpld, .cpst, .cpfill, .cpat] ∨ (o.kind = .cpsq ∧ o.c ≠ 1) → 2 ^ 52 ≤ o.a.toNat ∨ 2 ^ 52 ≤ va →
        rejects o 5) ∧
      (o.kind = .cpga ∨ o.kind = .cpsc →
        (2 ^ 52 ≤ first.toNat → rejects o1 5) ∧
        (first.toNat < 2 ^ 52 → first.toNat % 64 ≠ 0 → rejects o1 7) ∧
        (first.toNat < 2 ^ 52 → first.toNat % 64 = 0 → 2 ^ 52 ≤ rva → rejects o1 5) ∧
        (first.toNat < 2 ^ 52 → first.toNat % 64 = 0 → rva < 2 ^ 52 →
          (s.translate b c.asid c.gen rva o.needs.1 o.needs.2 = none → exec (.homeAccess b q o.id i) s = .next s) ∧
          ∀ pa, s.translate b c.asid c.gen rva o.needs.1 o.needs.2 = some pa →
            (s.genOk pa c.asid c.gen = false → rejects o1 1) ∧
            (s.genOk pa c.asid c.gen = true →
              (o.kind = .cpga → exec (.homeAccess b q o.id i) s = now { o1 with
                performed := i :: o.performed, data := (i, BitVec.ofNat 512 (getN s.mem pa 64)) :: o.data }) ∧
              (o.kind = .cpsc → exec (.homeAccess b q o.id i) s = .next
                ({ s with mem := setBytes s.mem pa (getBytes c.spad (o.b.toNat + 64 * i) 64) }.setCtx b q
                  (c.setOp { o1 with performed := i :: o.performed })))))) ∧
      (o.kind = .cpat → o.a.toNat < 2 ^ 52 → va < 2 ^ 52 → ∀ pa op ty,
        s.translate b c.asid c.gen va true true = some pa → s.genOk pa c.asid c.gen = true →
        atomOfCode (o.c.toNat % 8) = some op → (o.c.toNat / 16 % 16, ty) ∈ [(3, Ty.s32), (6, .n32), (7, .f32)] →
        let old := getN s.mem pa 64
        let arg := getN c.spad o.b.toNat 64
        let elem (x j : Nat) : BitVec 32 := BitVec.ofNat 32 (x / 2 ^ (32 * j) % 2 ^ 32)
        ∃ l : List Byte, l.length = 64 ∧ (∀ j, j < 16 → elem (ofBytes l) j = atomNew ty op (elem old j) (elem arg j)) ∧
          exec (.homeAccess b q o.id i) s = .next ({ s with mem := setBytes s.mem pa l }.setCtx b q (c.setOp { o with
            performed := i :: o.performed
            data := if o.c.getLsbD 8 then (i, BitVec.ofNat 512 old) :: o.data else o.data }))) ∧
      (o.kind = .cpsq → o.c = 1 → exec (.homeAccess b q o.id i) s = now { o with
        performed := i :: o.performed,
        data := (i, BitVec.ofNat 512 (getN c.spad (o.b.toNat + 64 * i) 64)) :: o.data }) ∧
      (o.kind = .cpsq → o.c ≠ 1 → o.a.toNat < 2 ^ 52 → va < 2 ^ 52 → ∀ pa,
        s.translate b c.asid c.gen va true false = some pa → s.genOk pa c.asid c.gen = true →
        exec (.homeAccess b q o.id i) s = now { o with
          performed := i :: o.performed, data := (i, BitVec.ofNat 512 (getN s.mem pa 64)) :: o.data })) ∧
    (∀ k d, k < 4 → o.data.find? (fun e => e.1 == k) = some (k, d) →
      o.queueEntry.extractLsb' (512 * k) 512 = d) ∧
    (∀ d, o.lands = true → o.data.find? (fun e => e.1 == i) = some (i, d) →
      let o' := { o with landed := i :: o.landed, data := o.data.filter (fun e => e.1 != i), lastCycle := g }
      (s.beatNow b q = true → exec (.landingGranule b q o.id i) s = .next (s.setCtx b q
        ({ c with phase2 := c.phase2 ++ [(o.issuedAt, o.local i, d)] }.setOp o'))) ∧
      (s.beatNow b q = false → c.beatThisCycle = false → exec (.landingGranule b q o.id i) s = .next (s.setCtx b q
        ((c.writeSpad (bytesAt (o.local i) (toBytes 64 d.toNat))).setOp o'))) ∧
      (s.beatNow b q = false → c.beatThisCycle = true → exec (.landingGranule b q o.id i) s = .next s)) ∧
    (quiet →
      (∀ k, causeOf o.errs = some k → exec (.copyCompletion b q o.id) s = done c (.error k)) ∧
      (causeOf o.errs = none → o.kind ≠ .cpsq →
        (o.tag = none → exec (.copyCompletion b q o.id) s = done c .good) ∧
        ∀ tag, o.tag = some tag →
          exec (.copyCompletion b q o.id) s = done (c.setTags (s.cycleOf b q) o.issuedAt o.landing.1 o.landing.2 tag)
            .good)) ∧
    (o.kind = .fence → o.covers = [] → exec (.fenceCompletion b q o.id) s =
      .next (s.setCtx b q (c.finish o (if o.coveredError then .error 2 else .good)))) ∧
    (o.kind = .cpsq → o.started = true → o.settled = true → o.errs = [] → c.sq.length < 16 →
      (∀ p ∈ c.ops, p.kind = .cpsq → o.id ≤ p.id) →
      exec (.scaleQueuePush b q o.id) s = done { c with sq := c.sq ++ [o.queueEntry] } .good)

/-- The fetcher of global streams (10 R238 to R240) stages the next step of a side, also of one that comes before a
step that has failed, with the bytes at the spans' homes, and writes them to the staging tiles, or marks it failed with
the virtual address; a walk goes down the four levels of 22 R410, whose entries, leaves and groups of 16 are spelt out,
to an address of 22 R411, and a hit takes what the TLB holds for the same ASID and GEN (22 R412); firmware's
translation service (13 R299, 22 R412) writes a table entry, or has the spans without a translation rejected with cause
5; it writes eight bytes of an entry that a walk of one of the missing pages reads, and nothing else (05 R138, 22 R410);
a walk inserts what it finds, in a TLB of 2,048 entries (02 R82, 22 R412); an invalidation removes the entries that it
names by the time that it sets DONE (22 R413).
Where the spec leaves a reading open, the model's choice is that of log entries 8, 23, 31 and 37. -/
def Obligations.FetchAndTranslation : Prop :=
  (∀ (s : State) (b : Fin 8) (q : Fin 4) (m : Cmd) (side : Bool),
    let c := s.ctx b q
    let d := if side then strm m.q else strm m.p
    let j := if side then m.stagedQ else m.stagedP
    let spans := stepSpans d ((kbeat (strm m.p) (strm m.q)).getD 1) j
    c.cmd m.id = some m → c.run.live = true → m.kind = .mxmm → d.global = true →
    (∀ f, m.failed = some f → j < f.1) → j < m.steps →
    (∀ va, s.fetchSpans b c spans = .error va → exec (.globalStreamFetch b q m.id side j) s =
      .next (s.setCtx b q (c.setCmd { m with failed := some (j, BitVec.ofNat 52 va) }))) ∧
    ∀ l, s.fetchSpans b c spans = .ok l → ∃ m' c', exec (.globalStreamFetch b q m.id side j) s =
        .next { s.setCtx b q c' with freeCtr := s.freeCtr + 1 + (spansOf l.length l).length } ∧
      c' = (c.setCmd m').stageTiles d s.freeCtr (spansOf l.length l) ∧ m'.failed = m.failed ∧
      m'.stagedP = (if side then m.stagedP else j + 1) ∧ m'.stagedQ = (if side then j + 1 else m.stagedQ) ∧
      (mapWf 0 m.staged = true →
        let base := if side then 2 ^ 53 else 0
        (∀ va ∈ spans, ∀ pa, s.translate b c.asid c.gen va true false = some pa → ∀ k, k < 64 →
          mapGet 0 m'.staged (base + va + k) = getB s.mem (pa + k)) ∧
        ∀ x, (∀ va ∈ spans, x < base + va ∨ base + va + 64 ≤ x) → mapGet 0 m'.staged x = mapGet 0 m.staged x)) ∧
  (∀ (s : State) (b : Fin 8) (c : Context) (spans : List Nat) (va : Nat),
    let reads (x : Nat) : Prop := x < 2 ^ 52 ∧ ∃ pa, s.translate b c.asid c.gen x true false = some pa ∧
      s.genOk pa c.asid c.gen = true
    (s.fetchSpans b c spans = .error va ↔ ∃ before after, spans = before ++ va :: after ∧ ¬reads va ∧
      ∀ x ∈ before, reads x)) ∧
  (∀ (s : State) (b : Fin 8) (asid gen va pa : Nat) (rd wr : Bool) (x : Xlat),
    let pte (a : Nat) : Nat := if s.physOk a = true then getN s.mem a 8 else 0
    let field (e lo n : Nat) : Nat := e / 2 ^ lo % 2 ^ n
    let frame (e : Nat) : Nat := field e 12 40 * 4096
    let good (e : Nat) (leaf : Bool) : Prop := e.testBit 0 = true ∧ e.testBit 1 = leaf ∧ field e 5 7 = 0 ∧
      field e 52 12 = 0
    let next (e align : Nat) : Prop := good e false ∧ e.testBit 4 = false ∧ frame e % align = 0
    let maps (e size : Nat) : Prop := x = ⟨frame e, size, e.testBit 2, e.testBit 3⟩
    let leaf (e size : Nat) : Prop := good e true ∧ e.testBit 4 = false ∧ frame e % size = 0 ∧ maps e size
    let lo := pte (s.astbase.toNat + 16 * asid)
    let hi := pte (s.astbase.toNat + 16 * asid + 8)
    let root : Prop := field lo 0 12 = 0 ∧ field lo 52 12 = 0 ∧ lo % 2 ^ 15 = 0 ∧ field hi 16 8 = 1 ∧ field hi 24 40 = 0
    let e3 := pte (lo + 8 * field va 40 12)
    let e2 := pte (frame e3 + 8 * field va 31 9)
    let e1 := pte (frame e2 + 8 * field va 21 10)
    let e0 (i : Nat) : Nat := pte (frame e1 + 8 * i)
    let g := field va 12 9 / 16 * 16
    let group : Prop := frame (e0 g) % 2 ^ 16 = 0 ∧ ∀ k, k < 16 → good (e0 (g + k)) true ∧
      (e0 (g + k)).testBit 4 = true ∧ (e0 (g + k)).testBit 2 = (e0 g).testBit 2 ∧
      (e0 (g + k)).testBit 3 = (e0 g).testBit 3 ∧ frame (e0 (g + k)) = frame (e0 g) + 4096 * k
    let grouped : Prop := ∃ k, k < 16 ∧ (e0 (g + k)).testBit 4 = true
    let hits (e : TlbEntry) : Prop := e.asid.toNat = asid ∧ e.gen.toNat = gen ∧ e.va ≤ va ∧ va < e.va + e.size
    (s.walk asid va = some x ↔ root ∧ next e3 4096 ∧ (leaf e2 (2 ^ 31) ∨ (next e2 8192 ∧ (leaf e1 (2 ^ 21) ∨
      (next e1 4096 ∧ ((grouped ∧ group ∧ maps (e0 g) (2 ^ 16)) ∨ (¬grouped ∧ leaf (e0 (field va 12 9)) 4096))))))) ∧
    (s.translate b asid gen va rd wr = some pa ↔ ∃ y, (s.tlbHit b asid gen va = some y ∨
      (s.tlbHit b asid gen va = none ∧ s.walk asid va = some y)) ∧ (rd = true → y.rd = true) ∧
      (wr = true → y.wr = true) ∧ pa = y.base + va % y.size ∧ s.physOk pa = true) ∧
    ((∀ e ∈ (s.brick b).tlb, ¬hits e) → s.tlbHit b asid gen va = none) ∧
    (∀ before e after, (s.brick b).tlb = before ++ e :: after → (∀ y ∈ before, ¬hits y) → hits e →
      s.tlbHit b asid gen va = some ⟨e.pa, e.size, e.rd, e.wr⟩) ∧
    (s.physOk pa = true ↔ ∃ i : Fin 8, pa / 2 ^ 40 = i.val ∧ (s.brick i).inService = true ∧
      (pa % 2 ^ 40 < 2 ^ 36 ∨ (2 ^ 39 ≤ pa % 2 ^ 40 ∧ pa % 2 ^ 40 < 2 ^ 39 + Config.ddrBytes)))) ∧
  (∀ (s : State) (b : Fin 8) (q : Fin 4) (o : Op) (e : BitVec 52 × Word),
    let c := s.ctx b q
    let miss (i : Nat) : Bool := o.pendingSpan i && match o.globalAddr c i with
      | .ok va => (s.translate b c.asid c.gen va o.needs.1 o.needs.2).isNone
      | .error _ => false
    c.op o.id = some o → c.run.live = true → o.kind.isCopy = true → o.started = true → o.fromSpad = false →
    (∃ vas, (∀ va, va ∈ vas ↔ ∃ i, i < o.spans ∧ miss i = true ∧ o.globalAddr c i = .ok va) ∧
      exec (.translationService b q o.id (some e)) s = .next (s.writePte c.asid vas e)) ∧
    exec (.translationService b q o.id none) s = .next (s.setCtx b q (c.setOp { o with
      errs := ((List.range o.spans).filter miss).map (fun i => (i, 5)) ++ o.errs }))) ∧
  (∀ (s : State) (asid : Nat) (vas : List Nat) (e : BitVec 52 × Word), Memory.wf s.mem = true →
    let t := s.writePte asid vas e
    t = { s with mem := t.mem } ∧
    (∀ x, x < e.1.toNat ∨ e.1.toNat + 8 ≤ x → getB t.mem x = getB s.mem x) ∧
    ((∀ va ∈ vas, e.1.toNat ∉ s.walkAddrs asid va) → t = s) ∧
    (s.physOk e.1.toNat = true → ∀ va ∈ vas, e.1.toNat ∈ s.walkAddrs asid va →
      getN t.mem e.1.toNat 8 = e.2.toNat)) ∧
  ∀ (s : State) (b : Fin 8) (asid gen : BitVec 16) (va : BitVec 52), s.power ≠ .off →
    let x := s.brick b
    (∀ l, s.tlbHit b asid.toNat gen.toNat va.toNat = none → s.walk asid.toNat va.toNat = some l →
      s.physOk (l.base + va.toNat % l.size) = true →
      let e := entryOf asid gen va.toNat l
      (x.tlb.length < 2048 → exec (.tlbWalk b asid gen va) s = .next (s.setBrick b { x with tlb := e :: x.tlb })) ∧
      (2048 ≤ x.tlb.length → ∃ t, exec (.tlbWalk b asid gen va) s = .next t ∧
        (t.brick b).tlb.length = x.tlb.length ∧ e ∈ (t.brick b).tlb ∧
        ∀ e' ∈ (t.brick b).tlb, e' = e ∨ e' ∈ x.tlb)) ∧
    (s.tlbHit b asid.toNat gen.toNat va.toNat = none → s.walk asid.toNat va.toNat = none →
      exec (.tlbWalk b asid gen va) s = .next s) ∧
    (s.stewardUp b = true → x.tlbinv.toNat % 4 ≠ 3 → exec (.tlbInvalidate b) s = .next (s.setBrick b
      { x with tlbPending := x.tlbPending ++ [(x.tlbinv, x.tlbcnt)], tlbDone := false })) ∧
    (x.tlbPending ≠ [] → ∃ t, exec (.tlbInvalidateDone b) s = .next t ∧
      (t.brick b).tlbDone = true ∧ (t.brick b).tlbPending = [] ∧
      ∀ e, e ∈ (t.brick b).tlb ↔ e ∈ x.tlb ∧ ∀ p ∈ x.tlbPending, tlbMatches p.1 p.2 e = false)

/-- What arrives over mortar (13 R303 to R309, 04 R113, R114, R117, R126), the payload first in its link's queue: a
granule is applied to the task of its kernel, or discarded and counted when that has ended (01 R44), and one that the
present cycle cannot take holds back those behind it; an `xcc` granule is combined with the receiver's own, and one
that disagrees in LEN or FN ends the kernel with code 0x0A, cause 7; a completion sets the tags of its destination and
the sender's token, and one that an error has met leaves the tags; an `xat` is applied in phase 3, or at once where
the task is stopped; a barrier flit advances the `xbar` that waits for it. The combines of 13 R305 are spelt out, and
what phase 3 of a beat makes of the arrivals of `xat` (04 R117, 09 R216): each replaces its elements, after every other
effect of the beat and after the arrivals before it, and no other byte.
Where the spec leaves a reading open, the model's choice is that of log entry 26. -/
def Obligations.ExchangeTraffic : Prop :=
  (∀ (own arr : BitVec 512) (i : Nat), i < 16 →
    let x := own.extractLsb' (32 * i) 32
    let y := arr.extractLsb' (32 * i) 32
    let r (fn : Nat) := (combineGranule fn own arr).extractLsb' (32 * i) 32
    r 0 = f32Add x y ∧
    (r 1).toNat = bf16.encode ((b16v (x.toNat % 2 ^ 16)).add (b16v (y.toNat % 2 ^ 16))) +
      2 ^ 16 * bf16.encode ((b16v (x.toNat / 2 ^ 16)).add (b16v (y.toNat / 2 ^ 16))) ∧
    (r 2).toNat = (x.toNat + y.toNat) % 2 ^ 32 ∧
    r 3 = toF32 ((f32v x).max (f32v y)) ∧ r 4 = toF32 ((f32v x).min (f32v y)) ∧
    (r 5).toInt = max x.toInt y.toInt ∧ (r 6).toInt = min x.toInt y.toInt) ∧
  (∀ (gbc : Word) (c : Context) (xs : List RemoteAtom) (x : RemoteAtom), Memory.wf c.spad = true →
    c.phase3 = xs ++ [x] →
    let before := (({ c with phase3 := xs } : Context).beat gbc).ctx.spad
    let r := (c.beat gbc).ctx
    let w := atomBytes x.ty
    r.phase3 = [] ∧
    (∀ i v, x.vals[i]? = some v → getN r.spad (x.addr + w * i) w =
      (atomNew x.ty x.op (BitVec.ofNat 32 (getN before (x.addr + w * i) w))
        (BitVec.ofNat 32 (v.toNat % 2 ^ (8 * w)))).toNat % 2 ^ (8 * w)) ∧
    ∀ a, a < x.addr ∨ x.addr + w * x.vals.length ≤ a → getB r.spad a = getB before a) ∧
  ∀ (s : State) (b : Fin 8) (d : Fin 12) (rest : List Payload) (k id len fn off dest : Nat) (data : BitVec 512)
    (tag : BitVec 32) (op : AtomOp) (ty : Ty) (l : List (BitVec 32)) (j : Nat),
    let s1 := s.setLink b d { s.link b d with rx := rest }
    let rx (p : Payload) : Prop := (s.link b d).rx = p :: rest
    let iss := s1.issueOf b d k id
    (rx (.granule k id false len fn off dest data) →
      (∀ q, s.liveTask b k = some q → s.takesGranule b q = true → exec (.exchangeArrival b d) s =
        .next ((s1.modCtx b q fun c => c.landed (s1.beatNow b q) iss dest data).noteArrival b d k id (off / 64))) ∧
      (∀ q, s.liveTask b k = some q → s.takesGranule b q = false → exec (.exchangeArrival b d) s = .next s) ∧
      (s.liveTask b k = none → exec (.exchangeArrival b d) s = .next (s1.discard b k))) ∧
    (rx (.granule k id true len fn off dest data) → ∀ q, s.liveTask b k = some q →
      ∀ o, (s.ctx b q).ownXcc d.val = some o →
      (o.len ≠ len ∨ o.fn ≠ fn → exec (.xccCombine b d) s = .next (s1.receiverFault b q 0x0A 7 o.dim)) ∧
      (∀ own, o.len = len → o.fn = fn → o.data.find? (fun e => e.1 == off / 64) = some (off / 64, own) →
        s.takesGranule b q = true → exec (.xccCombine b d) s = .next ((s1.setCtx b q
          (((s.ctx b q).landed (s1.beatNow b q) iss (o.dest + off) (combineGranule fn own data)).setOp
            { o with landed := off / 64 :: o.landed })).noteArrival b d k id (off / 64)))) ∧
    (rx (.done k id false len fn dest tag) →
      (∀ q, s.liveTask b k = some q → (s.ctx b q).phase2 = [] →
        (∀ o, s.senderOp b d k id = some o → o.lastCycle < (s.brick b).gbc ∧ o.kind ≠ .xat) →
        (inModule d = false ∨ (∃ o, s.senderOp b d k id = some o ∧ o.spoiled = false) →
          exec (.exchangeCompletion b d) s = .next
            ((s1.modCtx b q fun c => c.setTags (s1.cycleOf b q) iss dest len tag).endSend b d k id .good)) ∧
        (inModule d = true → (∀ o, s.senderOp b d k id = some o → o.spoiled = true) →
          exec (.exchangeCompletion b d) s = .next (s1.endSend b d k id .good))) ∧
      (s.liveTask b k = none → (∀ o, s.senderOp b d k id = some o → o.kind ≠ .xat) →
        exec (.exchangeCompletion b d) s = .next ((s1.endSend b d k id (.error 3)).checkComplete k))) ∧
    (rx (.xat k id op ty dest len l) → ∀ q, s.liveTask b k = some q →
      let c := s.ctx b q
      (∀ a, c.windowHit dest (atomBytes ty * l.length) = some a →
        exec (.xatArrival b d) s = .next ((s1.endSend b d k id (.error 4)).receiverFault b q 0x0C 1 a)) ∧
      (c.windowHit dest (atomBytes ty * l.length) = none →
        (c.run.applies = true → exec (.xatArrival b d) s =
          .next ((s1.setCtx b q (c.remoteNow op ty dest l)).noteArrival b d k id
            ((s1.senderOp b d k id).elim 0 fun o => (dest - o.dest) / 64))) ∧
        (c.run.applies = false → s.beatNow b q = true → exec (.xatArrival b d) s =
          .next (s1.setCtx b q { c with phase3 := c.phase3 ++ [⟨dest, op, ty, l, d, id⟩] })))) ∧
    (rx (.bar k j) → ∀ q, s.liveTask b k = some q → ∀ o i, (s.ctx b q).barFor d.val = some (o, i) →
      exec (.barrierFlit b d) s =
        .next (s1.setCtx b q ((s.ctx b q).advanceBar { o with barGot := i :: o.barGot })))

/-! ### Launch and contexts -/

/-- Doorbells and CHEAD (21 R391), the staged seat table (01 R39, 21 R396), arm, commit and cancel (01 R40, R41, 21
R398): a value that the ring does not hold sets BADTAIL or BADCHEAD and nothing else; a table is applied whole or
refused with its reason, and one that breaks 01 R39 keeps every context of the brick from starting or going on until
another is applied, when those that were to go on do so; an arm that every check passes holds the seat for GBCS, and
the checks, spelt out, refuse with their causes in this order: placement registers (01 R19), the table and the cycle
of GBCS, the scrub, the seat, the lead of 2^16 counts; a commit with at least 1,024 counts left lets it start, and a
later one is machine check 0x05; a cancel frees a seat whose context has not run.
Where the spec leaves a reading open, the model's choice is that of log entries 14, 28, 29 and 36. -/
def Obligations.LaunchRegisters : Prop :=
  (∀ (s : State) (q : Fin 64) (v : BitVec 16), s.hostUp = true →
    let u := s.queue q
    let n := 2 ^ u.log2n.toNat
    ((v - u.headIx).toNat ≤ n → (v - u.tail).toNat ≤ n →
      exec (.doorbell q v) s = .next (s.setQueue q { u with tail := v })) ∧
    (n < (v - u.headIx).toNat ∨ n < (v - u.tail).toNat →
      exec (.doorbell q v) s = .next (s.setQueue q { u with badTail := true })) ∧
    ((v - u.chead).toNat ≤ (u.ctail - u.chead).toNat →
      exec (.cheadWrite q v) s = .next (s.setQueue q { u with chead := v })) ∧
    ((u.ctail - u.chead).toNat < (v - u.chead).toNat →
      exec (.cheadWrite q v) s = .next (s.setQueue q { u with badChead := true }))) ∧
  (∀ (s : State) (b : Fin 8), s.stewardUp b = true →
    let x := s.brick b
    let busy := (List.finRange 4).any fun q =>
      s.holds b q && ownedEntries x.staged q.val != ownedEntries x.seattab q.val
    let bad (why : BitVec 2) :=
      s.setBrick b { x with seatBad := true, seatWhy := why, tableBad := x.tableBad || !tableSpaced x.staged }
    (tableBit2 x.staged = false → tableSpaced x.staged = true → busy = false → ∃ t,
      exec (.seatTableApply b) s = .next t ∧ (t.brick b).seattab = x.staged ∧ (t.brick b).seatBad = false ∧
        (t.brick b).tableBad = false ∧
        (∀ b' q', b' ≠ b ∨ (s.seat b' q').resumeOwed = false → t.ctx b' q' = s.ctx b' q') ∧
        ∀ q, (s.seat b q).resumeOwed = true → (s.seat b q).preEn = false →
          let current := (x.genOf (s.ctx b q).asid).toNat = (s.ctx b q).gen
          ((s.ctx b q).run = .stopped → (s.ctx b q).recorded = false ∨ current →
            t.ctx b q = { s.ctx b q with run := .running, recorded := false }) ∧
          ∀ spent, (s.ctx b q).run = .saved spent → current →
            t.ctx b q = { s.ctx b q with run := .service (x.gbc - spent), recorded := false }) ∧
    (tableBit2 x.staged = true → exec (.seatTableApply b) s = .next (bad 3)) ∧
    (tableBit2 x.staged = false → tableSpaced x.staged = false → exec (.seatTableApply b) s = .next (bad 1)) ∧
    (tableBit2 x.staged = false → tableSpaced x.staged = true → busy = true →
      exec (.seatTableApply b) s = .next (bad 2))) ∧
  ∀ (s : State) (b : Fin 8) (q : Fin 4), s.power = .on → (s.brick b).inService = true →
    let x := s.seat b q
    let left := (x.ctx.gbcs - (s.brick b).gbc).toNat
    (s.armCause b q = 0 → x.ctx.run = .empty → exec (.startArm b q) s = .next (s.setSeat b q { x with
      ctx := { x.ctx with run := .armed false }, armedReg := true, committed := false, cause := 0
      share := (s.brick b).quartersOf q x.ctx.frac })) ∧
    (s.armCause b q ≠ 0 → exec (.startArm b q) s = .next (s.setSeat b q { x with
      cause := BitVec.ofNat 4 (s.armCause b q) })) ∧
    (let y := s.brick b
      let c := x.ctx
      let free := c.scmask.toNat % 2 ^ 12
      let base := c.scmask.toNat / 2 ^ 16 % 2 ^ 12
      let own := ownedEntries y.seattab q.val
      let placed := ((List.range c.ndim).map c.pd).Nodup ∧
        (∀ i, i < c.ndim → c.pd i < 12 ∧ free.testBit (c.pd i) = true) ∧
        ((List.range 12).filter free.testBit).length = c.ndim ∧ free &&& base = 0 ∧
        ∀ i, i < 12 → free.testBit i = true ∨ (c.crd.toNat / 2 ^ 16).testBit i = base.testBit i
      let owns := y.tableBad = false ∧ tableSpaced y.seattab = true ∧ own.length = 64 / 2 ^ c.frac ∧
        y.cycleAt c.gbcs % 64 ∈ own
      let clean := ∀ i ∈ y.quartersOf q c.frac, y.quarters.toList.getD i .dirty = .clean
      let empty := c.run = .empty ∨ (c.run = .restored ∧ x.armedReg = false)
      let ahead := 2 ^ 16 ≤ left ∧ left < 2 ^ 63
      (¬placed → s.armCause b q = 1) ∧ (placed → ¬owns → s.armCause b q = 2) ∧
        (placed → owns → ¬clean → s.armCause b q = 3) ∧ (placed → owns → clean → ¬empty → s.armCause b q = 4) ∧
        (placed → owns → clean → empty → ¬ahead → s.armCause b q = 5) ∧
        (placed → owns → clean → empty → ahead → s.armCause b q = 0) ∧
        (y.slew = 0 → c.gbcs ≠ y.gbc → y.cycleAt c.gbcs =
          y.bcyc.toNat + (y.clockAcc + ((c.gbcs - y.gbc).toNat - 1) * y.clock) / 32 + 1) ∧
        (∀ e, e ∈ own ↔ e < 64 ∧ 8 ≤ y.seattab.toNat / 16 ^ e % 16 ∧ y.seattab.toNat / 16 ^ e % 4 = q.val) ∧
        (tableSpaced y.seattab = true ↔ ∀ n : Fin 4, ownedEntries y.seattab n.val = [] ∨ ∃ fr a, fr ≤ 2 ∧ a < 2 ^ fr ∧
          ∀ e, e ∈ ownedEntries y.seattab n.val ↔ e < 64 ∧ e % 2 ^ fr = a)) ∧
    (x.armedReg = true → x.committed = false → 1024 ≤ left → left < 2 ^ 63 → x.ctx.run = .armed false →
      exec (.startCommit b q) s = .next (s.setSeat b q { x with
        committed := true, commitIn := false, ctx := { x.ctx with run := .armed true } })) ∧
    (x.armedReg = true → x.committed = false → left < 1024 → exec (.startCommit b q) s =
      .next (((s.setSeat b q { x with commitIn := false, cause := 6 }).logMachineCheck b 5).machineCheck b q 5)) ∧
    (∀ r, x.ctx.run = .armed r → exec (.startCancel b q) s = .next (s.setSeat b q { x with
      ctx := Context.reset, armedReg := false, committed := false }))

/-- A launch record (21 R393 to R395, R397, 19 R369, R370, 20 R376 to R383, 23 R430): the steps of validation in their
order, each refusal with its REASON; a record that passes them all and finds its bricks scrubbed is launched, and one
that finds no placement waits, unless it says not to. What each step checks is spelt out: the record's reserved bytes,
alignments and ranges; the image's header, directory and sections, of which an image of text and certificate alone
that keeps the rules is accepted; the certificate; the placement, the first of the default policy's candidates on free
seats that own the cycle of GBCS, or the record's own; what a launch leaves in the seats and among the kernels; and
the report of a refused record (21 R400).
Where the spec leaves a reading open, the model's choice is that of log entries 11, 17, 28, 29 and 36. -/
def Obligations.LaunchRecords : Prop :=
  (∀ (s : State) (q : Fin 64) (l : List Byte),
    let u := s.queue q
    let r := parseRec l
    let a := u.asid.toNat
    let no (reason : Nat) (im : Option Image) : Host.Outcome State Fault Refusal :=
      .next (s.refuse q r reason im none 0 0)
    s.canTake q = true → s.vread a (u.lbase.toNat + 256 * (u.headIx.toNat % 2 ^ u.log2n.toNat)) 256 = some l →
    (s.logFull = true → exec (.launchRecordTake q) s = no 8 none) ∧
    (s.logFull = false → recOk l = false → exec (.launchRecordTake q) s = no 1 none) ∧
    (s.logFull = false → recOk l = true →
      (s.astEntry a = none ∨ s.vread a r.image r.imageLen = none ∨ s.vruns a r.report r.reportLen false true = none ∨
        u.stale ≠ 0 → exec (.launchRecordTake q) s = no 2 none) ∧
      (∀ root gen img runs, s.astEntry a = some (root, gen) → s.vread a r.image r.imageLen = some img →
        s.vruns a r.report r.reportLen false true = some runs → u.stale = 0 →
        (parseImage img = none → exec (.launchRecordTake q) s = no 3 none) ∧
        ∀ im dir, parseImage img = some (im, dir) →
          (s.certOk img im dir = false →
            exec (.launchRecordTake q) s = .next ((s.logCert q im.cert).refuse q r 4 (some im) none 0 0)) ∧
          (s.certOk img im dir = true →
            (r.nparam ≠ im.nparam ∨ 8 < r.nparam → exec (.launchRecordTake q) s = no 5 (some im)) ∧
            (r.nparam = im.nparam → r.nparam ≤ 8 → s.place q im r = none → r.nowait = true ∨ r.fixed = true →
              exec (.launchRecordTake q) s = no 6 (some im)) ∧
            (r.nparam = im.nparam → r.nparam ≤ 8 → s.place q im r = none → r.nowait = false → r.fixed = false →
              exec (.launchRecordTake q) s = .next (s.setQueue q { u with waiting := true })) ∧
            ∀ p, r.nparam = im.nparam → r.nparam ≤ 8 → s.place q im r = some p →
              (s.scrubbed im p = true → exec (.launchRecordTake q) s = .next (s.launch q r im p gen)) ∧
              (s.scrubbed im p = false →
                exec (.launchRecordTake q) s = .next (s.setQueue q { u with waiting := true })))))) ∧
  (∀ (s : State) (q : Fin 64) (r : LaunchRec) (reason : Nat) (im : Option Image) (p : Option Placement)
      (cause first : Nat), 64 ≤ r.reportLen →
    let u := s.queue q
    let g := (s.brick 0).gbc.toNat
    s.refuse q r reason im p cause first =
      (s.setQueue q { u with headIx := u.headIx + 1, waiting := false, stale := u.stale - 1 }).post q r.tag u.headIx 2
        reason g r.report (reportHeader r.tag u.headIx 2 reason (im.elim 0 fun i => 2 ^ i.ndim) (im.elim 0 Image.ndim)
          (16 * cause) (p.elim 0 fun x => x.gbcs.toNat) g (p.elim 0 Placement.f) (p.elim 0 Placement.base) first)) ∧
  (∀ l : List Byte,
    let n (o w : Nat) : Nat := fieldAt l o w
    let r := parseRec l
    (recOk l = true ↔ n 20 4 = 0 ∧ n 29 3 = 0 ∧ n 108 4 = 0 ∧ n 120 136 = 0 ∧ n 0 8 % 8 = 0 ∧ n 96 8 % 4096 = 0 ∧
      64 ≤ n 104 4 ∧ n 12 4 < 8 ∧
      (if r.fixed then n 16 2 < 4096 ∧ n 18 2 < 4096 else n 16 2 = 0 ∧ n 18 2 = 0)) ∧
    (r.image, r.imageLen, r.pfree, r.pbase, r.fbudReq, r.nparam) = (n 0 8, n 8 4, n 16 2, n 18 2, n 24 4, n 28 1) ∧
    (r.report, r.reportLen, r.tag) = (n 96 8, n 104 4, BitVec.ofNat 64 (n 112 8)) ∧
    (r.satAbort, r.nowait, r.fixed) = ((n 12 4).testBit 0, (n 12 4).testBit 1, (n 12 4).testBit 2) ∧
    r.params = (List.range 8).map fun k => BitVec.ofNat 64 (n (32 + 8 * k) 8)) ∧
  (∀ img : List Byte,
    let n (o w : Nat) : Nat := fieldAt img o w
    let bytes (o w : Nat) : List Byte := (img.drop o).take w
    let sect (i : Nat) : Sect := ⟨n (64 + 16 * i) 4, n (68 + 16 * i) 4, n (72 + 16 * i) 4⟩
    let nsect := n 6 2
    let share := 2 ^ (27 - n 16 1)
    let header := 64 + 16 * nsect ≤ img.length ∧ n 0 4 = 0x4C59_4B49 ∧ n 4 2 = 1 ∧ 2 ≤ nsect ∧ nsect ≤ 8 ∧
      n 19 13 = 0 ∧ n 17 1 = 0 ∧ n 16 1 ≤ 2 ∧ n 12 4 ≠ 0 ∧
      ∀ i j, i ≤ j → j < 32 → (bytes 32 32).getD i 0 = 0 → (bytes 32 32).getD j 0 = 0
    let listed (i : Nat) : Prop := n (76 + 16 * i) 4 = 0 ∧ (sect i).off % 8 = 0 ∧ 1 ≤ (sect i).type ∧
      (sect i).type ≤ 7 ∧ 64 + 16 * nsect ≤ (sect i).off ∧ (sect i).off + (sect i).len ≤ img.length
    let inOrder (a b : Sect) : Prop := a.type < b.type ∧ a.off + a.len ≤ b.off
    let textOk (len : Nat) : Prop := len % 48 = 0 ∧ n 8 4 % 48 = 0 ∧ n 8 4 < len ∧ len ≤ 2 ^ 21 / 2 ^ n 16 1
    let apart (x y : Nat × Nat) : Prop := x.2 = 0 ∨ y.2 = 0 ∨ x.1 + x.2 ≤ y.1 ∨ y.1 + y.2 ≤ x.1
    (∀ im dir, parseImage img = some (im, dir) → header ∧
      (im.entry, im.qi, im.frac, im.nparam) = (n 8 4, n 12 4, n 16 1, n 18 1) ∧
      im.name = (bytes 32 32).takeWhile (fun x => x != 0) ∧
      dir = (List.range nsect).map sect ∧ (∀ i, i < nsect → listed i) ∧ dir.Pairwise inOrder ∧
      textOk im.text.length ∧ im.nhash = sha384 im.text ∧ (∀ e ∈ dir, e.type = 7 → im.cert = bytes e.off e.len) ∧
      im.thash = sha384 (bytes 0 (64 + 16 * nsect) ++ (dir.filter fun e => e.type != 1 && e.type != 7).flatMap fun e =>
        bytes e.off e.len) ∧
      (∃ e ∈ dir, e.type = 1 ∧ im.text = bytes e.off e.len) ∧
      ((∀ e ∈ dir, e.type ≠ 2) → im.ndim = 0) ∧
      (∀ e ∈ dir, e.type = 2 → e.len % 2 = 0 ∧ 2 ≤ e.len ∧ e.len ≤ 16 ∧ im.ndim ≤ 12 ∧
        im.ndim = ((List.range (e.len / 2)).map fun i => n (e.off + 2 * i + 1) 1).sum ∧
        ∀ i, i < e.len / 2 → (n (e.off + 2 * i) 1 = 0 ∧ n (e.off + 2 * i + 1) 1 = 0) ∨
          (n (e.off + 2 * i) 1 = 1 ∧ 1 ≤ n (e.off + 2 * i + 1) 1)) ∧
      (∀ e ∈ dir, e.type = 3 → e.len % 24 = 0 ∧ 24 ≤ e.len ∧ e.len ≤ 24 * 4096 ∧ im.streams =
        (List.range (e.len / 24)).map fun i => BitVec.ofNat 192 (n (e.off + 24 * i) 24)) ∧
      (∀ e ∈ dir, e.type = 4 → e.len = 272 ∧ n (e.off + 2) 14 = 0 ∧ im.regions = (List.range 16).map fun i =>
        if (n e.off 2).testBit i then some (BitVec.ofNat 128 (n (e.off + 16 + 16 * i) 16)) else none) ∧
      (∀ e ∈ dir, e.type = 5 → e.len % 8 = 0 ∧ im.tiles = (List.range (e.len / 8)).flatMap fun i =>
        (List.range (n (e.off + 8 * i + 4) 4)).map fun j => n (e.off + 8 * i) 4 + 4096 * j) ∧
      im.tiles.length ≤ 2048 / 2 ^ im.frac ∧ (∀ t ∈ im.tiles, t % 4096 = 0 ∧ t + 4096 ≤ share) ∧
      (im.tiles.map fun t => (t, 4096)).Pairwise apart ∧
      (∀ d ∈ im.data, d.1 + d.2.length ≤ share) ∧ (im.data.map fun d => (d.1, d.2.length)).Pairwise apart ∧
      ∀ r, some r ∈ im.regions → agPbase r + agLen r ≤ share ∧ agAbase r + agAlen r ≤ share) ∧
    (header → nsect = 2 → listed 0 → listed 1 → inOrder (sect 0) (sect 1) → (sect 0).type = 1 → (sect 1).type = 7 →
      textOk (sect 0).len → ∃ im, parseImage img = some (im, [sect 0, sect 1]) ∧
        im.text = bytes (sect 0).off (sect 0).len) ∧
    ∀ (s : State) (im : Image) (dir : List Sect), (sectBytes img dir 7 = none → s.certOk img im dir = false) ∧
      ∀ c, sectBytes img dir 7 = some c →
        let m (o w : Nat) : Nat := fieldAt c o w
        (s.certOk img im dir = true ↔ c.length = 3557 ∧ m 0 4 = 0x4C59_5843 ∧ m 4 2 = 1 ∧ m 6 2 = 0 ∧ m 13 3 = 0 ∧
          m 8 4 = Config.stepping.toNat ∧ m 12 1 = 0 ∧
          (∀ i, i < im.text.length / 48 → fieldAt im.text (48 * i) 1 < 32) ∧
          m 16 48 = im.nhash.toNat ∧ m 64 48 = (sha384 (thashBytes img dir)).toNat ∧
          ∃ key, some key ∈ s.slots.toList ∧ key.id = m 160 8 ∧
            Config.verifyEd25519 key.ed (c.take 184) ((c.drop 184).take 64) = true ∧
            Config.verifyMlDsa key.ml (c.take 184) (c.drop 248) = true)) ∧
  (∀ (s : State) (q : Fin 64) (im : Image) (r : LaunchRec) (p : Placement), (∀ b, (s.brick b).gbc.toNat < 2 ^ 63) →
    s.place q im r = some p →
    let u := s.queue q
    p.f < 8 ∧ p.base < 8 ∧ p.f &&& p.base = 0 ∧ ((List.range 12).filter p.f.testBit).length = im.ndim ∧
    p.places.length = 2 ^ im.ndim ∧ u.maxFrac ≤ im.frac ∧
    (r.fixed = true → p.f = r.pfree ∧ p.base = r.pbase) ∧
    (r.fixed = false → ∀ f' base', f' < 8 → base' < 8 → f' < p.f ∨ (f' = p.f ∧ base' < p.base) →
      s.tryPlace q im false f' base' = none) ∧
    ∀ i x, p.places[i]? = some x →
      let y := s.brick x.brick
      x.brick.val = brickAt p.f p.base i ∧ y.inService = true ∧ u.alloc.getLsbD x.brick.val = true ∧
      s.contextsOf q x.brick < u.nctx ∧ s.occupied x.brick x.seat = false ∧
      (s.ctx x.brick x.seat).run.live = false ∧
      (∀ z, z < x.seat → s.occupied x.brick z = true ∨ (s.ctx x.brick z).run.live = true) ∧
      x.offset = y.cycleAt p.gbcs % 2 ^ im.frac ∧ s.offsetFree x.brick im.frac x.offset = true ∧
      2 ^ 16 ≤ (p.gbcs - y.gbc).toNat ∧
      (r.fixed = false → ∀ d : Fin 12, p.f.testBit d.val = true →
        (s.link x.brick d).state = .up ∨ (s.link x.brick d).active = true)) ∧
  ∀ (s : State) (q : Fin 64) (r : LaunchRec) (im : Image) (p : Placement) (gen : Nat),
    (p.places.map Place.brick).Nodup →
    (∀ x ∈ p.places, s.occupied x.brick x.seat = false ∧ (s.seat x.brick x.seat).armedReg = false) →
    let u := s.queue q
    let asgen : Word := BitVec.ofNat 64 (gen + u.asid.toNat * 2 ^ 16)
    let t := s.launch q r im p gen
    (∀ i x, p.places[i]? = some x →
      let c := setupContext s.nextKernel im r p i x asgen (r.budget u)
      c.crd = BitVec.ofNat 64 (i + im.ndim * 2 ^ 12 + x.brick.val * 2 ^ 16) ∧
      c.scmask = BitVec.ofNat 64 (p.f + p.base * 2 ^ 16) ∧ c.seatf = BitVec.ofNat 64 (im.frac + x.seat.val * 4) ∧
      (c.asgen, c.gbcs, c.pc, c.qi) = (asgen, p.gbcs, im.entry, BitVec.ofNat 32 im.qi) ∧
      c.fbud.toNat = min (if r.fbudReq = 0 then 2 ^ 24 else r.fbudReq) (2 ^ u.fbudLog) ∧
      (im.nparam ≤ 8 → ∀ k : Fin 32, c.x.get k =
        if 1 ≤ k.val ∧ k.val ≤ im.nparam then r.params.getD (k.val - 1) 0 else 0) ∧
      (∀ k, k < im.text.length → getB c.imem k = im.text.getD k 0) ∧
      (c.streams, c.regions, c.tiles, c.nhash) = (im.streams, im.regions, im.tiles, im.nhash) ∧
      (∀ d ∈ im.data, (im.data.map fun d => (d.1, d.2.length)).Pairwise (fun x y =>
          x.2 = 0 ∨ y.2 = 0 ∨ x.1 + x.2 ≤ y.1 ∨ y.1 + y.2 ≤ x.1) →
        ∀ k, k < d.2.length → getB c.spad (d.1 + k) = d.2.getD k 0)) ∧
    ((∀ x ∈ p.places, (t.seat x.brick x.seat).armedReg = true) →
      (∀ i x, p.places[i]? = some x → (t.seat x.brick x.seat).committed = false ∧
        t.ctx x.brick x.seat = { setupContext s.nextKernel im r p i x asgen (r.budget u) with run := .armed false }) ∧
      (t.queue q).headIx = u.headIx + 1 ∧ t.nextKernel = s.nextKernel + 1 ∧
      ∃ k, t.kernels = s.kernels ++ [k] ∧ (k.id, k.queue, k.seq, k.tag) = (s.nextKernel, q, u.headIx, r.tag) ∧
        (k.report, k.reportLen, k.satAbort) = (r.report, r.reportLen, r.satAbort) ∧ k.gbcs = p.gbcs ∧
        k.seats = (p.places.map fun x => (x.brick, x.seat)) ∧ k.reports = [] ∧ k.commitSent = false)

/-- Pre-emption and the commands of CTXCTL (01 R39, R45, R55, 22 R403 to R409, R416, R417, 19 R371). A stopped context
whose target is withdrawn runs on, once the brick holds no badly spaced table. A save drains a stopped context, or a
heavy one a context in trap service, or one that a save has left saved there; a drain that ends within the budget is
captured, and its record is then written before DONE is set; at the budget the save ends with ERR 2, over an area that
is no memory of one home or met an uncorrectable error with ERR 3, and of a context in any other state with ERR 1. A
save that fails leaves the context as it was; a good one of a context in trap service leaves it saved there. The
record's header, its register section and the places of its sections are spelt out, the SLIP that of the Q bundle or
of the faulting one. A restore is refused with its ERR, whose conditions and order are spelt out, which ends the kernel
where the record is another stepping's, or loads every item that a light record holds, whose quarters are then its
share. A release ends a stopped, saved or restored context: what it has started stays to drain, its
record and its unconsumed errors join the kernel's, the quarters of its share become dirty, and memory and queues are
as before; of any other context it is ERR 8. A restored context that is armed and committed resumes at GBCS when every
task of its kernel is restored and committed for that count, has resumed from it or had ended, with GBCS rewritten so
that SLIP read there is the saved value, or in the service of its trap again. One whose generation has passed goes on in
none of these ways, and its release ends its kernel without a report (22 R455).
Where the spec leaves a reading open, the model's choice is that of log entries 9 and 30. -/
def Obligations.ContextCommands : Prop :=
  (∀ (s : State) (b : Fin 8) (q : Fin 4) (v : Word), s.power = .on → s.stewardUp b = true →
    let x := s.seat b q
    let c := x.ctx
    let gbc := (s.brick b).gbc
    let area := BitVec.ofNat 52 (v.toNat / 2 ^ 12 % 2 ^ 40 * 4096)
    let current : Prop := ((s.brick b).genOf c.asid).toNat = c.gen
    let sets (i : Instr) (f : Seat → Seat) : Prop :=
      ∃ t, exec i s = .next t ∧ t.seat b q = f x ∧ ∀ b' q', (b', q') ≠ (b, q) → t.seat b' q' = s.seat b' q'
    let saving (heavy : Bool) (trap again : Option Word) (y : Seat) : Seat :=
      { y with area := area, saveTo := area, busy := true, done := false, captured := false, resaved := again
               ctx := { c with run := .saving heavy gbc trap } }
    let refused (y : Seat) : Seat := { y with area := area, done := false, err := 1 }
    let stands (trap : Option Word) (good : Bool) : Run := match trap, x.resaved with
      | none, _ => .stopped
      | some _, some spent => .saved spent
      | some g0, none => if good then .saved (gbc - g0) else .service g0
    let ended (trap : Option Word) (good : Bool) (y : Seat) : Seat :=
      { y with busy := false, captured := false, areaErr := false, resaved := none, done := good
               ctx := { c with run := stands trap good, recorded := c.recorded || good } }
    let target (y : Seat) : Seat := { y with preTarget := v.truncate 32, preEn := v.getLsbD 32, resumeOwed := false }
    (c.run = .running → sets (.preemptionTarget b q v) target) ∧
    (v.getLsbD 32 = false → current ∨ (c.run = .stopped ∧ c.recorded = false) →
      c.run = .stopped ∨ (∃ spent, c.run = .saved spent) → (s.brick b).tableBad = true →
      sets (.preemptionTarget b q v) fun y => { target y with resumeOwed := true }) ∧
    (v.getLsbD 32 = false → (s.brick b).tableBad = false →
      (c.run = .stopped → current ∨ c.recorded = false → sets (.preemptionTarget b q v) fun y =>
        { target y with ctx := { c with run := .running, recorded := false } }) ∧
      ∀ spent, c.run = .saved spent → current → sets (.preemptionTarget b q v) fun y =>
        { target y with ctx := { c with run := .service (gbc - spent), recorded := false } }) ∧
    (¬current → (c.run = .stopped ∧ c.recorded = true) ∨ (∃ spent, c.run = .saved spent) →
      sets (.preemptionTarget b q v) target) ∧
    (x.busy = false →
      (c.run = .stopped → sets (.lightSave b q v) (saving false none none) ∧
        sets (.heavySave b q v) (saving true none none)) ∧
      (∀ g0, c.run = .service g0 → sets (.lightSave b q v) refused ∧
        sets (.heavySave b q v) (saving true (some g0) none)) ∧
      (∀ spent, c.run = .saved spent → sets (.lightSave b q v) refused ∧
        sets (.heavySave b q v) (saving true (some (gbc - spent)) (some spent))) ∧
      (c.run = .running → sets (.lightSave b q v) refused ∧ sets (.heavySave b q v) refused)) ∧
    (x.busy = true → ∀ i ∈ [Instr.lightSave b q v, .heavySave b q v, .contextRestore b q v],
      sets i fun y => { y with area := area }) ∧
    (∀ heavy g0 trap, c.run = .saving heavy g0 trap → x.captured = false → ∃ t, exec (.gbcTick b) s = .next t ∧
      ((t.seat b q).captured = true ↔ c.drained = true ∧ ((t.brick b).gbc - g0).toNat < c.budget)) ∧
    (∀ heavy g0 trap, c.run = .saving heavy g0 trap → x.captured = true →
      let rec' := c.record heavy s.freeCtr
      (x.areaErr = false → s.areaOk x.saveTo.toNat rec'.2 = true → ∃ t, exec (.saveComplete b q) s = .next t ∧
        t.mem = placeSpan s.mem x.saveTo.toNat rec'.2 rec'.1 ∧ t.seat b q = ended trap true x) ∧
      (x.areaErr = true ∨ s.areaOk x.saveTo.toNat rec'.2 = false →
        sets (.saveComplete b q) fun y => { ended trap false y with err := 3 })) ∧
    (∀ heavy g0 trap, c.run = .saving heavy g0 trap → x.captured = false →
      (c.budget ≤ (gbc - g0).toNat →
        sets (.saveDrainTimeout b q) fun y => { ended trap false y with err := 2 }) ∧
      ((gbc - g0).toNat < c.budget → exec (.saveDrainTimeout b q) s = .next s)) ∧
    (x.busy = false → s.physOk area.toNat = false ∨ x.areaErr = true →
      sets (.contextRestore b q v) fun y => { y with area := area, areaErr := false, done := false, err := 3 }) ∧
    (x.busy = false → s.physOk area.toNat = true → x.areaErr = false →
      let h := getBytes s.mem area.toNat 256
      let err := s.restoreErr b q h area.toNat
      (err ≠ 0 → ∃ t, exec (.contextRestore b q v) s = .next t ∧
        t.seat b q = { x with area := area, done := false, err := BitVec.ofNat 4 err }) ∧
      (err = 4 → ofBytes ((h.drop 8).take 4) ≠ Config.stepping.toNat → ∀ k, s.kernel c.kernel = some k →
        ∃ t, exec (.contextRestore b q v) s = .next t ∧
          ∀ p ∈ k.seats, (s.ctx p.1 p.2).kernel = c.kernel → (t.ctx p.1 p.2).run.over = true) ∧
      (err = 0 → ∃ t, exec (.contextRestore b q v) s = .next t ∧
        t.seat b q = { x with
          area := area, done := true, ctx := s.restored c area.toNat h, share := (s.brick b).quartersOf q c.frac })) ∧
    (x.busy = false → c.run = .stopped ∨ c.run = .restored ∨ (∃ spent, c.run = .saved spent) →
      (∀ k, s.kernel c.kernel = some k → sets (.contextRelease b q) (fun y =>
        { y with done := true, armedReg := false, runReg := false, committed := false, resumeOwed := false
                 ctx := { c with run := .released gbc, phase := .entry, cmds := [] } })) ∧
      ∀ k, s.kernel c.kernel = some k → k.lapsed = false →
        let errs := BitVec.ofNat 32 (tokMask c Token.isErr) ||| c.unconsumed
        let rec' := (c.coord, taskRecord s b q (s.withRelErr c) (siblingEnd c))
        ∃ t k', exec (.contextRelease b q) s = .next t ∧ t.mem = s.mem ∧ t.queues = s.queues ∧
          (∀ i : Fin 4, (t.brick b).quarters.get i =
            if i.val ∈ x.share then .dirty else (s.brick b).quarters.get i) ∧
          t.kernel c.kernel = some k' ∧ (k'.lapsed = true ↔ ¬current ∧ (c.run = .stopped → c.recorded = true)) ∧
          rec' ∈ k'.relRecs ∧ (errs ≠ 0 → (c.coord, errs) ∈ k'.relErrs) ∧
          k'.reports = (if c.recorded then k.reports else k.reports ++ [rec'])) ∧
    (x.busy = false → c.run = .running → sets (.contextRelease b q) fun y => { y with done := false, err := 8 }) ∧
    (∀ slip svc, c.restoring = some (slip, svc) → c.run = .restored → x.armedReg = true → x.committed = true →
      (s.brick b).inService = true → (s.brick b).cycleNow = true → (s.brick b).owns q = true →
      c.gbcs.toNat ≤ gbc.toNat → s.togetherAt c.kernel c.gbcs = true → (s.brick b).tableBad = false → current →
      (BitVec.ofNat 64 c.cbc + slip - c.slipOffset).toNat * 2 ^ c.frac < 2 ^ 64 →
      ∃ gbcs', ({ c with gbcs := gbcs' } : Context).slipAt c.gbcs c.cbc = slip ∧
        exec (.contextResume b q) s = .next (s.setSeat b q { x with
          ctx := { c with
            run := match svc with
              | some spent => .service (gbc - spent)
              | none => .running
            recorded := false, gbcs := gbcs', restoring := none, resumedAt := some c.gbcs, svcCounted := svc.getD 0 }
          armedReg := false, committed := false, runReg := true })) ∧
    (c.run ≠ .restored ∨ x.armedReg = false ∨ x.committed = false ∨ ¬current ∨
      s.togetherAt c.kernel c.gbcs = false → exec (.contextResume b q) s = .next s)) ∧
  (∀ (s : State) (id : Nat) (t : Word) (k : Kernel), s.kernel id = some k →
    (s.togetherAt id t = true ↔ k.relRecs = [] ∧ ∀ i p, k.seats[i]? = some p →
      let y := s.seat p.1 p.2
      (∃ r, (i, r) ∈ k.reports) ∨ (y.ctx.kernel = id ∧
        (y.ctx.run = .restored → y.armedReg = true ∧ y.committed = true ∧ y.ctx.gbcs = t) ∧
        (y.ctx.run ≠ .restored → y.ctx.resumedAt = some t)))) ∧
  (∀ (s : State) (b : Fin 8) (q : Fin 4) (h : List Byte) (a : Nat),
    let c := s.ctx b q
    let f := fieldAt h
    let sect (i : Nat) : Nat × Nat := (f (208 + 8 * i) 4, f (212 + 8 * i) 4)
    let bytes (i : Nat) : List Byte := getBytes s.mem (a + (sect i).1) (sect i).2
    let header : Prop := f 0 4 = 0x4C59_4358 ∧ f 4 2 = 1 ∧ f 6 1 ≤ 1 ∧ f 7 1 ≤ 2 ∧ f 64 8 % 48 = 0 ∧
      f 128 1 ≤ 2 ∧ f 129 1 ≤ 1 ∧ f 132 1 < 32 ∧ f 133 3 = 0 ∧ f 200 8 = 0 ∧
      (∀ i, i < 6 → (sect i).2 ≠ 0 → (sect i).1 % 4096 = 0 ∧ 4096 ≤ (sect i).1) ∧
      (∀ i j, i < j → j < 6 → (sect i).2 = 0 ∨ (sect j).2 = 0 ∨ (sect i).1 + (sect i).2 ≤ (sect j).1 ∨
        (sect j).1 + (sect j).2 ≤ (sect i).1) ∧
      (sect 0).2 = 137592 + 4 * (2048 / 2 ^ f 7 1) ∧ (sect 3).2 = 2 ^ (27 - f 7 1) ∧
      (f 6 1 = 1 ↔ (sect 4).2 ≠ 0) ∧ f 196 2 = c.coord ∧ f 198 2 = c.ndim
    let banks : Prop := ∃ gs : List (Nat × Nat × List Byte),
      bytes 1 = gs.flatMap (fun g => toBytes 4 g.1 ++ toBytes 4 g.2.1 ++ g.2.2) ∧
      (∀ g ∈ gs, g.2.1 ∈ [1, 2, 4, 8] ∧ g.2.2.length = 2048 * g.2.1 ∧ g.1 % g.2.1 = 0 ∧
        g.1 + g.2.1 ≤ 8192 / 2 ^ f 7 1) ∧
      gs.Pairwise fun x y => x.1 + x.2.1 ≤ y.1
    let tables : Prop := (bytes 2).length % 72 = 0 ∧
      (∀ i, i < (bytes 2).length / 72 → fieldAt (bytes 2) (72 * i) 8 < 8192 / 2 ^ f 7 1 ∧
        fieldAt (bytes 2) (72 * i + 40) 1 % 2 = 1) ∧
      ∀ i j, i < j → j < (bytes 2).length / 72 → fieldAt (bytes 2) (72 * i) 8 ≠ fieldAt (bytes 2) (72 * j) 8
    let landset : Prop := bytes 4 = [] ∨ ∃ n, n ≤ 96 ∧ (bytes 4).length = 8 + 8 * fieldAt (bytes 4) 0 8 + 512 * n
    let held : Prop := (∀ k, k < 32 → fieldAt (bytes 0) (132736 + 2 * k) 1 ≤ 3) ∧ fieldAt (bytes 0) 133488 8 ≤ 16 ∧
      (bytes 5 = [] ∨ (fieldAt (bytes 5) 0 8 ≠ 0 ∧ (bytes 5).length = 8 + 264 * fieldAt (bytes 5) 0 8 ∧
        ∀ i, i < fieldAt (bytes 5) 0 8 → fieldAt (bytes 5) (8 + 264 * i) 8 < 32 ∧
          fieldAt (bytes 0) (132736 + 2 * fieldAt (bytes 5) (8 + 264 * i) 8) 1 = 1))
    let sections : Prop := banks ∧ tables ∧ landset ∧ held ∧ (f 6 1 = 1 → s.landset (bytes 4) ≠ none)
    let clean : Prop := (s.brick b).quartersOf q c.frac ≠ [] ∧
      ∀ i : Fin 4, i.val ∈ (s.brick b).quartersOf q c.frac → (s.brick b).quarters.get i = .clean
    let image : Prop := f 8 4 = Config.stepping.toNat ∧ f 12 48 = c.nhash.toNat
    let reads : Prop := s.areaOk a (((List.range 6).map fun i => (sect i).1 + (sect i).2).foldl max 256) = true
    let current : Prop := f 60 2 = c.asid ∧ f 62 2 = c.gen ∧ ((s.brick b).genOf c.asid).toNat = c.gen
    let err := s.restoreErr b q h a
    (¬(c.run = .empty ∧ header) → err = 8) ∧
    (c.run = .empty → header →
      (¬image → err = 4) ∧
      (image → ¬reads → err = 3) ∧
      (image → reads → ¬sections → err = 8) ∧
      (image → reads → sections → f 7 1 ≠ c.frac → err = 5) ∧
      (image → reads → sections → f 7 1 = c.frac → ¬clean → err = 6) ∧
      (image → reads → sections → f 7 1 = c.frac → clean → ¬current → err = 7) ∧
      (image → reads → sections → f 7 1 = c.frac → clean → current → err = 0))) ∧
  (∀ (s : State) (c d : Context) (n a : Nat), Memory.wf s.mem = true → Memory.wf c.spad = true →
    (∀ x, c.spadShare ≤ x → getB c.spad x = 0) → d.frac = c.frac → c.frac ≤ 2 →
    c.pc < 2 ^ 64 → c.cbc < 2 ^ 64 → c.qiCount < 2 ^ 32 → c.sp < 2 ^ 64 → c.sq.length ≤ 16 →
    (∀ w, c.redir0 = some w ∨ c.redir1 = some w → w.toNat < 2 ^ 63) →
    (∀ p, c.pin = some p → p.1 < 2 ^ 32 ∧ 0 < p.2 ∧ p.2 < 512) →
    mapWf 0 c.tags = true → (∀ e ∈ c.tags, e.1 < c.tileShare) →
    (∀ g ∈ c.held, g.2 ∈ [1, 2, 4, 8] ∧ g.1 + g.2 ≤ c.bankShare) →
    c.held.Pairwise (fun x y => x.1 + x.2 ≤ y.1 ∨ y.1 + y.2 ≤ x.1) →
    (c.tables.map Prod.fst).Nodup → (∀ t ∈ c.tables, t.1 < c.tableShare) → c.ops.length < 2 ^ 10 →
    let r := c.record false n
    let t := { s with mem := placeSpan s.mem a r.2 r.1 }
    let y := t.restored d a (getBytes t.mem a 256)
    y.run = .restored ∧ y.restoring = some (c.slipHeld, none) ∧ y.recorded = true ∧
    (y.kernel, y.asgen, y.crd, y.gbcs, y.frac, y.nhash) = (d.kernel, d.asgen, d.crd, d.gbcs, d.frac, d.nhash) ∧
    (y.pc, y.redir0, y.redir1, y.cbc, y.slipOffset, y.slipHeld) =
      (c.pc, c.redir0, c.redir1, c.cbc, c.slipOffset, c.slipHeld) ∧
    (y.qcnt, y.qiCount, y.pin, y.dmode, y.wcol, y.ltgen, y.rrb, y.lc) =
      (c.qcnt, c.qiCount, c.pin, c.dmode, c.wcol, c.ltgen, c.rrb, c.lc) ∧
    (y.sp, y.srw, y.tstat, y.taddr, y.tbeat, y.tinfo, y.tibeat, y.fbud) =
      (c.sp, c.srw, c.tstat, c.taddr, c.tbeat, c.tinfo, c.tibeat, c.fbud) ∧
    (y.x, y.v, y.p, y.s, y.tok, y.ag) = (c.x, c.v, c.p, c.s, c.tok, c.ag) ∧
    (y.count, y.amax, y.limit, y.scst) = (c.count, c.amax, c.limit, c.scst) ∧
    (y.tapeb, y.tapel, y.tapec, y.tapes, y.tapesa) = (c.tapeb, c.tapel, c.tapec, c.tapes, c.tapesa) ∧
    y.sq = c.sq ∧ (∀ i, mapGet 0 y.tags i = mapGet 0 c.tags i) ∧ (∀ i, getB y.spad i = getB c.spad i) ∧
    (∀ g, mapGet 0 y.held g = (c.held.find? (·.1 == g)).elim 0 Prod.snd) ∧
    (∀ g ∈ c.held, ∀ i, i < g.2 → bankOf y.banks (g.1 + i) = bankOf c.banks (g.1 + i)) ∧
    (∀ e ∈ c.tables, e.2.valid = true → mapGet Table.zero y.tables e.1 = e.2) ∧
    (∀ k, (∀ e ∈ c.tables, e.2.valid = true → e.1 ≠ k) → mapGet Table.zero y.tables k = Table.zero) ∧
    y.ops.map (fun o => (o.kind, o.token, o.queueEntry, o.settled, o.startBeat)) =
      c.heldOps.map fun o => (.cpsq, o.token, o.queueEntry, true, 0)) ∧
  (∀ (c : Context) (heavy : Bool) (n a : Nat) (m : List Host.Cell), Memory.wf m = true → Memory.wf c.spad = true →
    (∀ x, c.spadShare ≤ x → getB c.spad x = 0) →
    let r := c.record heavy n
    let t := placeSpan m a r.2 r.1
    let sects := [c.regsBytes, c.banksBytes, c.tablesBytes, getBytes c.spad 0 c.spadShare,
      (if heavy then c.landsetBytes n else []), c.sqheldBytes]
    ∃ dir : List (Nat × Nat), dir.length = 6 ∧
      (∀ (i : Nat) (l : List Byte) (e : Nat × Nat), sects[i]? = some l → dir[i]? = some e → e.2 = l.length ∧
        (l = [] → e.1 = 0) ∧ (l ≠ [] → e.1 % 4096 = 0 ∧ 4096 ≤ e.1 ∧ e.1 + e.2 ≤ r.2) ∧
        ∀ k, k < l.length → getB t (a + e.1 + k) = l.getD k 0) ∧
      dir.Pairwise (fun x y => x.2 = 0 ∨ y.2 = 0 ∨ x.1 + x.2 ≤ y.1) ∧
      (∀ k, k < 256 → getB t (a + k) = (c.headerBytes heavy dir).getD k 0) ∧
      ∀ x, x < a ∨ a + r.2 ≤ x → getB t x = getB m x) ∧
  (∀ (c : Context) (heavy : Bool) (dir : List (Nat × Nat)), dir.length = 6 →
    let h := c.headerBytes heavy dir
    let entry (r : Option Word) : Nat := match r with
      | some w => w.toNat % 2 ^ 63 + 2 ^ 63
      | none => 0
    let one (p : Bool) : Nat := if p then 1 else 0
    h.length = 256 ∧
    (∀ f ∈ [(0, 4, 0x4C59_4358), (4, 2, 1), (6, 1, one heavy), (7, 1, c.frac), (8, 4, Config.stepping.toNat),
        (12, 48, c.nhash.toNat), (60, 2, c.asid), (62, 2, c.gen), (64, 8, c.pc), (72, 8, entry c.redir0),
        (80, 8, entry c.redir1), (88, 8, c.cbc), (96, 8, c.slipHeld.toNat), (104, 8, c.slipOffset.toNat),
        (112, 4, c.qcnt.toNat), (116, 4, c.qiCount), (120, 8, c.pin.elim 0 fun p => p.1 + p.2 * 2 ^ 32),
        (128, 1, c.dmode.code), (129, 1, one c.wcol), (130, 2, c.ltgen.toNat), (132, 1, c.rrb.toNat), (133, 3, 0),
        (136, 4, c.lc.toNat), (140, 8, c.sp), (148, 4, c.srw.toNat), (152, 8, c.tstat.toNat),
        (160, 8, c.taddr.toNat), (168, 8, c.tbeat.toNat), (176, 8, c.tinfo.toNat), (184, 8, c.tibeat.toNat),
        (192, 4, c.fbud.toNat), (196, 2, c.coord), (198, 2, c.ndim), (200, 8, 0)],
      fieldAt h f.1 f.2.1 = f.2.2 % 2 ^ (8 * f.2.1)) ∧
    ∀ i e, dir[i]? = some e →
      fieldAt h (208 + 8 * i) 4 = e.1 % 2 ^ 32 ∧ fieldAt h (212 + 8 * i) 4 = e.2 % 2 ^ 32) ∧
  ∀ c : Context, c.sq.length ≤ 16 →
    let l := c.regsBytes
    let state (t : Token) : Nat := match t with
      | .free => 0
      | .outstanding => 1
      | .good => 2
      | .error _ => 3
    let cause (t : Token) : Nat := match t with
      | .error e => e.toNat
      | _ => 0
    l.length = 137592 + 4 * c.tileShare ∧
    (∀ i, fieldAt l (8 * i.val) 8 = (c.x.get i).toNat) ∧
    (∀ i, fieldAt l (256 + 2048 * i.val) 2048 = (c.v.get i).toNat) ∧
    (∀ i, fieldAt l (131328 + 64 * i.val) 64 = (c.p.get i).toNat) ∧
    (∀ i, fieldAt l (132352 + 24 * i.val) 24 = (c.s.get i).toNat) ∧
    (∀ i, fieldAt l (132736 + 2 * i.val) 1 = state (c.tok.get i) ∧
      fieldAt l (132737 + 2 * i.val) 1 = cause (c.tok.get i)) ∧
    (∀ i, fieldAt l (132800 + 24 * i.val) 8 = (c.count.get i).toNat ∧
      fieldAt l (132808 + 24 * i.val) 8 = (c.amax.get i).toNat ∧
      fieldAt l (132816 + 24 * i.val) 8 = (c.limit.get i).toNat) ∧
    (∀ i, fieldAt l (133192 + 16 * i.val) 16 = (c.ag.get i).toNat) ∧
    [133184, 133448, 133456, 133464, 133472, 133480, 133488].map (fun o => fieldAt l o 8) =
      [c.scst.toNat, c.tapeb.toNat, c.tapel.toNat, c.tapec.toNat, c.tapes.toNat, c.tapesa.toNat, c.sq.length] ∧
    (∀ i, i < 16 → fieldAt l (133496 + 256 * i) 256 = (c.sq.getD i 0).toNat) ∧
    ∀ i, i < c.tileShare → fieldAt l (137592 + 4 * i) 4 = (mapGet 0 c.tags i).toNat

/-- The scrub (22 R415, R416) takes a dirty quarter up once no released context drains in it, clearing the ended
contexts that had a share of it, whatever table is in force, and no memory, and ends clean; a failed check leaves the
quarter failed, unless a context that the check ends has had a share of it, ends the tasks that stand on the brick and
takes it out of service; a brick whose steward does not run, or a module whose boot has failed, scrubs nothing (23 R418,
R421). An advance, of which one runs at a time, makes the next generation
of an address space current, 0 being skipped, on every home by the time that it is done, when the table's entry holds
it too (22 R414). (The premise on the generations is the invariant `MemoriesCanonical`.)
Where the spec leaves a reading open, the model's choice is that of log entry 31. -/
def Obligations.ScrubAndGenerations : Prop :=
  (∀ (s : State) (b : Fin 8) (k : Fin 4), s.power = .on → s.stewardUp b = true → s.stage ≠ 15 →
    let x := s.brick b
    let inQuarter (q : Fin 4) : Prop := k.val ∈ (s.seat b q).share
    let stale (q : Fin 4) : Prop := ((s.ctx b q).run = .ended ∨ (s.ctx b q).run = .killed) ∧ inQuarter q
    (x.quarters.get k = .dirty → (∀ q g, (s.ctx b q).run = .released g → ¬inQuarter q) →
      ∃ t, exec (.scrub b k) s = .next t ∧ (t.brick b).quarters.get k = .busy ∧ t.mem = s.mem ∧
        ∀ q, (stale q → t.ctx b q = Context.reset) ∧ (¬stale q → t.ctx b q = s.ctx b q)) ∧
    ((∃ q g, (s.ctx b q).run = .released g ∧ inQuarter q) → exec (.scrub b k) s = .next s) ∧
    (x.quarters.get k = .busy →
      (∃ t, exec (.scrubComplete b k true) s = .next t ∧ (t.brick b).quarters.get k = .clean) ∧
      ∃ t, exec (.scrubComplete b k false) s = .next t ∧ (t.brick b).inService = false ∧
        ((∀ q, (s.ctx b q).run.over = true ∨ ¬inQuarter q) → (t.brick b).quarters.get k = .failed) ∧
        ∀ q n, (s.ctx b q).run.over = false → s.kernel (s.ctx b q).kernel = some n → (b, q) ∈ n.seats →
          (t.ctx b q).run = .killed)) ∧
  (∀ (s : State) (b : Fin 8) (k : Fin 4), s.power ≠ .on ∨ s.stewardUp b = false ∨ s.stage = 15 →
    exec (.scrub b k) s = .next s ∧ ∀ good, exec (.scrubComplete b k good) s = .next s) ∧
  ∀ (s : State) (b : Fin 8) (v : Word), s.stewardUp b = true → (∀ i, mapWf 1 (s.brick i).gens = true) →
    let x := s.brick b
    let asid := v.toNat % 2 ^ 16
    let old := ((s.brick 0).genOf asid).toNat
    let a := x.genadvAsid.toNat
    let entry := s.astbase.toNat + 16 * a + 8
    ((∀ i, (s.brick i).genBusy = false) → v.getLsbD 16 = true → ∃ t, exec (.generationAdvance b v) s = .next t ∧
      (t.brick b).genBusy = true ∧ (t.brick b).genDone = false ∧
      (t.brick b).genNext.toNat = (if old = 65535 then 1 else old + 1) ∧
      ∀ i, (t.brick i).genOf asid = (s.brick i).genOf asid ∨ (t.brick i).genOf asid = (t.brick b).genNext) ∧
    ((∀ i, (s.brick i).genBusy = false) → v.getLsbD 16 = false →
      exec (.generationAdvance b v) s = .next (s.setBrick b { x with genadvAsid := v.truncate 16 })) ∧
    ((∃ i, (s.brick i).genBusy = true) → exec (.generationAdvance b v) s = .next s) ∧
    (x.genBusy = true → (∀ p : Fin 8 × Fin 4, (s.ctx p.1 p.2).oldAccess a x.genNext = false) →
      ∃ t, exec (.generationAdvanceDone b) s = .next t ∧ (t.brick b).genDone = true ∧ (t.brick b).genBusy = false ∧
        (t.brick b).genOut = x.genNext ∧ (∀ i, (t.brick i).genOf a = x.genNext) ∧
        t.mem = if s.physOk entry then setBytes s.mem entry (toBytes 2 x.genNext.toNat) else s.mem)

/-! ### The root of trust -/

/-- Boot, measurement and the trust store (23 R418 to R423): power-up counts one boot, takes the store and the newer
sound telemetry copy from flash (25 R450), measures stage 1 into MR0, and stops at STAGE 0xF with the code of the
first check that the image fails, or reaches stage 3; a steward that runs extends MR4 to MR7 alone; a recovery image
is taken after a failed boot alone; a command that every check accepts changes the store as its OP says and spends its
counter, and a refused one changes nothing of the store.
Where the spec leaves a reading open, the model's choice is that of log entries 2, 5, 15, 16 and 32. -/
def Obligations.BootAndTrustStore : Prop :=
  (∀ s : State, s.power = .off ∨ (s.power = .on ∧ s.stage = 0) → ∃ t, exec .powerUp s = .next t ∧
    t.power = .on ∧ t.bootcnt = s.bootcnt + 1 ∧ t.mem = [] ∧
    t.mr.get 0 = sha384 (List.replicate 48 0 ++ mrBytes (sha384 s.stage1)) ∧
    (∀ f, imageFail s.svnmin s.stage1 = f → f ≠ 0 → t.stage = 15 ∧ t.failcode.toNat = f) ∧
    t.telLife = (if s.flashGood then s.telLife else s.telLifeOld) ∧ (t.owner = s.flashOwner ∨ t.owner = none) ∧
    (t.stage = 3 ∨ t.stage = 15)) ∧
  (∀ (s : State) (b : Fin 8) (r : Fin 4), (s.stewardUp b = false → exec (.measurementExtend b r) s = .next s) ∧
    (s.stewardUp b = true → ∃ (t : State) (d : BitVec 384),
    exec (.measurementExtend b r) s = .next t ∧
    (∀ (j : Fin 6) i, i < 64 → d.getLsbD (64 * j.val + i) = ((s.brick b).mrext.get j).getLsbD i) ∧
    ∀ i : Fin 8, t.mr.get i =
      (if i.val = 4 + r.val then sha384 (mrBytes (s.mr.get i) ++ mrBytes d) else s.mr.get i))) ∧
  (∀ (s : State) (image : List Byte), s.power = .on →
    (s.stage = 15 → exec (.recoveryImage image) s = .next { s with stage1 := image }) ∧
    (s.stage ≠ 15 → exec (.recoveryImage image) s = .next s)) ∧
  ∀ (s : State) (pa : BitVec 52), s.hostUp = true → s.areaOk pa.toNat 5421 = true →
    let c := parseCmd (getBytes s.mem pa.toNat 5421)
    let store (t : State) := (t.owner, t.slots, t.storeCtr)
    let gives (i : Instr) (owner : Option Key) (slots : Vector (Option Key) 16) : Prop :=
      ∃ t, exec i s = .next t ∧ store t = (owner, slots, c.ctr) ∧ t.flashOwner = owner ∧ t.flashSlots = slots ∧
        t.mem = s.mem
    (s.cmdReason c = 0 →
      (c.op = 1 → s.owner = none ∧ gives (.claim pa) (some c.key) s.slots) ∧
      (c.op = 2 → s.ownerSigned c = true ∧ gives (.enrol pa) s.owner (s.slots.setIfInBounds c.slot (some c.key))) ∧
      (c.op = 3 → s.ownerSigned c = true ∧ gives (.remove pa) s.owner (s.slots.setIfInBounds c.slot none)) ∧
      (c.op = 4 → s.ownerSigned c = true ∧ gives (.relinquish pa) none (Vector.replicate 16 none)) ∧
      c.ctr = s.storeCtr + 1) ∧
    (s.cmdReason c ≠ 0 → ∀ i ∈ [Instr.claim pa, .enrol pa, .remove pa, .relinquish pa],
      ∃ t, exec i s = .next t ∧ store t = store s)

/-- The audit log and attestation (23 R425 to R430): firmware appends entries of its own types alone; an acknowledgement
frees entries below a seal alone; a seal appends its entry and its record with the chain's digest; an appended entry
stands at its number and no entry that the ring still holds changes; a request seals and waits, and the report is signed
over the registers. (The order of the log's parts at one append is the spec's; that the append takes effect in one step
is the model's choice, log entry 4.)
Where the spec leaves a reading open, the model's choice is that of log entries 5, 13 and 33. -/
def Obligations.LogAndAttestation : Prop :=
  ∀ s : State, s.hostUp = true → s.LogRing →
    let entry (b : Fin 8) (type : Nat) (pay : List Byte) :=
      logEntry s.logNext (s.brick b).gbc.toNat type b.val 0xFFFF pay
    let room := s.logFull = false ∧ s.logLost = 0
    (∀ b, let x := s.brick b
      s.stewardUp b = true →
      (x.logtype.toNat < 0x8000 ∨ s.logFull = true →
        exec (.logAppend b) s = .next (s.setBrick b { x with logRefused := true })) ∧
      (room → 0x8000 ≤ x.logtype.toNat → ∃ t, exec (.logAppend b) s = .next t ∧ (t.brick b).logDone = true ∧
        s.LogKept t ∧ t.logNext = s.logNext + 1 ∧
        t.logAt s.logNext = entry b x.logtype.toNat (x.logpay.toList.flatMap fun w => toBytes 8 w.toNat))) ∧
    (∀ v : Word, (v.toNat ≤ s.lastSeal → ∃ t, exec (.logAck v) s = .next t ∧ s.LogKept t ∧ t.logAck = v ∧
        t.logAcked = max s.logAcked v.toNat) ∧
      (s.lastSeal < v.toNat → exec (.logAck v) s = .next s) ∧
      exec (.logPageSelect v) s = .next { s with logPage := v }) ∧
    exec .sealreq s = .next { s with sealReq := true } ∧
    (room → s.sealReq = true ∨ 4096 ≤ s.logSinceSeal → ∃ t z, exec .logSeal s = .next t ∧
      s.LogKept t ∧ t.logNext = s.logNext + 1 ∧ t.lastSeal = s.logNext ∧ t.sealReq = false ∧
      t.logSinceSeal = 0 ∧ (s.logNext % 64, z) ∈ t.seals ∧ z.seq = s.logNext ∧ z.hash = s.logHash ∧
      z.sig = s.sign (toBytes 8 (s.logNext + 2 ^ 64 - 1) ++ mrBytes s.logHash)) ∧
    (s.sealReq = false → s.logSinceSeal < 4096 ∨ s.logHold = true → exec .logSeal s = .next s) ∧
    (∀ nonce, exec (.attestationRequest nonce) s = .next { s.sealNow with nonce := nonce, attBusy := true }) ∧
    (s.attBusy = true → exec .attestationDone s =
      .next { s with attReport := s.reportBody ++ s.sign s.reportBody, attBusy := false, attDone := true })

/-! ### Links -/

/-- The states of a link (24 R434, R435, R437, R439 to R442, 25 R448): training, of links between bricks in service; its
end, when both ends train in time, with the right peer or the wrong one; the ways of failing with their WHY; a detour
opened, closed and done; a failed link keeps its unacknowledged flits; a link whose traffic no dimension can relay ends
the tasks of the running contexts of both ends whose placement includes the dimension, and no context of another kernel.
Where the spec leaves a reading open, the model's choice is that of log entry 27. -/
def Obligations.LinkStates : Prop :=
  (∀ (s : State) (b : Fin 8) (d : Fin 12), s.stewardUp b = true →
    let l := s.link b d
    let g := (s.brick b).gbc
    let far := farOf b d
    let fails (i : Instr) (why : Nat) : Prop := ∃ t, exec i s = .next t ∧ (t.link b d).state = .failed ∧
      (t.link b d).why.toNat = why ∧ (t.link b d).unacked = l.unacked ∧ d.val ∈ (t.brick b).linkIrq
    (s.servedLink b d = true → l.state = .down ∨ l.state = .failed ∨ l.state = .training →
      ∃ t, exec (.linkTrain b d) s = .next t ∧ t.link b d = { l with state := .training, trainSince := g }) ∧
    (s.servedLink b d = false ∨ l.state = .up ∨ l.state = .detour ∨ l.state = .absent →
      exec (.linkTrain b d) s = .next s) ∧
    (l.state = .training → (g - l.trainSince).toNat < 2 ^ 22 →
      (inModule d = true → s.trains far d = true ∧ s.servedLink b d = true) →
      (∀ peer, peer.toNat ≠ b.val ^^^ 2 ^ d.val → fails (.linkTrainingDone b d peer) 6) ∧
      ∀ peer, peer.toNat = b.val ^^^ 2 ^ d.val → ∃ t, exec (.linkTrainingDone b d peer) s = .next t ∧
        (t.link b d).state = .up ∧ (t.link b d).peer = peer ∧ (t.link b d).unacked = l.unacked ∧
        (inModule d = true → (t.link far d).state = .up ∧ (t.link far d).unacked = (s.link far d).unacked)) ∧
    (inModule d = true → s.trains far d = false → ∀ peer, exec (.linkTrainingDone b d peer) s = .next s) ∧
    (l.state = .training →
      (2 ^ 22 ≤ (g - l.trainSince).toNat → fails (.trainingTimeout b d) 4 ∧
        ∀ peer, exec (.linkTrainingDone b d peer) s = .next s) ∧
      ((g - l.trainSince).toNat < 2 ^ 22 → exec (.trainingTimeout b d) s = .next s)) ∧
    (∀ train, (l.state = .up → l.unacked = [] → fails (.linkDown b d train) 5) ∧
      (l.state = .up → l.unacked ≠ [] →
        exec (.linkDown b d train) s = .next (s.setLink b d { l with downing := some g })) ∧
      (l.state = .down ∨ l.state = .training ∨ l.state = .detour → fails (.linkDown b d train) 5) ∧
      (l.state = .failed → exec (.linkDown b d train) s = .next (s.setLink b d { l with why := 5 }))) ∧
    (∀ g0, l.downing = some g0 → l.unacked = [] ∨ 2 ^ 14 ≤ (g - g0).toNat → fails (.downWaitExpiry b d) 5) ∧
    (l.state = .up → 2 ^ 14 ≤ (g - l.lastRx).toNat → fails (.keepAliveTimeout b d) 2) ∧
    (l.state = .up → fails (.lossOfSignal b d) 3) ∧
    (∀ v : Word, let j := v.toNat % 16
      (l.state ≠ .absent → j < 12 → j ≠ d.val → ∃ t, exec (.detourOpen b d v) s = .next t ∧
        (t.link b d).state = .detour ∧ (t.link b d).active = true ∧ (t.link b d).relayDim.toNat = j ∧
        (t.link b d).via.toNat = j ∧ (t.link b d).unacked = l.unacked) ∧
      (l.state = .absent ∨ 12 ≤ j ∨ j = d.val →
        exec (.detourOpen b d v) s = .next (s.setLink b d { l with relayDim := BitVec.ofNat 4 j }))) ∧
    (l.active = true → exec (.detourClose b d) s = .next (s.setLink b d { l with closing := true })) ∧
    (l.active = true → l.closing = true → l.unacked = [] → l.state = .up →
      ∃ t, exec (.detourCloseDone b d) s = .next t ∧ t.link b d = { l with active := false, closing := false })) ∧
  ∀ (s : State) (b : Fin 8) (d : Fin 12), s.cutOff b d = true → (s.kernels.map Kernel.id).Nodup →
    (inModule d = true → ∀ j, s.relayOk b d j = false) →
    let hit (e : Fin 8) (q : Fin 4) : Prop := (e = b ∨ (inModule d = true ∧ e = farOf b d)) ∧
      (s.ctx e q).run.runs = true ∧ nbit (s.ctx e q).scmask.toNat d.val = true
    ∃ t, exec (.lostLinkWithNoDetour b d) s = .next t ∧
      (∀ e q, hit e q → (∃ k, s.kernel (s.ctx e q).kernel = some k ∧ (e, q) ∈ k.seats) →
        (t.ctx e q).run.over = true) ∧
      ∀ e q, (∀ e' q', hit e' q' → (s.ctx e' q').kernel ≠ (s.ctx e q).kernel) → t.ctx e q = s.ctx e q

/-- Flits and time (24 R436 to R439, R442, 25 R448): a flit carries the CRC-32C of its header and payload; the next
flit in order is accepted and acknowledged, whatever it carries, and waits for the event that acts on it; a duplicate
is dropped, and acknowledged again; a gap or a bad CRC asks the sender for a replay; an acknowledgement comes to the
sender in the receiver's next count, and frees what has been accepted, or is lost with the link; a flit for another
brick goes on as the relay table says; a keep-alive carries nothing, and a link that hears nothing for 2^14 counts
fails with WHY 2. The sender resends from the first unacknowledged flit, and after eight times in a row the link fails
with WHY 1; an idle link sends a keep-alive. A brick owes sync flits as its count passes a multiple of 2^12; a sync
flit, once it has been on its way for half the round trip, sets the offset, to its count with half the round trip
added, that the counter slews away, and one that comes later measures nothing; and a brick that hears none for 2^20
counts leaves service.
Where the spec leaves a reading open, the model's choice is that of log entries 26, 27 and 34. -/
def Obligations.LinkTraffic : Prop :=
  (∀ (s : State) (b : Fin 8) (d : Fin 12) (f : Flit) (w : List Flit), inModule d = true →
    (s.link b d).state = .up → (s.link (farOf b d) d).wire = f :: w →
    let l := s.link b d
    let o := s.link (farOf b d) d
    let g := (s.brick b).gbc
    let asks (i : Instr) : Prop := ∃ t, exec i s = .next t ∧ (t.link b d).rx = l.rx ∧ (t.link b d).rxSeq = l.rxSeq ∧
      (t.link (farOf b d) d).askReplay = true ∧ (t.link (farOf b d) d).wire = w
    ((g - l.lastRx).toNat < 2 ^ 14 → f.dim = d → f.src.toNat = (farOf b d).val → f.dest.toNat = b.val →
      (crcGood f = true → f.payload ≠ .keepAlive → f.seq = l.rxSeq → ∃ t, exec (.flitReceive b d f) s = .next t ∧
        (t.link b d).rx = (match f.payload with
          | .commit _ _ _ => l.rx
          | .other _ => l.rx
          | p => l.rx ++ [p]) ∧
        (t.link b d).rxSeq = l.rxSeq + 1 ∧ (t.link b d).lastRx = g ∧ (t.link (farOf b d) d).wire = w ∧
        (t.link b d).acks = l.acks ++ [l.rxSeq + 1] ∧ (t.link (farOf b d) d).unacked = o.unacked) ∧
      (crcGood f = true → f.payload ≠ .keepAlive → 0 < (f.seq - l.rxSeq).toNat → (f.seq - l.rxSeq).toNat < 2 ^ 31 →
        asks (.flitReceive b d f)) ∧
      (crcGood f = true → f.payload ≠ .keepAlive → 2 ^ 31 ≤ (f.seq - l.rxSeq).toNat →
        ∃ t, exec (.flitReceive b d f) s = .next t ∧ (t.link b d).rx = l.rx ∧ (t.link b d).rxSeq = l.rxSeq ∧
          (t.link b d).acks = l.acks ++ [l.rxSeq] ∧ (t.link (farOf b d) d).wire = w) ∧
      (crcGood f = true → f.payload = .keepAlive → ∃ t, exec (.flitReceive b d f) s = .next t ∧
        t.link b d = { l with lastRx := g } ∧ t.link (farOf b d) d = { o with wire := w }) ∧
      ∀ x, crcGood { f with crc := x } = false → asks (.flitReceive b d { f with crc := x })) ∧
    ((g - l.lastRx).toNat < 2 ^ 14 → f.dest.toNat ≠ b.val → crcGood f = true → f.payload ≠ .keepAlive →
      ∀ out, (s.brick b).relay f.dest = some out → (s.link b out).state = .up →
        ∃ t, exec (.flitReceive b d f) s = .next t ∧ (t.link b out).wire = (s.link b out).wire ++ [f] ∧
          (t.link b out).lastTx = g ∧
          (t.link b d).rx = l.rx ∧ (t.link b d).rxSeq = l.rxSeq ∧ (t.link (farOf b d) d).wire = w) ∧
    (2 ^ 14 ≤ (g - l.lastRx).toNat → ∃ t, exec (.flitReceive b d f) s = .next t ∧ (t.link b d).state = .failed ∧
      (t.link b d).why.toNat = 2)) ∧
  (∀ f : Flit, crcGood (sealFlit f) = true ∧ (sealFlit f).payload = f.payload ∧ (crcGood f = true ↔ f.crc =
      crc32c (toBytes 2 f.dest.toNat ++ toBytes 4 f.seq.toNat ++ payloadBytes f.payload))) ∧
  (∀ (s : State) (b : Fin 8) (d : Fin 12) (n : BitVec 32), s.power ≠ .off → inModule d = true →
    (s.link b d).acks = [n] →
    let far := farOf b d
    let o := s.link far d
    let carries (l : Link) : Prop := l.state = .up ∨ l.active = true
    ∃ t, exec (.gbcTick b) s = .next t ∧ (t.link b d).acks = [] ∧
      (carries (s.link b d) → carries o →
        (t.link far d).unacked = o.unacked.filter fun f => decide ((f.seq - n).toNat < 2 ^ 31)) ∧
      (¬carries (s.link b d) ∨ ¬carries o → (t.link far d).unacked = o.unacked)) ∧
  (∀ (s : State) (b : Fin 8) (d : Fin 12), (s.link b d).state = .up →
    let l := s.link b d
    let g := (s.brick b).gbc
    (l.askReplay = true → l.unacked ≠ [] → l.replayCount ≠ 8 → l.active = false →
      ∃ t, exec (.replay b d) s = .next t ∧ (t.link b d).wire = l.wire ++ l.unacked ∧
        (t.link b d).unacked = l.unacked ∧ (t.link b d).replayCount = l.replayCount + 1 ∧
        (t.link b d).askReplay = false) ∧
    (l.askReplay = true → l.unacked ≠ [] → l.replayCount = 8 →
      ∃ t, exec (.replay b d) s = .next t ∧ (t.link b d).state = .failed ∧ (t.link b d).why.toNat = 1) ∧
    (2 ^ 10 ≤ (g - l.lastTx).toNat → ∃ f, f.payload = Payload.keepAlive ∧ crcGood f = true ∧
      exec (.keepAlive b d) s = .next (s.setLink b d { l with lastTx := g, wire := l.wire ++ [f] }))) ∧
  (∀ (s : State) (b : Fin 8) (d : Fin 12), s.power ≠ .off → d.val < 3 → b.val < 2 ^ d.val →
    let x := s.brick b
    (d.val ∈ x.syncOwed → exec (.syncFlitSend b d) s = .next
      ((s.setBrick b { x with syncOwed := x.syncOwed.filter (· != d.val) }).sendOn b d (.sync x.gbc))) ∧
    (d.val ∉ x.syncOwed → exec (.syncFlitSend b d) s = .next s) ∧
    ∃ t, exec (.gbcTick b) s = .next t ∧
      (x.gbc.toNat / 2 ^ 12 ≠ (t.brick b).gbc.toNat / 2 ^ 12 → d.val ∈ (t.brick b).syncOwed)) ∧
  (∀ (s : State) (b : Fin 8) (g : Word) (rest : List Payload), b ≠ 0 →
    let d : Fin 12 := Fin.ofNat 12 (Nat.log2 b.val)
    let x := s.brick b
    let flight := (s.link b d).roundTrip / 2
    let age := ((s.brick (farOf b d)).gbc - g).toNat
    (s.link b d).rx = .sync g :: rest →
      (age < flight → exec (.syncFlitReceive b g) s = .next s) ∧
      (flight ≤ age → ∃ t, exec (.syncFlitReceive b g) s = .next t ∧ (t.link b d).rx = rest ∧
        (t.brick b).lastSync = x.gbc ∧
        let off := (g + BitVec.ofNat 64 flight - x.gbc).toInt
        (age ≤ flight + 1 → (t.brick b).slew = off ∧ (t.brick b).offset = BitVec.ofInt 8 off ∧
          ((t.brick b).lock = true ↔ -2 ≤ off ∧ off ≤ 2)) ∧
        (flight + 1 < age → (t.brick b).slew = x.slew ∧ (t.brick b).offset = x.offset ∧ (t.brick b).lock = x.lock))) ∧
  ∀ (s : State) (b : Fin 8), b ≠ 0 → (s.brick b).inService = true →
    (2 ^ 20 ≤ ((s.brick b).gbc - (s.brick b).lastSync).toNat → ∃ t, exec (.syncLost b) s = .next t ∧
      (t.brick b).inService = false ∧ (t.brick b).lock = false ∧ (t.brick b).lost = true) ∧
    (((s.brick b).gbc - (s.brick b).lastSync).toNat < 2 ^ 20 → exec (.syncLost b) s = .next s)

/-! ### The fleet's registers, and the invariants -/

/-- Allocations, power, clocks, errors, telemetry, the host's window, and every register's write and read (00 R7, 21
R388, R389, R396, 22 R403, R413, 23 R427, 24 R434, 25 R443 to R452): what each leaves of the fields that it names.
A thermal trip takes every context of the brick with it. The clocks that firmware gives, and what a power loss leaves of
a flash copy that was being written, are free values (log entry 4). An image that is loaded again is checked against
its certificate anew (19 R370).
Where the spec leaves a reading open, the model's choice is that of log entries 2, 13, 17, 27, 30, 32, 34 and 35. -/
def Obligations.FleetRegisters : Prop :=
  (∀ s : State, s.hostUp = true →
    (∀ q (v : Word), ∃ t, exec (.allocationWrite q v) s = .next t ∧
      (t.queue q).alloc.toNat = v.toNat % 2 ^ 13 + v.toNat / 2 ^ 16 % 2 ^ 5 * 2 ^ 16 ∧ t.mem = s.mem) ∧
    ((s.power = .on → s.atRest = true → ∃ t, exec .standby s = .next t ∧ t.power = .standby ∧ t.mem = s.mem) ∧
      (s.atRest = false → exec .standby s = .next s) ∧
      (s.power = .standby → exec .standbyExit s = .next { s with power := .on })) ∧
    (∀ v : Word, ∃ t, exec (.powerCap v) s = .next t ∧
      t.powercap.toNat = min 2400 (max 600 (v.toNat % 2 ^ 12)) ∧ 8 ≤ t.modClock ∧ t.modClock ≤ 32 ∧
      (∀ b, (s.brick b).throttle = none → (t.brick b).clock = t.modClock) ∧ t.mem = s.mem) ∧
    (∀ b, let x := s.brick b
      (x.throttle = none → ∃ t, exec (.thermalThrottle b) s = .next t ∧ (t.brick b).throttle = some x.gbc ∧
        (t.brick b).clock ≤ x.clock ∧ (8 < s.modClock → (t.brick b).clock < s.modClock)) ∧
      (∀ g, x.throttle = some g → ∃ t, exec (.thermalThrottleEnd b) s = .next t ∧ (t.brick b).throttle = none ∧
        (t.brick b).clock = s.modClock) ∧
      (x.inService = true → ∃ t, exec (.thermalTrip b) s = .next t ∧ (t.brick b).inService = false ∧
        ∀ q k, (s.ctx b q).run.over = false → s.kernel (s.ctx b q).kernel = some k → (b, q) ∈ k.seats →
          (t.ctx b q).run = .killed) ∧
      (2 ^ 36 ≤ (x.gbc - x.lastDelta).toNat → ∃ t, exec (.telemetryDelta b) s = .next t ∧
        (t.brick b).telDelta = [] ∧ (t.brick b).lastDelta = x.gbc ∧ t.flashCopy = !s.flashCopy ∧ t.flashWriting = true ∧
        t.telLifeOld = s.telLife) ∧
      (∀ n : Int, x.gbc.toNat % 2 ^ 24 = 0 → ∃ t, exec (.temperatureSample b n) s = .next t ∧
        (t.brick b).temperature = n) ∧
      (∀ p, exec (.correctedError b p) s =
        .next (s.tel b (eccCount p).1 (eccCount p).2.1 (eccCount p).2.2 1)) ∧
      (∀ q p, (s.ctx b q).run.over = false → ∀ k, s.kernel (s.ctx b q).kernel = some k → (b, q) ∈ k.seats →
        ∃ t, exec (.uncorrectableError b (.context q p)) s = .next t ∧ (t.ctx b q).run = .killed)) ∧
    (∀ v : Word, (recordSize (v.toNat % 256) (v.toNat / 2 ^ 11 % 2 ^ 9) = none → ∃ t,
        exec (.telemetrySelect v) s = .next t ∧ t.telBad = true ∧ t.telWin = s.telWin) ∧
      (∀ n, recordSize (v.toNat % 256) (v.toNat / 2 ^ 11 % 2 ^ 9) = some n → ∃ t,
        exec (.telemetrySelect v) s = .next t ∧ t.telReady = true ∧ t.telWin.length = n)) ∧
    (∃ t, exec .telemetryClear s = .next t ∧ t.telPeriod = [] ∧ t.telLife = s.telLife) ∧
    (∃ t, exec .powerLoss s = .next t ∧ t.power = .off ∧ t.mem = [] ∧ t.flashOwner = s.flashOwner ∧
      t.flashSlots = s.flashSlots ∧ t.storeCtr = s.storeCtr ∧ t.bootcnt = s.bootcnt ∧ t.log = [] ∧
      t.telLife = s.telLife ∧ t.telLifeOld = s.telLifeOld ∧
      (s.flashWriting = false → t.flashGood = s.flashGood)) ∧
    (∀ (a : BitVec 38) (l : List Byte), exec (.hostMemoryAccess a none) s = .next s ∧
      let l' := l.take (2 ^ 38 - a.toNat)
      (s.power = .on → (∀ i, i < l'.length → s.physOk (s.winbase.toNat + a.toNat + i) = true) →
        exec (.hostMemoryAccess a (some l)) s =
          .next { s with mem := setBytes s.mem (s.winbase.toNat + a.toNat) l' }))) ∧
  (∀ s : State, s.hostUp = true → ∀ (q : Fin 64) (v : Word),
    let u := s.queue q
    let area : BitVec 52 := BitVec.ofNat 52 (v.toNat / 2 ^ 12 % 2 ^ 40 * 4096)
    let w (r : PlainReg) := exec (.registerWrite r v) s
    let bar (o : Nat) := exec (.registerWrite (.bar0 (BitVec.ofNat 20 o)) v) s
    let u' : Queue := { u with
      log2n := v.truncate 4, en := v.getLsbD 4, ien := v.getLsbD 5
      asid := if u.en then u.asid else BitVec.ofNat 16 (v.toNat / 2 ^ 16 % 2 ^ 16) }
    w .winbase =
      .next ({ s with winbase := BitVec.ofNat 64 (v.toNat / 2 ^ 38 % 2 ^ 14 * 2 ^ 38) }.logWrite 0xFFFF 0 v) ∧
    (u.en = true → w (.qcfg q) = .next (s.setQueue q u') ∧ w (.qlbase q) = .next s ∧ w (.qcbase q) = .next s) ∧
    (u.en = false → w (.qcfg q) = .next ((s.setQueue q u').logWrite q.val (0x8000 + 64 * q.val) v) ∧
      w (.qlbase q) = .next (s.setQueue q { u with lbase := area }) ∧
      w (.qcbase q) = .next (s.setQueue q { u with cbase := area })) ∧
    w (.qstat q) = .next (s.setQueue q { u with
      badTail := u.badTail && !v.getLsbD 0, badChead := u.badChead && !v.getLsbD 1 }) ∧
    w .attst = .next { s with attDone := s.attDone && !v.getLsbD 0 } ∧
    w .telst = .next { s with telReady := s.telReady && !v.getLsbD 0, telBad := s.telBad && !v.getLsbD 1 } ∧
    (∀ o : BitVec 20, o.toNat % 8 ≠ 0 → exec (.registerWrite (.bar0 o) v) s = .next s ∧
      (o.toNat < 0x1000 → s.readBar0 o.toNat = 0)) ∧
    bar (0x800 + 8 * q.val) = exec (.allocationWrite q v) s ∧
    bar 0x2008 = exec (.logPageSelect v) s ∧ bar 0x2010 = exec (.logAck v) s ∧
    (v.getLsbD 0 = true → bar 0x2018 = exec .sealreq s ∧ bar 0x5010 = exec .telemetryClear s) ∧
    (v.getLsbD 0 = false → bar 0x2018 = .next s ∧ bar 0x5010 = .next s) ∧
    bar 0x5000 = exec (.telemetrySelect v) s ∧ bar 0x5008 = w .telst ∧
    bar (0x8000 + 64 * q.val) = w (.qcfg q) ∧ bar (0x8008 + 64 * q.val) = w (.qlbase q) ∧
    bar (0x8010 + 64 * q.val) = w (.qcbase q) ∧
    bar (0x10000 + 4096 * q.val) = exec (.doorbell q (v.truncate 16)) s ∧
    bar (0x10018 + 4096 * q.val) = exec (.cheadWrite q (v.truncate 16)) s ∧
    bar (0x10020 + 4096 * q.val) = w (.qstat q) ∧
    bar 0 = .next s ∧ bar 0x1000 = .next s ∧ bar 0x2000 = .next s ∧ bar (0x10008 + 4096 * q.val) = .next s ∧
    bar (0x10010 + 4096 * q.val) = .next s ∧
    let f (p : Bool) (i : Nat) := if p then 2 ^ i else 0
    let rd (r : ReadReg) := (s.readReg r).toNat
    rd (.qcfg q) = u.log2n.toNat + f u.en 4 + f u.ien 5 + u.asid.toNat * 2 ^ 16 ∧
    rd (.qlbase q) = u.lbase.toNat ∧ rd (.qcbase q) = u.cbase.toNat ∧ rd (.qtail q) = u.tail.toNat ∧
    rd (.qhead q) = u.headIx.toNat ∧ rd (.ctail q) = u.ctail.toNat ∧ rd (.chead q) = u.chead.toNat ∧
    rd (.qstat q) = f u.badTail 0 + f u.badChead 1 + f u.waiting 2 + f u.en 3 ∧ rd (.alloc q) = u.alloc.toNat ∧
    rd .winbase = s.winbase.toNat ∧ rd .attst = f s.attDone 0 ∧
    rd .logst = s.unack % 2 ^ 32 + f s.logFull 32 + f s.logHold 33 ∧ rd .logpage = s.logPage.toNat ∧
    rd .logack = s.logAck.toNat ∧ rd .pwrcap = s.powercap.toNat ∧ rd .telsel = s.telSel.toNat ∧
    rd .telst = f s.telReady 0 + f s.telBad 1 ∧
    s.readBar0 0x1000 = s.readReg .bootst ∧ s.readBar0 0x2000 = s.readReg .logst ∧
    s.readBar0 0x2010 = s.readReg .logack ∧ s.readBar0 0x2018 = 0 ∧ s.readBar0 0x5010 = 0 ∧
    s.readBar0 (0x800 + 8 * q.val) = s.readReg (.alloc q) ∧
    s.readBar0 (0x8000 + 64 * q.val) = s.readReg (.qcfg q) ∧
    s.readBar0 (0x10000 + 4096 * q.val) = s.readReg (.qtail q) ∧
    s.readBar0 (0x10020 + 4096 * q.val) = s.readReg (.qstat q) ∧ s.readBar0 (0x10028 + 4096 * q.val) = 0) ∧
  (∀ s : State, s.hostUp = false → ∀ (q : Fin 64) (v : Word),
    exec (.registerWrite .winbase v) s = .next s ∧ exec (.registerWrite (.qcfg q) v) s = .next s ∧
    s.readReg (.qcfg q) = 0 ∧ s.readReg .winbase = 0 ∧ s.readBar0 0x1000 = BitVec.ofNat 64 s.bootst.toNat) ∧
  (∀ (s : State) (b : Fin 8), s.stewardUp b = true → ∀ v : Word,
    let x := s.brick b
    let w (r : PlainReg) := exec (.registerWrite r v) s
    (∀ j : Fin 4, ∃ t, w (.seattab b j) = .next t ∧
      ∀ k : Fin 4, (t.brick b).staged.toNat / 2 ^ (64 * k.val) % 2 ^ 64 =
        if k = j then v.toNat else x.staged.toNat / 2 ^ (64 * k.val) % 2 ^ 64) ∧
    w (.seatstat b) = .next (s.setBrick b { x with seatBad := x.seatBad && !v.getLsbD 0 }) ∧
    (∀ q : Fin 4, let y := s.seat b q
      w (.ctxst b q) = .next (s.setSeat b q { y with done := y.done && !v.getLsbD 1 }) ∧
      w (.fbud b q) = .next (s.setCtx b q { y.ctx with fbud := v.truncate 32 }) ∧
      (v.toNat % 8 = 1 → w (.ctxctl b q) = exec (.lightSave b q v) s) ∧
      (v.toNat % 8 = 2 → w (.ctxctl b q) = exec (.heavySave b q v) s) ∧
      (v.toNat % 8 = 3 → w (.ctxctl b q) = exec (.contextRestore b q v) s) ∧
      (let s1 := s.setSeat b q { y with area := BitVec.ofNat 52 (v.toNat / 2 ^ 12 % 2 ^ 40 * 4096) }
       (v.toNat % 8 = 4 → w (.ctxctl b q) = exec (.contextRelease b q) s1) ∧
       (v.toNat % 8 ∉ [1, 2, 3, 4] → s.power = .on → y.busy = false →
         w (.ctxctl b q) = .next (s1.setSeat b q { s1.seat b q with done := false, err := 8 })) ∧
       (v.toNat % 8 ∉ [1, 2, 3, 4] → y.busy = true → w (.ctxctl b q) = .next s1)) ∧
      (let c := y.ctx
       let field (lo n : Nat) := v.toNat / 2 ^ lo % 2 ^ n * 2 ^ lo
       (c.run = .empty ∨ (c.run = .restored ∧ y.armedReg = false) →
         w (.setup b q .crd) = .next (s.setCtx b q { c with crd := BitVec.ofNat 64 (field 0 28) }) ∧
         w (.setup b q .scmask) = .next (s.setCtx b q { c with scmask := BitVec.ofNat 64 (field 0 12 + field 16 12) }) ∧
         w (.setup b q .dimmap) = .next (s.setCtx b q { c with dimmap := BitVec.ofNat 64 (field 0 52) }) ∧
         w (.setup b q .gbcs) = .next (s.setCtx b q { c with gbcs := v })) ∧
       (c.run = .empty →
         w (.setup b q .seatf) = .next (s.setCtx b q { c with seatf := BitVec.ofNat 64 (field 0 4) }) ∧
         w (.setup b q .asgen) = .next (s.setCtx b q { c with asgen := BitVec.ofNat 64 (field 0 32) }) ∧
         w (.setup b q .qi) = .next (s.setCtx b q { c with qi := v.truncate 32 }) ∧
         w (.setup b q .entry) = .next (s.setCtx b q { c with pc := v.toNat % 2 ^ 21 }) ∧
         (∀ k : Fin 8, w (.setup b q (.param k)) =
           .next (s.setCtx b q { c with x := c.x.setIfInBounds (k.val + 1) v })) ∧
         ∀ k, s.kernel v.toNat = some k →
           (s.certStands k.image = true →
             w (.setup b q .image) = .next (s.setCtx b q { c.loadImage k.image with kernel := k.id })) ∧
           (s.certStands k.image = false → ∃ t, w (.setup b q .image) = .next t ∧ t.bricks = s.bricks)) ∧
       (c.run ≠ .empty → w (.setup b q .seatf) = .next s ∧ w (.setup b q .asgen) = .next s ∧
         w (.setup b q .qi) = .next s ∧ w (.setup b q .entry) = .next s ∧
         (∀ k, w (.setup b q (.param k)) = .next s) ∧ w (.setup b q .image) = .next s ∧
         (c.run ≠ .restored ∨ y.armedReg = true → w (.setup b q .crd) = .next s ∧ w (.setup b q .scmask) = .next s ∧
           w (.setup b q .dimmap) = .next s ∧ w (.setup b q .gbcs) = .next s)))) ∧
    w (.tlbinv b) = .next (s.setBrick b { x with tlbinv := BitVec.ofNat 64 (v.toNat % 2 ^ 58) }) ∧
    w (.tlbcnt b) = .next (s.setBrick b { x with tlbcnt := v.truncate 32 }) ∧
    w (.tlbst b) = .next (s.setBrick b { x with tlbDone := x.tlbDone && !v.getLsbD 0 }) ∧
    w (.genst b) = .next (s.setBrick b { x with genDone := x.genDone && !v.getLsbD 0 }) ∧
    (∃ t, w (.scrubst b) = .next t ∧ ∀ k, (t.brick b).quarters.get k =
      if x.quarters.get k = .failed ∧ v.getLsbD (8 + k.val) = true then .dirty else x.quarters.get k) ∧
    (∀ j : Fin 6, w (.mrext b j) = .next (s.setBrick b { x with mrext := x.mrext.set j.val v })) ∧
    w (.logtype b) = .next (s.setBrick b { x with logtype := v.truncate 16 }) ∧
    (∀ j : Fin 12, w (.logpay b j) = .next (s.setBrick b { x with logpay := x.logpay.set j.val v })) ∧
    w (.logast b) = .next (s.setBrick b { x with
      logDone := x.logDone && !v.getLsbD 0, logRefused := x.logRefused && !v.getLsbD 1 }) ∧
    w (.gsync b) = .next (s.setBrick b { x with lost := x.lost && !v.getLsbD 5 }) ∧
    (let e : Relay := { dest := v.truncate 12, out := BitVec.ofNat 4 (v.toNat / 2 ^ 12 % 16), en := v.getLsbD 16 }
     ∀ j : Fin 16, w (.rly b j) = .next (s.setBrick b { x with rly := x.rly.set j.val e })) ∧
    ∀ d : Fin 12, let l := s.link b d
      w (.lnkerr b d) = .next (s.setLink b d { l with
        crcErr := v.truncate 32, replays := BitVec.ofNat 32 (v.toNat / 2 ^ 32 % 2 ^ 32) }) ∧
      let s1 := s.setLink b d { l with relayDim := v.truncate 4 }
      (v.getLsbD 4 = true → w (.detctl b d) = exec (.detourOpen b d v) s1) ∧
      (v.getLsbD 4 = false → v.getLsbD 5 = true → w (.detctl b d) = exec (.detourClose b d) s1) ∧
      (v.getLsbD 4 = false → v.getLsbD 5 = false → w (.detctl b d) = .next s1)) ∧
  (∀ (s : State) (b : Fin 8), s.stewardUp b = false → ∀ v : Word, ∀ r ∈ ([.seatstat b, .tlbinv b, .tlbcnt b, .tlbst b,
    .genst b, .scrubst b, .logtype b, .logast b, .gsync b] : List PlainReg), exec (.registerWrite r v) s = .next s) ∧
  ∀ (s : State) (b : Fin 8),
    let x := s.brick b
    let f (p : Bool) (i : Nat) := if p then 2 ^ i else 0
    let rd (r : ReadReg) := (s.readReg r).toNat
    let quarters (k : Quarter) := f (x.quarters.get 0 == k) 0 + f (x.quarters.get 1 == k) 1 +
      f (x.quarters.get 2 == k) 2 + f (x.quarters.get 3 == k) 3
    (∀ j : Fin 4, rd (.seattab b j) = x.staged.toNat / 2 ^ (64 * j.val) % 2 ^ 64) ∧
    rd (.seatstat b) = f x.seatBad 0 + x.seatWhy.toNat * 2 ∧
    (∀ q : Fin 4, let y := s.seat b q
      rd (.startst b q) = f y.armedReg 0 + f y.runReg 1 + y.cause.toNat * 16 ∧
      rd (.preempt b q) = y.preTarget.toNat + f y.preEn 32 ∧ rd (.ctxctl b q) = y.area.toNat ∧
      rd (.ctxst b q) = f y.busy 0 + f y.done 1 + y.err.toNat * 4 + f y.ctx.run.isStopped 6 + f y.ctx.run.inTrap 7 ∧
      rd (.start b q) = 0) ∧
    rd (.tlbinv b) = x.tlbinv.toNat ∧ rd (.tlbcnt b) = x.tlbcnt.toNat ∧ rd (.tlbst b) = f x.tlbDone 0 ∧
    rd (.genadv b) = x.genadvAsid.toNat ∧ rd (.genst b) = f x.genDone 0 + x.genOut.toNat * 2 ^ 16 ∧
    rd (.scrubst b) = quarters .clean + quarters .busy * 16 + quarters .failed * 256 ∧
    rd .bootst = s.bootst.toNat ∧ (∀ j, rd (.mrext b j) = (x.mrext.get j).toNat) ∧
    rd (.logtype b) = x.logtype.toNat ∧ (∀ j, rd (.logpay b j) = (x.logpay.get j).toNat) ∧
    rd (.logast b) = f x.logDone 0 + f x.logRefused 1 ∧
    rd (.gsync b) = (if b = 0 then 15 else Nat.log2 b.val) + f x.lock 4 + f x.lost 5 + x.offset.toNat * 64 ∧
    (∀ j, rd (.rly b j) = (x.rly.get j).dest.toNat + (x.rly.get j).out.toNat * 2 ^ 12 + f (x.rly.get j).en 16) ∧
    (∀ d : Fin 12, let l := s.link b d
      let tier := if d.val < 3 then 0 else if d.val < 6 then 1 else 2
      rd (.lnkst b d) = l.state.code + tier * 64 + l.why.toNat * 256 + l.peer.toNat * 4096 ∧
      rd (.lnkerr b d) = l.crcErr.toNat + l.replays.toNat * 2 ^ 32 ∧
      rd (.detctl b d) = l.relayDim.toNat + f l.active 6 ∧ rd (.lnkctl b d) = 0) ∧
    (∀ r ∈ ([.seatapply b, .tlbgo b, .mrgo b, .loggo b, .sealreq, .telclr, .pwrctl] : List ReadReg), rd r = 0) ∧
    [LinkState.absent, .down, .training, .up, .failed, .detour].map LinkState.code = [0, 1, 2, 3, 4, 5] ∧
    ∀ r : Run, (r.isStopped = true ↔ r = .stopped ∨ ∃ h g, r = .saving h g none) ∧
      (r.inTrap = true ↔ (∃ g, r = .service g) ∨ (∃ g, r = .saved g) ∨ ∃ h g g', r = .saving h g (some g'))

/-- Every step keeps the invariants: each memory in its canonical form, every seat table in force as 01 R39 and 21 R396
allow, and the power cap within the limits of 25 R446. (The canonical form, also of accumulator banks and tags, is the
model's own, log entry 2.) -/
def Obligations.StepKeepsInvariants : Prop :=
  ∀ s t : State, step s = .next t →
    (s.MemoriesCanonical → t.MemoriesCanonical) ∧ (s.SeatTablesLegal → t.SeatTablesLegal) ∧
      (s.CapInRange → t.CapInRange)

/-- 23 R426: between two boots the audit log only grows: entries are numbered on, and each one that the ring of 65,536
still holds reads as it did; only a loss of power or a boot begins it anew. -/
def Obligations.AuditLogOnlyGrows : Prop :=
  ∀ s t : State, step s = .next t → s.LogKept t ∨ t.power = .off ∨ t.bootcnt = s.bootcnt + 1

/-- The state after reset: the invariants hold; every quarter is dirty (22 R415), the clocks are nominal (00 R2), queues
hold the reset values of 21 R389 and 25 R443, a context the values of 01 R42, the audit log's chain begins as 23 R426
has it, and no seat holds a context. -/
def Obligations.ResetState : Prop :=
  let s := State.reset
  s.MemoriesCanonical ∧ s.SeatTablesLegal ∧ s.CapInRange ∧
  s.logHash = sha384 (toBytes 16 Config.devid.toNat ++ toBytes 8 0) ∧
  (∀ b, (s.brick b).clock = 32 ∧ ∀ k, (s.brick b).quarters.get k = .dirty) ∧
  (∀ q, (s.queue q).en = false ∧ (s.queue q).tail = 0 ∧ (s.queue q).headIx = 0 ∧ (s.queue q).alloc = 0x180000#64) ∧
  ∀ b q, s.holds b q = false ∧
    let c := s.ctx b q
    (∀ r, c.x.get r = 0) ∧ (∀ r, c.v.get r = 0) ∧ (∀ r, c.p.get r = if r = 0 then BitVec.allOnes 512 else 0) ∧
      (∀ r, c.tok.get r = .free) ∧ (∀ r, c.limit.get r = BitVec.allOnes 48) ∧ c.dmode = .off ∧ c.cbc = 0 ∧
      c.rrb = 0 ∧ c.lc = 0 ∧ c.wcol = false ∧ c.timed = [] ∧ c.lset = [] ∧ c.ops = []
end

