-- ==== Sys2Proof/Laws/Slots.lean ====
section
/-! SUPPORT. Everything that the course of a slot can do (Machine/Ops.lean): what `finishSlot` and `slotStep`
answer, and how the parts of an issued context read. -/

namespace Sys2Proof.Machine

/-! ### The parts of an issued context -/

@[simp] theorem Context.sched_cbc (c : Context) (k d : Nat) (e : Eff) : (c.sched k d e).cbc = c.cbc := rfl
@[simp] theorem Context.sched_halting (c : Context) (k d : Nat) (e : Eff) :
    (c.sched k d e).halting = c.halting := rfl
@[simp] theorem Context.sched_lset (c : Context) (k d : Nat) (e : Eff) : (c.sched k d e).lset = c.lset := rfl
@[simp] theorem Context.sched_heldAt (c : Context) (k d : Nat) (e : Eff) (x : Nat) :
    (c.sched k d e).heldAt x = c.heldAt x := rfl
@[simp] theorem Context.enter_cbc (c : Context) (k l : Nat) : (c.enter k l).cbc = c.cbc := rfl
@[simp] theorem Context.enter_lset (c : Context) (k l : Nat) :
    (c.enter k l).lset = { issue := c.cbc, slot := k, last := l, copy := none } :: c.lset := rfl
@[simp] theorem Context.result_cbc (c : Context) (k : Nat) (d : Fin 32) (n : Nat) (v : Word) :
    (c.result k d n v).cbc = c.cbc := rfl
@[simp] theorem Context.result_lset (c : Context) (k : Nat) (d : Fin 32) (n : Nat) (v : Word) :
    (c.result k d n v).lset =
      { issue := c.cbc, slot := k, last := c.cbc + n - 1, copy := none } :: c.lset := rfl

theorem Context.heldAt_congr {c c' : Context} (h : c'.lset = c.lset) (x : Nat) :
    c'.heldAt x = c.heldAt x := by simp [Context.heldAt, h]

/-- An entry that its own beat makes raises the count of entries held when it outlasts the beat. -/
theorem Context.heldAt_cons {c c' : Context} {e : Entry} (h : c'.lset = e :: c.lset) (hi : e.issue = c.cbc) :
    c'.heldAt c.cbc = c.heldAt c.cbc + (if c.cbc < e.last then 1 else 0) := by
  simp only [Context.heldAt, h, List.filter_cons, hi]
  by_cases hl : c.cbc < e.last <;> simp [hl]

/-! ### `finishSlot` and `slotStep` -/

/-- A slot that holds no new entry is finished. -/
theorem State.finishSlot_same {s : State} {b : Fin 8} {q : Fin 4} {k : Fin 8} {c c' : Context}
    (hl : c'.lset = c.lset) (hf : c.Fits c.cbc) : s.finishSlot b q k c c' = s.issued b q k c' := by
  have h := hf.room
  simp only [Nat.lt_irrefl, if_false, Nat.add_zero] at h
  simp [State.finishSlot, hl, Context.heldAt_congr hl, Nat.not_lt.mpr h, State.issued]

/-- A slot that adds one entry is finished. -/
theorem State.finishSlot_enter {s : State} {b : Fin 8} {q : Fin 4} {k : Fin 8} {c c' : Context} {e : Entry}
    (hl : c'.lset = e :: c.lset) (hi : e.issue = c.cbc) (hf : c.Fits e.last) :
    s.finishSlot b q k c c' = s.issued b q k c' := by
  have h := hf.room
  have hn : ¬ (c.halting = true ∧ c.cbc < e.last) := fun ⟨a, b⟩ => absurd (hf.ends a) (Nat.not_le.mpr b)
  have h96 : ¬ 96 < c'.heldAt c.cbc := by rw [Context.heldAt_cons hl hi]; omega
  by_cases hh : c.halting = true
  · have : ¬ c.cbc < e.last := fun x => hn ⟨hh, x⟩
    simp [State.finishSlot, hl, hh, this, h96, State.issued]
  · simp only [Bool.not_eq_true] at hh
    simp [State.finishSlot, hl, hh, h96, State.issued]

/-- A slot that the cursor's context issues does what its operation answers. -/
theorem State.slotStep_issues {s : State} {b : Fin 8} {q : Fin 4} {k : Fin 8} (h : s.Issues b q k)
    (f : State → Fin 8 → Fin 8 → Context → Issue) :
    s.slotStep f = match f s b k (s.ctx b q) with
      | .act c' => s.finishSlot b q k (s.ctx b q) c'
      | .trap code cause info => s.slotTrap b q k.val code cause info
      | .trapWith c' code cause info => (s.setCtx b q c').slotTrap b q k.val code cause info
      | .wait => { s.setCtx b q { s.ctx b q with phase := .split k } with cur := none } := by
  have hp := h.phase
  unfold State.slotStep
  rw [h.cur]
  dsimp only
  rw [hp]
  all_goals rfl

/-- Where no bundle is issuing, a slot instruction changes nothing. -/
theorem State.slotStep_none {s : State} (h : s.cur = none) (f : State → Fin 8 → Fin 8 → Context → Issue) :
    s.slotStep f = s := by simp [State.slotStep, h]

/-- A slot operation that acts and adds no entry. -/
theorem slotOut_same {s : State} {b : Fin 8} {q : Fin 4} {k : Fin 8} (h : s.Issues b q k)
    {f : State → Fin 8 → Fin 8 → Context → Issue} {c' : Context}
    (hf : f s b k (s.ctx b q) = .act c') (hl : c'.lset = (s.ctx b q).lset)
    (fits : (s.ctx b q).Fits (s.ctx b q).cbc) : slotOut s f = .next (s.issued b q k c') := by
  simp [slotOut, State.slotStep_issues h, hf, State.finishSlot_same hl fits]

/-- A slot operation that acts and adds one entry. -/
theorem slotOut_enter {s : State} {b : Fin 8} {q : Fin 4} {k : Fin 8} (h : s.Issues b q k)
    {f : State → Fin 8 → Fin 8 → Context → Issue} {c' : Context} {e : Entry}
    (hf : f s b k (s.ctx b q) = .act c') (hl : c'.lset = e :: (s.ctx b q).lset)
    (hi : e.issue = (s.ctx b q).cbc) (fits : (s.ctx b q).Fits e.last) :
    slotOut s f = .next (s.issued b q k c') := by
  simp [slotOut, State.slotStep_issues h, hf, State.finishSlot_enter hl hi fits]

/-- A slot operation that raises a fault. -/
theorem slotOut_trap {s : State} {b : Fin 8} {q : Fin 4} {k : Fin 8} (h : s.Issues b q k)
    {f : State → Fin 8 → Fin 8 → Context → Issue} {code cause : Nat} {info : Word}
    (hf : f s b k (s.ctx b q) = .trap code cause info) :
    slotOut s f = .next (s.slotTrap b q k.val code cause info) := by
  simp [slotOut, State.slotStep_issues h, hf]

/-- A scalar result of latency `n`. -/
theorem scalarOp_next {s : State} {b : Fin 8} {q : Fin 4} {k : Fin 8} {g : Fin 16} (h : s.Issues b q k)
    (hg : (s.ctx b q).view.guard g = true) (d : Fin 32) (n : Nat) (f : Context → Word)
    (fits : (s.ctx b q).Fits ((s.ctx b q).cbc + n - 1)) :
    scalarOp g d n f s = .next (s.issued b q k ((s.ctx b q).result k.val d n (f (s.ctx b q).view))) :=
  slotOut_enter h (by simp [guarded, hg]) rfl rfl fits

/-- A guarded operation whose guard is off. -/
theorem guarded_off {s : State} {b : Fin 8} {q : Fin 4} {k : Fin 8} {g : Fin 16} (h : s.Issues b q k)
    (hg : (s.ctx b q).view.guard g = false) (fits : (s.ctx b q).Fits (s.ctx b q).cbc)
    (f : Context → Context → Nat → Issue) :
    slotOut s (guarded g f) = .next (s.issued b q k (s.ctx b q)) :=
  slotOut_same h (by simp [guarded, hg]) rfl fits

end Sys2Proof.Machine
end

