-- ==== Sys2Proof/Laws/Issue.lean ====
section
/-! SUPPORT. What the operation of a slot can do to its context: it leaves registers and storage alone and adds at
most one landing-set entry (05 R136, R139). One lemma for each shared operation and each shared check. -/

namespace Sys2Proof.Machine

/-- The context `c'` has the registers and storage of `c`, and at most one entry more. -/
structure Context.Grown (c c' : Context) : Prop where
  same : Context.SameStorage c c'
  lset : c'.lset = c.lset ∨ ∃ e, c'.lset = e :: c.lset

/-- An issue whose context, where it acts, has grown in this sense. -/
inductive Issue.Keeps (c : Context) : Issue → Prop
  | act (d : Context) (h : Context.Grown c d) : Issue.Keeps c (.act d)
  | trap (a b : Nat) (w : Word) : Issue.Keeps c (.trap a b w)
  | trapWith (d : Context) (a b : Nat) (w : Word) : Issue.Keeps c (.trapWith d a b w)
  | wait : Issue.Keeps c .wait

theorem Context.SameStorage.refl (c : Context) : Context.SameStorage c c := by constructor <;> rfl

theorem Context.Grown.refl (c : Context) : Context.Grown c c := ⟨.refl c, .inl rfl⟩

theorem Context.Grown.keeps {c d : Context} (h : Context.Grown c d) : Issue.Keeps c (.act d) := .act d h

theorem Issue.keeps_act_self (c : Context) : Issue.Keeps c (.act c) := .act c (.refl c)

theorem Issue.keeps_ite {c : Context} {p : Prop} [Decidable p] {x y : Issue} (hx : Issue.Keeps c x)
    (hy : Issue.Keeps c y) : Issue.Keeps c (if p then x else y) := by
  split
  · exact hx
  · exact hy

theorem guarded_keeps {g : Fin 16} {f : Context → Context → Nat → Issue} {s : State} {b k : Fin 8} {c : Context}
    (h : Issue.Keeps c (f c c.view k.val)) : Issue.Keeps c (guarded g f s b k c) :=
  Issue.keeps_ite h (Issue.keeps_act_self c)

theorem guarded7_keeps {g : Fin 16} {f : State → Fin 8 → Context → Context → Issue} {s : State} {b k : Fin 8}
    {c : Context} (h : Issue.Keeps c (f s b c c.view)) : Issue.Keeps c (guarded7 g f s b k c) :=
  Issue.keeps_ite (Issue.keeps_ite (.trap ..) h) (Issue.keeps_act_self c)

theorem lanewise_keeps {g : Fin 16} {f : PReg → Context → Context → Nat → Issue} {s : State} {b k : Fin 8}
    {c : Context} (h : Issue.Keeps c (f (c.view.pr g) c c.view k.val)) :
    Issue.Keeps c (lanewise g f s b k c) := by
  simp only [lanewise]; exact Issue.keeps_ite (Issue.keeps_act_self c) h

theorem checkLanes_keeps {c d : Context} {l : List (Nat × Nat)} {w : Nat} {base : Word} {o : Bool} {k : Issue}
    (h : Issue.Keeps c k) : Issue.Keeps c (checkLanes d l w base o k) := by
  unfold checkLanes
  split
  · exact .trap ..
  · exact Issue.keeps_ite (.trap ..) h

theorem checkScalar_keeps {c d : Context} {a : Word} {w : Nat} {o : Bool} {k : Issue} (h : Issue.Keeps c k) :
    Issue.Keeps c (checkScalar d a w o k) := Issue.keeps_ite (.trap ..) (Issue.keeps_ite (.trap ..) h)

/-- Registers, storage and entries are those of `c`. -/
structure Context.Same (c d : Context) : Prop where
  same : Context.SameStorage c d
  lset : d.lset = c.lset

theorem Context.Same.refl (c : Context) : Context.Same c c := ⟨.refl c, rfl⟩

theorem Context.Same.grown {c d : Context} (h : Context.Same c d) : Context.Grown c d := ⟨h.same, .inl h.lset⟩

theorem Context.Same.sched {c d : Context} (h : Context.Same c d) (k n : Nat) (e : Eff) :
    Context.Same c (d.sched k n e) :=
  ⟨⟨h.same.place, h.same.files, h.same.counters, h.same.adjoint, h.same.traps, h.same.storage, h.same.flow⟩, h.lset⟩

theorem Context.Same.enter {c d : Context} (h : Context.Same c d) (k n : Nat) : Context.Grown c (d.enter k n) :=
  ⟨⟨h.same.place, h.same.files, h.same.counters, h.same.adjoint, h.same.traps, h.same.storage, h.same.flow⟩,
    .inr ⟨_, congrArg (_ :: ·) h.lset⟩⟩

theorem Context.Same.hold {c d : Context} (h : Context.Same c d) (k : Nat) : Context.Grown c (d.hold k) := h.enter k _

theorem Context.Same.ite {c x y : Context} {p : Prop} [Decidable p] (hx : Context.Same c x) (hy : Context.Same c y) :
    Context.Same c (if p then x else y) := by split <;> assumption

theorem Context.Grown.result (c : Context) (k : Nat) (d : Fin 32) (n : Nat) (v : Word) :
    Context.Grown c (c.result k d n v) := ((Context.Same.refl c).sched k _ _).enter k _

theorem load_keeps (c : Context) (k w off lat : Nat) (taped : Bool) (l : List (Nat × Nat)) (val : Nat → Nat)
    (read : List Nat → Eff) : Issue.Keeps c (.act (c.load k w off lat taped l val read)) := by
  have h : ∀ (p : Bool) (a : Eff), Context.Same c (if p then c else c.sched k (c.cbc + off) a) :=
    fun p a => .ite (.refl c) ((Context.Same.refl c).sched k _ _)
  have pick : ∀ (p : Prop) [Decidable p] (x y : Context), Context.Grown c x → Context.Grown c y →
      Context.Grown c (if p then x else y) := fun p _ x y hx hy => by split <;> assumption
  exact .act _ (pick _ _ _ ((h _ _).enter k _) (((h _ _).sched k _ _).enter k _))

theorem ordinary_keeps (c : Context) (k d n : Nat) (e : Eff) :
    Issue.Keeps c (.act ((c.sched k d e).enter k n)) := .act _ (((Context.Same.refl c).sched k d e).enter k n)

theorem store_keeps (c : Context) (k w off lat : Nat) (sc : Bool) (l : List (Nat × Nat)) (val : Nat → Nat)
    (dest : List Nat → RevDest) : Issue.Keeps c (c.store k w off lat sc l val dest) := by
  unfold Context.store
  split
  · exact .trap ..
  · exact Issue.keeps_ite (ordinary_keeps ..) (Issue.keeps_ite (Issue.keeps_ite (.trap ..) (ordinary_keeps ..))
      (Issue.keeps_ite (.trap ..) (ordinary_keeps ..)))

theorem checkReads_keeps {c d : Context} {l : List Strm} {k : Issue} (h : Issue.Keeps c k) :
    Issue.Keeps c (checkReads d l k) := by
  unfold checkReads; split
  · exact h
  · split
    · exact .trap ..
    · exact h

theorem checkWrites_keeps {c d : Context} {raw : Bool} {l : List (Nat × Nat)} {k : Issue}
    (h : Issue.Keeps c k) : Issue.Keeps c (checkWrites d raw l k) := by
  unfold checkWrites; split
  · exact h
  · split
    · exact .trap ..
    · split
      · exact .trap ..
      · exact h

theorem checkBanks_keeps {c d : Context} {a : Word} {n : Nat} {k : Issue} (h : Issue.Keeps c k) :
    Issue.Keeps c (checkBanks d a n k) := by
  unfold checkBanks; dsimp only; split
  · exact .trap ..
  · split
    · exact .trap ..
    · exact h

theorem checkTables_keeps {c d : Context} {a n : Nat} {k : Issue} (h : Issue.Keeps c k) :
    Issue.Keeps c (checkTables d a n k) := Issue.keeps_ite (.trap ..) h

theorem groupOf_keeps {c d : Context} {x : Word} {k : Nat → Nat → Issue} (h : ∀ a n, Issue.Keeps c (k a n)) :
    Issue.Keeps c (groupOf d x k) := by
  unfold groupOf; split
  · exact .trap ..
  · split
    · exact .trap ..
    · exact h _ _

theorem popSq_keeps {c d : Context} {u : Bool} {k : Context → BitVec 2048 → Issue}
    (h0 : Issue.Keeps c (k d 0)) (h : ∀ e t, Issue.Keeps c (k { d with sq := t } e)) :
    Issue.Keeps c (popSq d u k) := by
  unfold popSq; split
  · exact h0
  · split
    · exact h _ _
    · exact Issue.keeps_ite .wait (.trap ..)

theorem checkSpan_keeps {c d : Context} {a n m : Nat} {k : Issue} (h : Issue.Keeps c k) :
    Issue.Keeps c (checkSpan d a n m k) := Issue.keeps_ite (.trap ..) (Issue.keeps_ite (.trap ..) h)

theorem checkGlobal_keeps {c : Context} {a : Word} {k : Issue} (h : Issue.Keeps c k) :
    Issue.Keeps c (checkGlobal a k) := Issue.keeps_ite (.trap ..) h

theorem checkLanding_keeps {c d : Context} {t : Bool} {a n : Nat} {k : Issue} (h : Issue.Keeps c k) :
    Issue.Keeps c (checkLanding d t a n k) := by
  unfold checkLanding; split
  · exact .trap ..
  · exact h

theorem checkWindow_keeps {c d : Context} {a n : Nat} {k : Issue} (h : Issue.Keeps c k) :
    Issue.Keeps c (checkWindow d a n k) := by
  unfold checkWindow; split
  · exact .trap ..
  · exact h

theorem checkDims_keeps {c d : Context} {m : Nat} {k : Issue} (h : Issue.Keeps c k) :
    Issue.Keeps c (checkDims d m k) := Issue.keeps_ite (.trap ..) h

theorem checkExchange_keeps {c d : Context} {sw dw : Nat} {t : Bool} {k : Issue} (h : Issue.Keeps c k) :
    Issue.Keeps c (checkExchange d sw dw t k) :=
  checkSpan_keeps (checkSpan_keeps (checkLanding_keeps (Issue.keeps_ite (.trap ..) h)))

theorem nameToken_keeps {c d : Context} {t : Fin 32} {k : Context → Issue} (h : Issue.Keeps c (k d))
    (h' : Issue.Keeps c (k { d with unconsumed := d.unconsumed ||| BitVec.ofNat 32 (2 ^ t.val) })) :
    Issue.Keeps c (nameToken d t k) := by
  unfold nameToken; split
  · exact .trap ..
  · exact h'
  · exact h

theorem dataExchange_keeps {c d : Context} {t : Fin 32} {sw dw : Word} {sb : Bool} {k : Context → Issue}
    (h : Issue.Keeps c (k d))
    (h' : Issue.Keeps c (k { d with unconsumed := d.unconsumed ||| BitVec.ofNat 32 (2 ^ t.val) })) :
    Issue.Keeps c (dataExchange d t sw dw sb k) :=
  nameToken_keeps (Issue.keeps_ite (.trap ..) (Issue.keeps_ite (.trap ..) (checkExchange_keeps h)))
    (Issue.keeps_ite (.trap ..) (Issue.keeps_ite (.trap ..) (checkExchange_keeps h')))

/-- A context that takes an operation keeps its registers, storage and entries. -/
theorem Context.Grown.addOp {c d : Context} (h : Context.Grown c d) (o : Op) : Context.Grown c (d.addOp o) :=
  ⟨⟨h.same.place, h.same.files, h.same.counters, h.same.adjoint, h.same.traps, h.same.storage, h.same.flow⟩, h.lset⟩

theorem Context.Same.goodNow {c d : Context} (h : Context.Same c d) (t : Fin 32) : Context.Grown c (d.goodNow t) :=
  ⟨⟨h.same.place, h.same.files, h.same.counters, h.same.adjoint, h.same.traps, h.same.storage, h.same.flow⟩,
    .inr ⟨_, congrArg (_ :: ·) h.lset⟩⟩

theorem Context.Same.startNow {c d : Context} (h : Context.Same c d) (o : Op) : Context.Grown c (d.startNow o) :=
  ⟨⟨h.same.place, h.same.files, h.same.counters, h.same.adjoint, h.same.traps, h.same.storage, h.same.flow⟩,
    .inr ⟨_, congrArg (_ :: ·) h.lset⟩⟩

/-- An issue whose context's `unconsumed` mask was raised before it. -/
theorem Context.Same.unconsumed (c : Context) (m : BitVec 32) : Context.Same c { c with unconsumed := m } :=
  ⟨by constructor <;> rfl, rfl⟩

theorem startCopy_keeps {c d : Context} (h : Context.Grown c d) (hl : d.lset = c.lset) (kind : OpKind) (t : Fin 32)
    (defer : Fin 64) (a b w : Word) : Issue.Keeps c (startCopy d kind t defer a b w) := by
  have h1 := h.addOp ({ Op.blank d.nextId kind t (d.cbc + defer.val) d.asgen with a := a, b := b, c := w } : Op)
  unfold startCopy
  refine .act _ ?_
  split
  · exact h1
  · exact ⟨⟨h1.same.place, h1.same.files, h1.same.counters, h1.same.adjoint, h1.same.traps, h1.same.storage,
      h1.same.flow⟩, .inr ⟨_, by rw [← hl]; rfl⟩⟩

/-- The steps of a command leave all but the list of effects as it was. -/
theorem command_steps (m : Cmd) (k : Nat) (step : Nat → Eff) :
    ∀ (l : List Nat) (c : Context), ∃ t, l.foldl (fun a j => a.sched k (m.start + j) (step j)) c =
      { c with timed := t }
  | [], c => ⟨c.timed, rfl⟩
  | j :: l, c => by
    obtain ⟨t, h⟩ := command_steps m k step l (c.sched k (m.start + j) (step j))
    exact ⟨t, h⟩

theorem Context.command_eq (c : Context) (k : Nat) (m : Cmd) (n : Nat) (step : Nat → Eff) :
    ∃ t, c.command k m n step =
      { c with timed := t, lset := { issue := c.cbc, slot := k, last := m.complete, copy := none } :: c.lset
               cmds := m :: c.cmds, nextId := c.nextId + 1 } := by
  obtain ⟨t, h⟩ := command_steps m k step (List.range n) c
  exact ⟨t, by simp only [Context.command, h]; rfl⟩

theorem command_keeps {c d : Context} (h : Context.SameStorage c d) (hl : d.lset = c.lset) (k : Nat) (m : Cmd)
    (n : Nat) (step : Nat → Eff) : Issue.Keeps c (.act (d.command k m n step)) := by
  obtain ⟨t, e⟩ := d.command_eq k m n step
  rw [e]
  exact .act _ ⟨⟨h.place, h.files, h.counters, h.adjoint, h.traps, h.storage, h.flow⟩, .inr ⟨_, by simp only [hl]; rfl⟩⟩

theorem consume_keeps (c : Context) (k : Nat) (t : Fin 32) : Issue.Keeps c (consume c k t) := by
  unfold consume
  split
  · exact .act _ ((Context.Same.refl c).hold k)
  · exact .act _ ⟨by constructor <;> rfl, .inr ⟨_, rfl⟩⟩
  · exact .trapWith ..
  · exact Issue.keeps_ite (.trap ..) .wait

theorem takeBranch_keeps {c : Context} {tgt : BitVec 16} {k : Context → Issue}
    (h : Issue.Keeps c (k { c with takenTo := some (BitVec.ofNat 64 (48 * tgt.toNat)) })) :
    Issue.Keeps c (takeBranch c tgt k) := Issue.keeps_ite (.trap ..) h

theorem branchTo_keeps (c : Context) (k : Nat) (t : Word) : Issue.Keeps c (branchTo c k t) :=
  Issue.keeps_ite (.trap ..) (Issue.keeps_ite (.trap ..) (.act _ ⟨by constructor <;> rfl, .inr ⟨_, rfl⟩⟩))

end Sys2Proof.Machine
end

