-- ==== Sys2Proof/Laws/State.lean ====
section
/-! SUPPORT. What each update of the state leaves of each part of it: one small lemma per field and update, so that no
proof unfolds a record update. -/

namespace Sys2Proof.Machine

/-! ### Reading back what was written -/

theorem get_set {α : Type} {n : Nat} (v : Vector α n) (i j : Fin n) (x : α) :
    (v.set i.val x).get j = if j = i then x else v.get j := by
  show (v.set i.val x)[j.val] = if j = i then x else v[j.val]
  rw [Vector.getElem_set]
  by_cases h : j = i
  · simp [h]
  · have : i.val ≠ j.val := fun e => h (Fin.ext e.symm)
    simp [h, this]

theorem State.brick_setBrick (s : State) (b b' : Fin 8) (x : Brick) :
    (s.setBrick b x).brick b' = if b' = b then x else s.brick b' := by
  simp only [State.brick, State.setBrick, get_set]

@[simp] theorem State.brick_setBrick_self (s : State) (b : Fin 8) (x : Brick) : (s.setBrick b x).brick b = x := by
  simp [State.brick_setBrick]

theorem State.brick_setBrick_ne (s : State) {b b' : Fin 8} (x : Brick) (h : b' ≠ b) :
    (s.setBrick b x).brick b' = s.brick b' := by
  simp [State.brick_setBrick, h]

theorem State.brick_setSeat (s : State) (b b' : Fin 8) (q : Fin 4) (x : Seat) :
    (s.setSeat b q x).brick b' =
      if b' = b then { s.brick b with seats := (s.brick b).seats.set q.val x } else s.brick b' := by
  simp only [State.setSeat, State.brick_setBrick]

theorem State.brick_setLink (s : State) (b b' : Fin 8) (d : Fin 12) (l : Link) :
    (s.setLink b d l).brick b' =
      if b' = b then { s.brick b with links := (s.brick b).links.set d.val l } else s.brick b' := by
  simp only [State.setLink, State.brick_setBrick]

theorem State.seat_setSeat (s : State) (b b' : Fin 8) (q q' : Fin 4) (x : Seat) :
    (s.setSeat b q x).seat b' q' = if b' = b ∧ q' = q then x else s.seat b' q' := by
  unfold State.seat
  rw [State.brick_setSeat]
  by_cases hb : b' = b
  · subst hb
    simp only [if_true, true_and, get_set]
  · simp [hb]

@[simp] theorem State.seat_setSeat_self (s : State) (b : Fin 8) (q : Fin 4) (x : Seat) :
    (s.setSeat b q x).seat b q = x := by
  simp [State.seat_setSeat]

theorem State.seat_setSeat_ne (s : State) {b b' : Fin 8} {q q' : Fin 4} (x : Seat) (h : (b', q') ≠ (b, q)) :
    (s.setSeat b q x).seat b' q' = s.seat b' q' := by
  rw [State.seat_setSeat, if_neg]
  rintro ⟨rfl, rfl⟩
  exact h rfl

theorem State.seat_setBrick_ne (s : State) {b b' : Fin 8} (q : Fin 4) (x : Brick) (h : b' ≠ b) :
    (s.setBrick b x).seat b' q = s.seat b' q := by
  simp [State.seat, State.brick_setBrick, h]

/-- A brick that keeps its seats keeps their contexts. -/
theorem State.seat_setBrick (s : State) (b b' : Fin 8) (q : Fin 4) (x : Brick) (h : x.seats = (s.brick b).seats) :
    (s.setBrick b x).seat b' q = s.seat b' q := by
  unfold State.seat
  rw [State.brick_setBrick]
  by_cases hb : b' = b
  · subst hb
    simp [h]
  · simp [hb]

theorem State.ctx_setBrick (s : State) (b b' : Fin 8) (q : Fin 4) (x : Brick) (h : x.seats = (s.brick b).seats) :
    (s.setBrick b x).ctx b' q = s.ctx b' q := by
  simp [State.ctx, State.seat_setBrick s b b' q x h]

@[simp] theorem State.seat_setLink (s : State) (b b' : Fin 8) (q : Fin 4) (d : Fin 12) (l : Link) :
    (s.setLink b d l).seat b' q = s.seat b' q :=
  State.seat_setBrick s b b' q _ rfl

@[simp] theorem State.ctx_setLink (s : State) (b b' : Fin 8) (q : Fin 4) (d : Fin 12) (l : Link) :
    (s.setLink b d l).ctx b' q = s.ctx b' q :=
  State.ctx_setBrick s b b' q _ rfl

theorem State.ctx_setSeat (s : State) (b b' : Fin 8) (q q' : Fin 4) (x : Seat) :
    (s.setSeat b q x).ctx b' q' = if b' = b ∧ q' = q then x.ctx else s.ctx b' q' := by
  unfold State.ctx
  rw [State.seat_setSeat]
  split <;> rfl

theorem State.ctx_setCtx (s : State) (b b' : Fin 8) (q q' : Fin 4) (c : Context) :
    (s.setCtx b q c).ctx b' q' = if b' = b ∧ q' = q then c else s.ctx b' q' := by
  rw [State.setCtx, State.ctx_setSeat]

@[simp] theorem State.ctx_setSeat_self (s : State) (b : Fin 8) (q : Fin 4) (x : Seat) :
    (s.setSeat b q x).ctx b q = x.ctx := by
  simp [State.ctx_setSeat]

@[simp] theorem State.ctx_setCtx_self (s : State) (b : Fin 8) (q : Fin 4) (c : Context) :
    (s.setCtx b q c).ctx b q = c := by
  simp [State.ctx_setCtx]

theorem State.ctx_setCtx_ne (s : State) {b b' : Fin 8} {q q' : Fin 4} (c : Context) (h : (b', q') ≠ (b, q)) :
    (s.setCtx b q c).ctx b' q' = s.ctx b' q' := by
  rw [State.ctx_setCtx, if_neg]
  rintro ⟨rfl, rfl⟩
  exact h rfl

@[simp] theorem State.link_setSeat (s : State) (b b' : Fin 8) (q : Fin 4) (d : Fin 12) (x : Seat) :
    (s.setSeat b q x).link b' d = s.link b' d := by
  unfold State.link
  rw [State.brick_setSeat]
  split
  · rename_i h
    subst h
    rfl
  · rfl

@[simp] theorem State.link_setCtx (s : State) (b b' : Fin 8) (q : Fin 4) (d : Fin 12) (c : Context) :
    (s.setCtx b q c).link b' d = s.link b' d :=
  State.link_setSeat s b b' q d _

theorem State.link_setLink (s : State) (b b' : Fin 8) (d d' : Fin 12) (l : Link) :
    (s.setLink b d l).link b' d' = if b' = b ∧ d' = d then l else s.link b' d' := by
  unfold State.link
  rw [State.brick_setLink]
  by_cases hb : b' = b
  · subst hb
    simp only [if_true, true_and, get_set]
  · simp [hb]

@[simp] theorem State.link_setLink_self (s : State) (b : Fin 8) (d : Fin 12) (l : Link) :
    (s.setLink b d l).link b d = l := by
  simp [State.link_setLink]

theorem State.queue_setQueue (s : State) (q q' : Fin 64) (u : Queue) :
    (s.setQueue q u).queue q' = if q' = q then u else s.queue q' := by
  simp only [State.queue, State.setQueue, get_set]

@[simp] theorem State.queue_setQueue_self (s : State) (q : Fin 64) (u : Queue) : (s.setQueue q u).queue q = u := by
  simp [State.queue_setQueue]

/-! ### Whole parts -/

@[simp] theorem State.brick_setQueue (s : State) (q : Fin 64) (u : Queue) (b : Fin 8) :
    (s.setQueue q u).brick b = s.brick b := rfl
@[simp] theorem State.ctx_setQueue (s : State) (q : Fin 64) (u : Queue) (b : Fin 8) (i : Fin 4) :
    (s.setQueue q u).ctx b i = s.ctx b i := rfl
@[simp] theorem State.brick_setKernel (s : State) (k : Kernel) (b : Fin 8) : (s.setKernel k).brick b = s.brick b := rfl
@[simp] theorem State.ctx_setKernel (s : State) (k : Kernel) (b : Fin 8) (q : Fin 4) :
    (s.setKernel k).ctx b q = s.ctx b q := rfl
@[simp] theorem State.queue_setKernel (s : State) (k : Kernel) (q : Fin 64) : (s.setKernel k).queue q = s.queue q := rfl
@[simp] theorem State.queue_setBrick (s : State) (b : Fin 8) (x : Brick) (q : Fin 64) :
    (s.setBrick b x).queue q = s.queue q := rfl
@[simp] theorem State.queue_setSeat (s : State) (b : Fin 8) (q : Fin 4) (x : Seat) (i : Fin 64) :
    (s.setSeat b q x).queue i = s.queue i := rfl
@[simp] theorem State.queue_setCtx (s : State) (b : Fin 8) (q : Fin 4) (c : Context) (i : Fin 64) :
    (s.setCtx b q c).queue i = s.queue i := rfl
@[simp] theorem State.kernel_setBrick (s : State) (b : Fin 8) (x : Brick) (id : Nat) :
    (s.setBrick b x).kernel id = s.kernel id := rfl
@[simp] theorem State.kernel_setSeat (s : State) (b : Fin 8) (q : Fin 4) (x : Seat) (id : Nat) :
    (s.setSeat b q x).kernel id = s.kernel id := rfl
@[simp] theorem State.kernel_setCtx (s : State) (b : Fin 8) (q : Fin 4) (c : Context) (id : Nat) :
    (s.setCtx b q c).kernel id = s.kernel id := rfl
@[simp] theorem State.kernel_setLink (s : State) (b : Fin 8) (d : Fin 12) (l : Link) (id : Nat) :
    (s.setLink b d l).kernel id = s.kernel id := rfl
@[simp] theorem State.kernel_setQueue (s : State) (q : Fin 64) (u : Queue) (id : Nat) :
    (s.setQueue q u).kernel id = s.kernel id := rfl

/-! ### Fields under `setBrick` -/

@[simp] theorem State.setBrick_power (s : State) (b : Fin 8) (x : Brick) : (s.setBrick b x).power = s.power := rfl
@[simp] theorem State.setBrick_mem (s : State) (b : Fin 8) (x : Brick) : (s.setBrick b x).mem = s.mem := rfl
@[simp] theorem State.setBrick_kernels (s : State) (b : Fin 8) (x : Brick) : (s.setBrick b x).kernels = s.kernels := rfl
@[simp] theorem State.setBrick_nextKernel (s : State) (b : Fin 8) (x : Brick) : (s.setBrick b x).nextKernel = s.nextKernel := rfl
@[simp] theorem State.setBrick_winbase (s : State) (b : Fin 8) (x : Brick) : (s.setBrick b x).winbase = s.winbase := rfl
@[simp] theorem State.setBrick_astbase (s : State) (b : Fin 8) (x : Brick) : (s.setBrick b x).astbase = s.astbase := rfl
@[simp] theorem State.setBrick_stage (s : State) (b : Fin 8) (x : Brick) : (s.setBrick b x).stage = s.stage := rfl
@[simp] theorem State.setBrick_failcode (s : State) (b : Fin 8) (x : Brick) : (s.setBrick b x).failcode = s.failcode := rfl
@[simp] theorem State.setBrick_svn (s : State) (b : Fin 8) (x : Brick) : (s.setBrick b x).svn = s.svn := rfl
@[simp] theorem State.setBrick_svnmin (s : State) (b : Fin 8) (x : Brick) : (s.setBrick b x).svnmin = s.svnmin := rfl
@[simp] theorem State.setBrick_stage1 (s : State) (b : Fin 8) (x : Brick) : (s.setBrick b x).stage1 = s.stage1 := rfl
@[simp] theorem State.setBrick_stewardImage (s : State) (b : Fin 8) (x : Brick) : (s.setBrick b x).stewardImage = s.stewardImage := rfl
@[simp] theorem State.setBrick_mr (s : State) (b : Fin 8) (x : Brick) : (s.setBrick b x).mr = s.mr := rfl
@[simp] theorem State.setBrick_owner (s : State) (b : Fin 8) (x : Brick) : (s.setBrick b x).owner = s.owner := rfl
@[simp] theorem State.setBrick_slots (s : State) (b : Fin 8) (x : Brick) : (s.setBrick b x).slots = s.slots := rfl
@[simp] theorem State.setBrick_storeCtr (s : State) (b : Fin 8) (x : Brick) : (s.setBrick b x).storeCtr = s.storeCtr := rfl
@[simp] theorem State.setBrick_bootcnt (s : State) (b : Fin 8) (x : Brick) : (s.setBrick b x).bootcnt = s.bootcnt := rfl
@[simp] theorem State.setBrick_nonce (s : State) (b : Fin 8) (x : Brick) : (s.setBrick b x).nonce = s.nonce := rfl
@[simp] theorem State.setBrick_attBusy (s : State) (b : Fin 8) (x : Brick) : (s.setBrick b x).attBusy = s.attBusy := rfl
@[simp] theorem State.setBrick_attDone (s : State) (b : Fin 8) (x : Brick) : (s.setBrick b x).attDone = s.attDone := rfl
@[simp] theorem State.setBrick_attReport (s : State) (b : Fin 8) (x : Brick) : (s.setBrick b x).attReport = s.attReport := rfl
@[simp] theorem State.setBrick_log (s : State) (b : Fin 8) (x : Brick) : (s.setBrick b x).log = s.log := rfl
@[simp] theorem State.setBrick_logHash (s : State) (b : Fin 8) (x : Brick) : (s.setBrick b x).logHash = s.logHash := rfl
@[simp] theorem State.setBrick_logNext (s : State) (b : Fin 8) (x : Brick) : (s.setBrick b x).logNext = s.logNext := rfl
@[simp] theorem State.setBrick_logAcked (s : State) (b : Fin 8) (x : Brick) : (s.setBrick b x).logAcked = s.logAcked := rfl
@[simp] theorem State.setBrick_logLost (s : State) (b : Fin 8) (x : Brick) : (s.setBrick b x).logLost = s.logLost := rfl
@[simp] theorem State.setBrick_logSinceSeal (s : State) (b : Fin 8) (x : Brick) : (s.setBrick b x).logSinceSeal = s.logSinceSeal := rfl
@[simp] theorem State.setBrick_lastSeal (s : State) (b : Fin 8) (x : Brick) : (s.setBrick b x).lastSeal = s.lastSeal := rfl
@[simp] theorem State.setBrick_seals (s : State) (b : Fin 8) (x : Brick) : (s.setBrick b x).seals = s.seals := rfl
@[simp] theorem State.setBrick_logPage (s : State) (b : Fin 8) (x : Brick) : (s.setBrick b x).logPage = s.logPage := rfl
@[simp] theorem State.setBrick_sealReq (s : State) (b : Fin 8) (x : Brick) : (s.setBrick b x).sealReq = s.sealReq := rfl
@[simp] theorem State.setBrick_powercap (s : State) (b : Fin 8) (x : Brick) : (s.setBrick b x).powercap = s.powercap := rfl
@[simp] theorem State.setBrick_modClock (s : State) (b : Fin 8) (x : Brick) : (s.setBrick b x).modClock = s.modClock := rfl
@[simp] theorem State.setBrick_telSel (s : State) (b : Fin 8) (x : Brick) : (s.setBrick b x).telSel = s.telSel := rfl
@[simp] theorem State.setBrick_telReady (s : State) (b : Fin 8) (x : Brick) : (s.setBrick b x).telReady = s.telReady := rfl
@[simp] theorem State.setBrick_telBad (s : State) (b : Fin 8) (x : Brick) : (s.setBrick b x).telBad = s.telBad := rfl
@[simp] theorem State.setBrick_telWin (s : State) (b : Fin 8) (x : Brick) : (s.setBrick b x).telWin = s.telWin := rfl
@[simp] theorem State.setBrick_telLife (s : State) (b : Fin 8) (x : Brick) : (s.setBrick b x).telLife = s.telLife := rfl
@[simp] theorem State.setBrick_telPeriod (s : State) (b : Fin 8) (x : Brick) : (s.setBrick b x).telPeriod = s.telPeriod := rfl
@[simp] theorem State.setBrick_telLifeOld (s : State) (b : Fin 8) (x : Brick) : (s.setBrick b x).telLifeOld = s.telLifeOld := rfl
@[simp] theorem State.setBrick_telPeriodOld (s : State) (b : Fin 8) (x : Brick) : (s.setBrick b x).telPeriodOld = s.telPeriodOld := rfl
@[simp] theorem State.setBrick_flashCopy (s : State) (b : Fin 8) (x : Brick) : (s.setBrick b x).flashCopy = s.flashCopy := rfl
@[simp] theorem State.setBrick_flashOwner (s : State) (b : Fin 8) (x : Brick) : (s.setBrick b x).flashOwner = s.flashOwner := rfl
@[simp] theorem State.setBrick_flashSlots (s : State) (b : Fin 8) (x : Brick) : (s.setBrick b x).flashSlots = s.flashSlots := rfl
@[simp] theorem State.setBrick_logAck (s : State) (b : Fin 8) (x : Brick) : (s.setBrick b x).logAck = s.logAck := rfl
@[simp] theorem State.setBrick_flashWriting (s : State) (b : Fin 8) (x : Brick) : (s.setBrick b x).flashWriting = s.flashWriting := rfl
@[simp] theorem State.setBrick_flashGood (s : State) (b : Fin 8) (x : Brick) : (s.setBrick b x).flashGood = s.flashGood := rfl
@[simp] theorem State.setBrick_turns (s : State) (b : Fin 8) (x : Brick) : (s.setBrick b x).turns = s.turns := rfl
@[simp] theorem State.setBrick_interrupts (s : State) (b : Fin 8) (x : Brick) : (s.setBrick b x).interrupts = s.interrupts := rfl
@[simp] theorem State.setBrick_cur (s : State) (b : Fin 8) (x : Brick) : (s.setBrick b x).cur = s.cur := rfl
@[simp] theorem State.setBrick_agenda (s : State) (b : Fin 8) (x : Brick) : (s.setBrick b x).agenda = s.agenda := rfl
@[simp] theorem State.setBrick_inbox (s : State) (b : Fin 8) (x : Brick) : (s.setBrick b x).inbox = s.inbox := rfl
@[simp] theorem State.setBrick_freeCtr (s : State) (b : Fin 8) (x : Brick) : (s.setBrick b x).freeCtr = s.freeCtr := rfl
@[simp] theorem State.setBrick_savedSets (s : State) (b : Fin 8) (x : Brick) : (s.setBrick b x).savedSets = s.savedSets := rfl
@[simp] theorem State.setBrick_queues (s : State) (b : Fin 8) (x : Brick) : (s.setBrick b x).queues = s.queues := rfl

/-! ### Fields under `setSeat` -/

@[simp] theorem State.setSeat_power (s : State) (b : Fin 8) (q : Fin 4) (x : Seat) : (s.setSeat b q x).power = s.power := rfl
@[simp] theorem State.setSeat_mem (s : State) (b : Fin 8) (q : Fin 4) (x : Seat) : (s.setSeat b q x).mem = s.mem := rfl
@[simp] theorem State.setSeat_kernels (s : State) (b : Fin 8) (q : Fin 4) (x : Seat) : (s.setSeat b q x).kernels = s.kernels := rfl
@[simp] theorem State.setSeat_nextKernel (s : State) (b : Fin 8) (q : Fin 4) (x : Seat) : (s.setSeat b q x).nextKernel = s.nextKernel := rfl
@[simp] theorem State.setSeat_winbase (s : State) (b : Fin 8) (q : Fin 4) (x : Seat) : (s.setSeat b q x).winbase = s.winbase := rfl
@[simp] theorem State.setSeat_astbase (s : State) (b : Fin 8) (q : Fin 4) (x : Seat) : (s.setSeat b q x).astbase = s.astbase := rfl
@[simp] theorem State.setSeat_stage (s : State) (b : Fin 8) (q : Fin 4) (x : Seat) : (s.setSeat b q x).stage = s.stage := rfl
@[simp] theorem State.setSeat_failcode (s : State) (b : Fin 8) (q : Fin 4) (x : Seat) : (s.setSeat b q x).failcode = s.failcode := rfl
@[simp] theorem State.setSeat_svn (s : State) (b : Fin 8) (q : Fin 4) (x : Seat) : (s.setSeat b q x).svn = s.svn := rfl
@[simp] theorem State.setSeat_svnmin (s : State) (b : Fin 8) (q : Fin 4) (x : Seat) : (s.setSeat b q x).svnmin = s.svnmin := rfl
@[simp] theorem State.setSeat_stage1 (s : State) (b : Fin 8) (q : Fin 4) (x : Seat) : (s.setSeat b q x).stage1 = s.stage1 := rfl
@[simp] theorem State.setSeat_stewardImage (s : State) (b : Fin 8) (q : Fin 4) (x : Seat) : (s.setSeat b q x).stewardImage = s.stewardImage := rfl
@[simp] theorem State.setSeat_mr (s : State) (b : Fin 8) (q : Fin 4) (x : Seat) : (s.setSeat b q x).mr = s.mr := rfl
@[simp] theorem State.setSeat_owner (s : State) (b : Fin 8) (q : Fin 4) (x : Seat) : (s.setSeat b q x).owner = s.owner := rfl
@[simp] theorem State.setSeat_slots (s : State) (b : Fin 8) (q : Fin 4) (x : Seat) : (s.setSeat b q x).slots = s.slots := rfl
@[simp] theorem State.setSeat_storeCtr (s : State) (b : Fin 8) (q : Fin 4) (x : Seat) : (s.setSeat b q x).storeCtr = s.storeCtr := rfl
@[simp] theorem State.setSeat_bootcnt (s : State) (b : Fin 8) (q : Fin 4) (x : Seat) : (s.setSeat b q x).bootcnt = s.bootcnt := rfl
@[simp] theorem State.setSeat_nonce (s : State) (b : Fin 8) (q : Fin 4) (x : Seat) : (s.setSeat b q x).nonce = s.nonce := rfl
@[simp] theorem State.setSeat_attBusy (s : State) (b : Fin 8) (q : Fin 4) (x : Seat) : (s.setSeat b q x).attBusy = s.attBusy := rfl
@[simp] theorem State.setSeat_attDone (s : State) (b : Fin 8) (q : Fin 4) (x : Seat) : (s.setSeat b q x).attDone = s.attDone := rfl
@[simp] theorem State.setSeat_attReport (s : State) (b : Fin 8) (q : Fin 4) (x : Seat) : (s.setSeat b q x).attReport = s.attReport := rfl
@[simp] theorem State.setSeat_log (s : State) (b : Fin 8) (q : Fin 4) (x : Seat) : (s.setSeat b q x).log = s.log := rfl
@[simp] theorem State.setSeat_logHash (s : State) (b : Fin 8) (q : Fin 4) (x : Seat) : (s.setSeat b q x).logHash = s.logHash := rfl
@[simp] theorem State.setSeat_logNext (s : State) (b : Fin 8) (q : Fin 4) (x : Seat) : (s.setSeat b q x).logNext = s.logNext := rfl
@[simp] theorem State.setSeat_logAcked (s : State) (b : Fin 8) (q : Fin 4) (x : Seat) : (s.setSeat b q x).logAcked = s.logAcked := rfl
@[simp] theorem State.setSeat_logLost (s : State) (b : Fin 8) (q : Fin 4) (x : Seat) : (s.setSeat b q x).logLost = s.logLost := rfl
@[simp] theorem State.setSeat_logSinceSeal (s : State) (b : Fin 8) (q : Fin 4) (x : Seat) : (s.setSeat b q x).logSinceSeal = s.logSinceSeal := rfl
@[simp] theorem State.setSeat_lastSeal (s : State) (b : Fin 8) (q : Fin 4) (x : Seat) : (s.setSeat b q x).lastSeal = s.lastSeal := rfl
@[simp] theorem State.setSeat_seals (s : State) (b : Fin 8) (q : Fin 4) (x : Seat) : (s.setSeat b q x).seals = s.seals := rfl
@[simp] theorem State.setSeat_logPage (s : State) (b : Fin 8) (q : Fin 4) (x : Seat) : (s.setSeat b q x).logPage = s.logPage := rfl
@[simp] theorem State.setSeat_sealReq (s : State) (b : Fin 8) (q : Fin 4) (x : Seat) : (s.setSeat b q x).sealReq = s.sealReq := rfl
@[simp] theorem State.setSeat_powercap (s : State) (b : Fin 8) (q : Fin 4) (x : Seat) : (s.setSeat b q x).powercap = s.powercap := rfl
@[simp] theorem State.setSeat_modClock (s : State) (b : Fin 8) (q : Fin 4) (x : Seat) : (s.setSeat b q x).modClock = s.modClock := rfl
@[simp] theorem State.setSeat_telSel (s : State) (b : Fin 8) (q : Fin 4) (x : Seat) : (s.setSeat b q x).telSel = s.telSel := rfl
@[simp] theorem State.setSeat_telReady (s : State) (b : Fin 8) (q : Fin 4) (x : Seat) : (s.setSeat b q x).telReady = s.telReady := rfl
@[simp] theorem State.setSeat_telBad (s : State) (b : Fin 8) (q : Fin 4) (x : Seat) : (s.setSeat b q x).telBad = s.telBad := rfl
@[simp] theorem State.setSeat_telWin (s : State) (b : Fin 8) (q : Fin 4) (x : Seat) : (s.setSeat b q x).telWin = s.telWin := rfl
@[simp] theorem State.setSeat_telLife (s : State) (b : Fin 8) (q : Fin 4) (x : Seat) : (s.setSeat b q x).telLife = s.telLife := rfl
@[simp] theorem State.setSeat_telPeriod (s : State) (b : Fin 8) (q : Fin 4) (x : Seat) : (s.setSeat b q x).telPeriod = s.telPeriod := rfl
@[simp] theorem State.setSeat_telLifeOld (s : State) (b : Fin 8) (q : Fin 4) (x : Seat) : (s.setSeat b q x).telLifeOld = s.telLifeOld := rfl
@[simp] theorem State.setSeat_telPeriodOld (s : State) (b : Fin 8) (q : Fin 4) (x : Seat) : (s.setSeat b q x).telPeriodOld = s.telPeriodOld := rfl
@[simp] theorem State.setSeat_flashCopy (s : State) (b : Fin 8) (q : Fin 4) (x : Seat) : (s.setSeat b q x).flashCopy = s.flashCopy := rfl
@[simp] theorem State.setSeat_flashOwner (s : State) (b : Fin 8) (q : Fin 4) (x : Seat) : (s.setSeat b q x).flashOwner = s.flashOwner := rfl
@[simp] theorem State.setSeat_flashSlots (s : State) (b : Fin 8) (q : Fin 4) (x : Seat) : (s.setSeat b q x).flashSlots = s.flashSlots := rfl
@[simp] theorem State.setSeat_logAck (s : State) (b : Fin 8) (q : Fin 4) (x : Seat) : (s.setSeat b q x).logAck = s.logAck := rfl
@[simp] theorem State.setSeat_flashWriting (s : State) (b : Fin 8) (q : Fin 4) (x : Seat) : (s.setSeat b q x).flashWriting = s.flashWriting := rfl
@[simp] theorem State.setSeat_flashGood (s : State) (b : Fin 8) (q : Fin 4) (x : Seat) : (s.setSeat b q x).flashGood = s.flashGood := rfl
@[simp] theorem State.setSeat_turns (s : State) (b : Fin 8) (q : Fin 4) (x : Seat) : (s.setSeat b q x).turns = s.turns := rfl
@[simp] theorem State.setSeat_interrupts (s : State) (b : Fin 8) (q : Fin 4) (x : Seat) : (s.setSeat b q x).interrupts = s.interrupts := rfl
@[simp] theorem State.setSeat_cur (s : State) (b : Fin 8) (q : Fin 4) (x : Seat) : (s.setSeat b q x).cur = s.cur := rfl
@[simp] theorem State.setSeat_agenda (s : State) (b : Fin 8) (q : Fin 4) (x : Seat) : (s.setSeat b q x).agenda = s.agenda := rfl
@[simp] theorem State.setSeat_inbox (s : State) (b : Fin 8) (q : Fin 4) (x : Seat) : (s.setSeat b q x).inbox = s.inbox := rfl
@[simp] theorem State.setSeat_freeCtr (s : State) (b : Fin 8) (q : Fin 4) (x : Seat) : (s.setSeat b q x).freeCtr = s.freeCtr := rfl
@[simp] theorem State.setSeat_savedSets (s : State) (b : Fin 8) (q : Fin 4) (x : Seat) : (s.setSeat b q x).savedSets = s.savedSets := rfl
@[simp] theorem State.setSeat_queues (s : State) (b : Fin 8) (q : Fin 4) (x : Seat) : (s.setSeat b q x).queues = s.queues := rfl

/-! ### Fields under `setCtx` -/

@[simp] theorem State.setCtx_power (s : State) (b : Fin 8) (q : Fin 4) (c : Context) : (s.setCtx b q c).power = s.power := rfl
@[simp] theorem State.setCtx_mem (s : State) (b : Fin 8) (q : Fin 4) (c : Context) : (s.setCtx b q c).mem = s.mem := rfl
@[simp] theorem State.setCtx_kernels (s : State) (b : Fin 8) (q : Fin 4) (c : Context) : (s.setCtx b q c).kernels = s.kernels := rfl
@[simp] theorem State.setCtx_nextKernel (s : State) (b : Fin 8) (q : Fin 4) (c : Context) : (s.setCtx b q c).nextKernel = s.nextKernel := rfl
@[simp] theorem State.setCtx_winbase (s : State) (b : Fin 8) (q : Fin 4) (c : Context) : (s.setCtx b q c).winbase = s.winbase := rfl
@[simp] theorem State.setCtx_astbase (s : State) (b : Fin 8) (q : Fin 4) (c : Context) : (s.setCtx b q c).astbase = s.astbase := rfl
@[simp] theorem State.setCtx_stage (s : State) (b : Fin 8) (q : Fin 4) (c : Context) : (s.setCtx b q c).stage = s.stage := rfl
@[simp] theorem State.setCtx_failcode (s : State) (b : Fin 8) (q : Fin 4) (c : Context) : (s.setCtx b q c).failcode = s.failcode := rfl
@[simp] theorem State.setCtx_svn (s : State) (b : Fin 8) (q : Fin 4) (c : Context) : (s.setCtx b q c).svn = s.svn := rfl
@[simp] theorem State.setCtx_svnmin (s : State) (b : Fin 8) (q : Fin 4) (c : Context) : (s.setCtx b q c).svnmin = s.svnmin := rfl
@[simp] theorem State.setCtx_stage1 (s : State) (b : Fin 8) (q : Fin 4) (c : Context) : (s.setCtx b q c).stage1 = s.stage1 := rfl
@[simp] theorem State.setCtx_stewardImage (s : State) (b : Fin 8) (q : Fin 4) (c : Context) : (s.setCtx b q c).stewardImage = s.stewardImage := rfl
@[simp] theorem State.setCtx_mr (s : State) (b : Fin 8) (q : Fin 4) (c : Context) : (s.setCtx b q c).mr = s.mr := rfl
@[simp] theorem State.setCtx_owner (s : State) (b : Fin 8) (q : Fin 4) (c : Context) : (s.setCtx b q c).owner = s.owner := rfl
@[simp] theorem State.setCtx_slots (s : State) (b : Fin 8) (q : Fin 4) (c : Context) : (s.setCtx b q c).slots = s.slots := rfl
@[simp] theorem State.setCtx_storeCtr (s : State) (b : Fin 8) (q : Fin 4) (c : Context) : (s.setCtx b q c).storeCtr = s.storeCtr := rfl
@[simp] theorem State.setCtx_bootcnt (s : State) (b : Fin 8) (q : Fin 4) (c : Context) : (s.setCtx b q c).bootcnt = s.bootcnt := rfl
@[simp] theorem State.setCtx_nonce (s : State) (b : Fin 8) (q : Fin 4) (c : Context) : (s.setCtx b q c).nonce = s.nonce := rfl
@[simp] theorem State.setCtx_attBusy (s : State) (b : Fin 8) (q : Fin 4) (c : Context) : (s.setCtx b q c).attBusy = s.attBusy := rfl
@[simp] theorem State.setCtx_attDone (s : State) (b : Fin 8) (q : Fin 4) (c : Context) : (s.setCtx b q c).attDone = s.attDone := rfl
@[simp] theorem State.setCtx_attReport (s : State) (b : Fin 8) (q : Fin 4) (c : Context) : (s.setCtx b q c).attReport = s.attReport := rfl
@[simp] theorem State.setCtx_log (s : State) (b : Fin 8) (q : Fin 4) (c : Context) : (s.setCtx b q c).log = s.log := rfl
@[simp] theorem State.setCtx_logHash (s : State) (b : Fin 8) (q : Fin 4) (c : Context) : (s.setCtx b q c).logHash = s.logHash := rfl
@[simp] theorem State.setCtx_logNext (s : State) (b : Fin 8) (q : Fin 4) (c : Context) : (s.setCtx b q c).logNext = s.logNext := rfl
@[simp] theorem State.setCtx_logAcked (s : State) (b : Fin 8) (q : Fin 4) (c : Context) : (s.setCtx b q c).logAcked = s.logAcked := rfl
@[simp] theorem State.setCtx_logLost (s : State) (b : Fin 8) (q : Fin 4) (c : Context) : (s.setCtx b q c).logLost = s.logLost := rfl
@[simp] theorem State.setCtx_logSinceSeal (s : State) (b : Fin 8) (q : Fin 4) (c : Context) : (s.setCtx b q c).logSinceSeal = s.logSinceSeal := rfl
@[simp] theorem State.setCtx_lastSeal (s : State) (b : Fin 8) (q : Fin 4) (c : Context) : (s.setCtx b q c).lastSeal = s.lastSeal := rfl
@[simp] theorem State.setCtx_seals (s : State) (b : Fin 8) (q : Fin 4) (c : Context) : (s.setCtx b q c).seals = s.seals := rfl
@[simp] theorem State.setCtx_logPage (s : State) (b : Fin 8) (q : Fin 4) (c : Context) : (s.setCtx b q c).logPage = s.logPage := rfl
@[simp] theorem State.setCtx_sealReq (s : State) (b : Fin 8) (q : Fin 4) (c : Context) : (s.setCtx b q c).sealReq = s.sealReq := rfl
@[simp] theorem State.setCtx_powercap (s : State) (b : Fin 8) (q : Fin 4) (c : Context) : (s.setCtx b q c).powercap = s.powercap := rfl
@[simp] theorem State.setCtx_modClock (s : State) (b : Fin 8) (q : Fin 4) (c : Context) : (s.setCtx b q c).modClock = s.modClock := rfl
@[simp] theorem State.setCtx_telSel (s : State) (b : Fin 8) (q : Fin 4) (c : Context) : (s.setCtx b q c).telSel = s.telSel := rfl
@[simp] theorem State.setCtx_telReady (s : State) (b : Fin 8) (q : Fin 4) (c : Context) : (s.setCtx b q c).telReady = s.telReady := rfl
@[simp] theorem State.setCtx_telBad (s : State) (b : Fin 8) (q : Fin 4) (c : Context) : (s.setCtx b q c).telBad = s.telBad := rfl
@[simp] theorem State.setCtx_telWin (s : State) (b : Fin 8) (q : Fin 4) (c : Context) : (s.setCtx b q c).telWin = s.telWin := rfl
@[simp] theorem State.setCtx_telLife (s : State) (b : Fin 8) (q : Fin 4) (c : Context) : (s.setCtx b q c).telLife = s.telLife := rfl
@[simp] theorem State.setCtx_telPeriod (s : State) (b : Fin 8) (q : Fin 4) (c : Context) : (s.setCtx b q c).telPeriod = s.telPeriod := rfl
@[simp] theorem State.setCtx_telLifeOld (s : State) (b : Fin 8) (q : Fin 4) (c : Context) : (s.setCtx b q c).telLifeOld = s.telLifeOld := rfl
@[simp] theorem State.setCtx_telPeriodOld (s : State) (b : Fin 8) (q : Fin 4) (c : Context) : (s.setCtx b q c).telPeriodOld = s.telPeriodOld := rfl
@[simp] theorem State.setCtx_flashCopy (s : State) (b : Fin 8) (q : Fin 4) (c : Context) : (s.setCtx b q c).flashCopy = s.flashCopy := rfl
@[simp] theorem State.setCtx_flashOwner (s : State) (b : Fin 8) (q : Fin 4) (c : Context) : (s.setCtx b q c).flashOwner = s.flashOwner := rfl
@[simp] theorem State.setCtx_flashSlots (s : State) (b : Fin 8) (q : Fin 4) (c : Context) : (s.setCtx b q c).flashSlots = s.flashSlots := rfl
@[simp] theorem State.setCtx_logAck (s : State) (b : Fin 8) (q : Fin 4) (c : Context) : (s.setCtx b q c).logAck = s.logAck := rfl
@[simp] theorem State.setCtx_flashWriting (s : State) (b : Fin 8) (q : Fin 4) (c : Context) : (s.setCtx b q c).flashWriting = s.flashWriting := rfl
@[simp] theorem State.setCtx_flashGood (s : State) (b : Fin 8) (q : Fin 4) (c : Context) : (s.setCtx b q c).flashGood = s.flashGood := rfl
@[simp] theorem State.setCtx_turns (s : State) (b : Fin 8) (q : Fin 4) (c : Context) : (s.setCtx b q c).turns = s.turns := rfl
@[simp] theorem State.setCtx_interrupts (s : State) (b : Fin 8) (q : Fin 4) (c : Context) : (s.setCtx b q c).interrupts = s.interrupts := rfl
@[simp] theorem State.setCtx_cur (s : State) (b : Fin 8) (q : Fin 4) (c : Context) : (s.setCtx b q c).cur = s.cur := rfl
@[simp] theorem State.setCtx_agenda (s : State) (b : Fin 8) (q : Fin 4) (c : Context) : (s.setCtx b q c).agenda = s.agenda := rfl
@[simp] theorem State.setCtx_inbox (s : State) (b : Fin 8) (q : Fin 4) (c : Context) : (s.setCtx b q c).inbox = s.inbox := rfl
@[simp] theorem State.setCtx_freeCtr (s : State) (b : Fin 8) (q : Fin 4) (c : Context) : (s.setCtx b q c).freeCtr = s.freeCtr := rfl
@[simp] theorem State.setCtx_savedSets (s : State) (b : Fin 8) (q : Fin 4) (c : Context) : (s.setCtx b q c).savedSets = s.savedSets := rfl
@[simp] theorem State.setCtx_queues (s : State) (b : Fin 8) (q : Fin 4) (c : Context) : (s.setCtx b q c).queues = s.queues := rfl

/-! ### Fields under `setLink` -/

@[simp] theorem State.setLink_power (s : State) (b : Fin 8) (d : Fin 12) (l : Link) : (s.setLink b d l).power = s.power := rfl
@[simp] theorem State.setLink_mem (s : State) (b : Fin 8) (d : Fin 12) (l : Link) : (s.setLink b d l).mem = s.mem := rfl
@[simp] theorem State.setLink_kernels (s : State) (b : Fin 8) (d : Fin 12) (l : Link) : (s.setLink b d l).kernels = s.kernels := rfl
@[simp] theorem State.setLink_nextKernel (s : State) (b : Fin 8) (d : Fin 12) (l : Link) : (s.setLink b d l).nextKernel = s.nextKernel := rfl
@[simp] theorem State.setLink_winbase (s : State) (b : Fin 8) (d : Fin 12) (l : Link) : (s.setLink b d l).winbase = s.winbase := rfl
@[simp] theorem State.setLink_astbase (s : State) (b : Fin 8) (d : Fin 12) (l : Link) : (s.setLink b d l).astbase = s.astbase := rfl
@[simp] theorem State.setLink_stage (s : State) (b : Fin 8) (d : Fin 12) (l : Link) : (s.setLink b d l).stage = s.stage := rfl
@[simp] theorem State.setLink_failcode (s : State) (b : Fin 8) (d : Fin 12) (l : Link) : (s.setLink b d l).failcode = s.failcode := rfl
@[simp] theorem State.setLink_svn (s : State) (b : Fin 8) (d : Fin 12) (l : Link) : (s.setLink b d l).svn = s.svn := rfl
@[simp] theorem State.setLink_svnmin (s : State) (b : Fin 8) (d : Fin 12) (l : Link) : (s.setLink b d l).svnmin = s.svnmin := rfl
@[simp] theorem State.setLink_stage1 (s : State) (b : Fin 8) (d : Fin 12) (l : Link) : (s.setLink b d l).stage1 = s.stage1 := rfl
@[simp] theorem State.setLink_stewardImage (s : State) (b : Fin 8) (d : Fin 12) (l : Link) : (s.setLink b d l).stewardImage = s.stewardImage := rfl
@[simp] theorem State.setLink_mr (s : State) (b : Fin 8) (d : Fin 12) (l : Link) : (s.setLink b d l).mr = s.mr := rfl
@[simp] theorem State.setLink_owner (s : State) (b : Fin 8) (d : Fin 12) (l : Link) : (s.setLink b d l).owner = s.owner := rfl
@[simp] theorem State.setLink_slots (s : State) (b : Fin 8) (d : Fin 12) (l : Link) : (s.setLink b d l).slots = s.slots := rfl
@[simp] theorem State.setLink_storeCtr (s : State) (b : Fin 8) (d : Fin 12) (l : Link) : (s.setLink b d l).storeCtr = s.storeCtr := rfl
@[simp] theorem State.setLink_bootcnt (s : State) (b : Fin 8) (d : Fin 12) (l : Link) : (s.setLink b d l).bootcnt = s.bootcnt := rfl
@[simp] theorem State.setLink_nonce (s : State) (b : Fin 8) (d : Fin 12) (l : Link) : (s.setLink b d l).nonce = s.nonce := rfl
@[simp] theorem State.setLink_attBusy (s : State) (b : Fin 8) (d : Fin 12) (l : Link) : (s.setLink b d l).attBusy = s.attBusy := rfl
@[simp] theorem State.setLink_attDone (s : State) (b : Fin 8) (d : Fin 12) (l : Link) : (s.setLink b d l).attDone = s.attDone := rfl
@[simp] theorem State.setLink_attReport (s : State) (b : Fin 8) (d : Fin 12) (l : Link) : (s.setLink b d l).attReport = s.attReport := rfl
@[simp] theorem State.setLink_log (s : State) (b : Fin 8) (d : Fin 12) (l : Link) : (s.setLink b d l).log = s.log := rfl
@[simp] theorem State.setLink_logHash (s : State) (b : Fin 8) (d : Fin 12) (l : Link) : (s.setLink b d l).logHash = s.logHash := rfl
@[simp] theorem State.setLink_logNext (s : State) (b : Fin 8) (d : Fin 12) (l : Link) : (s.setLink b d l).logNext = s.logNext := rfl
@[simp] theorem State.setLink_logAcked (s : State) (b : Fin 8) (d : Fin 12) (l : Link) : (s.setLink b d l).logAcked = s.logAcked := rfl
@[simp] theorem State.setLink_logLost (s : State) (b : Fin 8) (d : Fin 12) (l : Link) : (s.setLink b d l).logLost = s.logLost := rfl
@[simp] theorem State.setLink_logSinceSeal (s : State) (b : Fin 8) (d : Fin 12) (l : Link) : (s.setLink b d l).logSinceSeal = s.logSinceSeal := rfl
@[simp] theorem State.setLink_lastSeal (s : State) (b : Fin 8) (d : Fin 12) (l : Link) : (s.setLink b d l).lastSeal = s.lastSeal := rfl
@[simp] theorem State.setLink_seals (s : State) (b : Fin 8) (d : Fin 12) (l : Link) : (s.setLink b d l).seals = s.seals := rfl
@[simp] theorem State.setLink_logPage (s : State) (b : Fin 8) (d : Fin 12) (l : Link) : (s.setLink b d l).logPage = s.logPage := rfl
@[simp] theorem State.setLink_sealReq (s : State) (b : Fin 8) (d : Fin 12) (l : Link) : (s.setLink b d l).sealReq = s.sealReq := rfl
@[simp] theorem State.setLink_powercap (s : State) (b : Fin 8) (d : Fin 12) (l : Link) : (s.setLink b d l).powercap = s.powercap := rfl
@[simp] theorem State.setLink_modClock (s : State) (b : Fin 8) (d : Fin 12) (l : Link) : (s.setLink b d l).modClock = s.modClock := rfl
@[simp] theorem State.setLink_telSel (s : State) (b : Fin 8) (d : Fin 12) (l : Link) : (s.setLink b d l).telSel = s.telSel := rfl
@[simp] theorem State.setLink_telReady (s : State) (b : Fin 8) (d : Fin 12) (l : Link) : (s.setLink b d l).telReady = s.telReady := rfl
@[simp] theorem State.setLink_telBad (s : State) (b : Fin 8) (d : Fin 12) (l : Link) : (s.setLink b d l).telBad = s.telBad := rfl
@[simp] theorem State.setLink_telWin (s : State) (b : Fin 8) (d : Fin 12) (l : Link) : (s.setLink b d l).telWin = s.telWin := rfl
@[simp] theorem State.setLink_telLife (s : State) (b : Fin 8) (d : Fin 12) (l : Link) : (s.setLink b d l).telLife = s.telLife := rfl
@[simp] theorem State.setLink_telPeriod (s : State) (b : Fin 8) (d : Fin 12) (l : Link) : (s.setLink b d l).telPeriod = s.telPeriod := rfl
@[simp] theorem State.setLink_telLifeOld (s : State) (b : Fin 8) (d : Fin 12) (l : Link) : (s.setLink b d l).telLifeOld = s.telLifeOld := rfl
@[simp] theorem State.setLink_telPeriodOld (s : State) (b : Fin 8) (d : Fin 12) (l : Link) : (s.setLink b d l).telPeriodOld = s.telPeriodOld := rfl
@[simp] theorem State.setLink_flashCopy (s : State) (b : Fin 8) (d : Fin 12) (l : Link) : (s.setLink b d l).flashCopy = s.flashCopy := rfl
@[simp] theorem State.setLink_flashOwner (s : State) (b : Fin 8) (d : Fin 12) (l : Link) : (s.setLink b d l).flashOwner = s.flashOwner := rfl
@[simp] theorem State.setLink_flashSlots (s : State) (b : Fin 8) (d : Fin 12) (l : Link) : (s.setLink b d l).flashSlots = s.flashSlots := rfl
@[simp] theorem State.setLink_logAck (s : State) (b : Fin 8) (d : Fin 12) (l : Link) : (s.setLink b d l).logAck = s.logAck := rfl
@[simp] theorem State.setLink_flashWriting (s : State) (b : Fin 8) (d : Fin 12) (l : Link) : (s.setLink b d l).flashWriting = s.flashWriting := rfl
@[simp] theorem State.setLink_flashGood (s : State) (b : Fin 8) (d : Fin 12) (l : Link) : (s.setLink b d l).flashGood = s.flashGood := rfl
@[simp] theorem State.setLink_turns (s : State) (b : Fin 8) (d : Fin 12) (l : Link) : (s.setLink b d l).turns = s.turns := rfl
@[simp] theorem State.setLink_interrupts (s : State) (b : Fin 8) (d : Fin 12) (l : Link) : (s.setLink b d l).interrupts = s.interrupts := rfl
@[simp] theorem State.setLink_cur (s : State) (b : Fin 8) (d : Fin 12) (l : Link) : (s.setLink b d l).cur = s.cur := rfl
@[simp] theorem State.setLink_agenda (s : State) (b : Fin 8) (d : Fin 12) (l : Link) : (s.setLink b d l).agenda = s.agenda := rfl
@[simp] theorem State.setLink_inbox (s : State) (b : Fin 8) (d : Fin 12) (l : Link) : (s.setLink b d l).inbox = s.inbox := rfl
@[simp] theorem State.setLink_freeCtr (s : State) (b : Fin 8) (d : Fin 12) (l : Link) : (s.setLink b d l).freeCtr = s.freeCtr := rfl
@[simp] theorem State.setLink_savedSets (s : State) (b : Fin 8) (d : Fin 12) (l : Link) : (s.setLink b d l).savedSets = s.savedSets := rfl
@[simp] theorem State.setLink_queues (s : State) (b : Fin 8) (d : Fin 12) (l : Link) : (s.setLink b d l).queues = s.queues := rfl

/-! ### Fields under `setQueue` -/

@[simp] theorem State.setQueue_power (s : State) (q : Fin 64) (u : Queue) : (s.setQueue q u).power = s.power := rfl
@[simp] theorem State.setQueue_mem (s : State) (q : Fin 64) (u : Queue) : (s.setQueue q u).mem = s.mem := rfl
@[simp] theorem State.setQueue_kernels (s : State) (q : Fin 64) (u : Queue) : (s.setQueue q u).kernels = s.kernels := rfl
@[simp] theorem State.setQueue_nextKernel (s : State) (q : Fin 64) (u : Queue) : (s.setQueue q u).nextKernel = s.nextKernel := rfl
@[simp] theorem State.setQueue_winbase (s : State) (q : Fin 64) (u : Queue) : (s.setQueue q u).winbase = s.winbase := rfl
@[simp] theorem State.setQueue_astbase (s : State) (q : Fin 64) (u : Queue) : (s.setQueue q u).astbase = s.astbase := rfl
@[simp] theorem State.setQueue_stage (s : State) (q : Fin 64) (u : Queue) : (s.setQueue q u).stage = s.stage := rfl
@[simp] theorem State.setQueue_failcode (s : State) (q : Fin 64) (u : Queue) : (s.setQueue q u).failcode = s.failcode := rfl
@[simp] theorem State.setQueue_svn (s : State) (q : Fin 64) (u : Queue) : (s.setQueue q u).svn = s.svn := rfl
@[simp] theorem State.setQueue_svnmin (s : State) (q : Fin 64) (u : Queue) : (s.setQueue q u).svnmin = s.svnmin := rfl
@[simp] theorem State.setQueue_stage1 (s : State) (q : Fin 64) (u : Queue) : (s.setQueue q u).stage1 = s.stage1 := rfl
@[simp] theorem State.setQueue_stewardImage (s : State) (q : Fin 64) (u : Queue) : (s.setQueue q u).stewardImage = s.stewardImage := rfl
@[simp] theorem State.setQueue_mr (s : State) (q : Fin 64) (u : Queue) : (s.setQueue q u).mr = s.mr := rfl
@[simp] theorem State.setQueue_owner (s : State) (q : Fin 64) (u : Queue) : (s.setQueue q u).owner = s.owner := rfl
@[simp] theorem State.setQueue_slots (s : State) (q : Fin 64) (u : Queue) : (s.setQueue q u).slots = s.slots := rfl
@[simp] theorem State.setQueue_storeCtr (s : State) (q : Fin 64) (u : Queue) : (s.setQueue q u).storeCtr = s.storeCtr := rfl
@[simp] theorem State.setQueue_bootcnt (s : State) (q : Fin 64) (u : Queue) : (s.setQueue q u).bootcnt = s.bootcnt := rfl
@[simp] theorem State.setQueue_nonce (s : State) (q : Fin 64) (u : Queue) : (s.setQueue q u).nonce = s.nonce := rfl
@[simp] theorem State.setQueue_attBusy (s : State) (q : Fin 64) (u : Queue) : (s.setQueue q u).attBusy = s.attBusy := rfl
@[simp] theorem State.setQueue_attDone (s : State) (q : Fin 64) (u : Queue) : (s.setQueue q u).attDone = s.attDone := rfl
@[simp] theorem State.setQueue_attReport (s : State) (q : Fin 64) (u : Queue) : (s.setQueue q u).attReport = s.attReport := rfl
@[simp] theorem State.setQueue_log (s : State) (q : Fin 64) (u : Queue) : (s.setQueue q u).log = s.log := rfl
@[simp] theorem State.setQueue_logHash (s : State) (q : Fin 64) (u : Queue) : (s.setQueue q u).logHash = s.logHash := rfl
@[simp] theorem State.setQueue_logNext (s : State) (q : Fin 64) (u : Queue) : (s.setQueue q u).logNext = s.logNext := rfl
@[simp] theorem State.setQueue_logAcked (s : State) (q : Fin 64) (u : Queue) : (s.setQueue q u).logAcked = s.logAcked := rfl
@[simp] theorem State.setQueue_logLost (s : State) (q : Fin 64) (u : Queue) : (s.setQueue q u).logLost = s.logLost := rfl
@[simp] theorem State.setQueue_logSinceSeal (s : State) (q : Fin 64) (u : Queue) : (s.setQueue q u).logSinceSeal = s.logSinceSeal := rfl
@[simp] theorem State.setQueue_lastSeal (s : State) (q : Fin 64) (u : Queue) : (s.setQueue q u).lastSeal = s.lastSeal := rfl
@[simp] theorem State.setQueue_seals (s : State) (q : Fin 64) (u : Queue) : (s.setQueue q u).seals = s.seals := rfl
@[simp] theorem State.setQueue_logPage (s : State) (q : Fin 64) (u : Queue) : (s.setQueue q u).logPage = s.logPage := rfl
@[simp] theorem State.setQueue_sealReq (s : State) (q : Fin 64) (u : Queue) : (s.setQueue q u).sealReq = s.sealReq := rfl
@[simp] theorem State.setQueue_powercap (s : State) (q : Fin 64) (u : Queue) : (s.setQueue q u).powercap = s.powercap := rfl
@[simp] theorem State.setQueue_modClock (s : State) (q : Fin 64) (u : Queue) : (s.setQueue q u).modClock = s.modClock := rfl
@[simp] theorem State.setQueue_telSel (s : State) (q : Fin 64) (u : Queue) : (s.setQueue q u).telSel = s.telSel := rfl
@[simp] theorem State.setQueue_telReady (s : State) (q : Fin 64) (u : Queue) : (s.setQueue q u).telReady = s.telReady := rfl
@[simp] theorem State.setQueue_telBad (s : State) (q : Fin 64) (u : Queue) : (s.setQueue q u).telBad = s.telBad := rfl
@[simp] theorem State.setQueue_telWin (s : State) (q : Fin 64) (u : Queue) : (s.setQueue q u).telWin = s.telWin := rfl
@[simp] theorem State.setQueue_telLife (s : State) (q : Fin 64) (u : Queue) : (s.setQueue q u).telLife = s.telLife := rfl
@[simp] theorem State.setQueue_telPeriod (s : State) (q : Fin 64) (u : Queue) : (s.setQueue q u).telPeriod = s.telPeriod := rfl
@[simp] theorem State.setQueue_telLifeOld (s : State) (q : Fin 64) (u : Queue) : (s.setQueue q u).telLifeOld = s.telLifeOld := rfl
@[simp] theorem State.setQueue_telPeriodOld (s : State) (q : Fin 64) (u : Queue) : (s.setQueue q u).telPeriodOld = s.telPeriodOld := rfl
@[simp] theorem State.setQueue_flashCopy (s : State) (q : Fin 64) (u : Queue) : (s.setQueue q u).flashCopy = s.flashCopy := rfl
@[simp] theorem State.setQueue_flashOwner (s : State) (q : Fin 64) (u : Queue) : (s.setQueue q u).flashOwner = s.flashOwner := rfl
@[simp] theorem State.setQueue_flashSlots (s : State) (q : Fin 64) (u : Queue) : (s.setQueue q u).flashSlots = s.flashSlots := rfl
@[simp] theorem State.setQueue_logAck (s : State) (q : Fin 64) (u : Queue) : (s.setQueue q u).logAck = s.logAck := rfl
@[simp] theorem State.setQueue_flashWriting (s : State) (q : Fin 64) (u : Queue) : (s.setQueue q u).flashWriting = s.flashWriting := rfl
@[simp] theorem State.setQueue_flashGood (s : State) (q : Fin 64) (u : Queue) : (s.setQueue q u).flashGood = s.flashGood := rfl
@[simp] theorem State.setQueue_turns (s : State) (q : Fin 64) (u : Queue) : (s.setQueue q u).turns = s.turns := rfl
@[simp] theorem State.setQueue_interrupts (s : State) (q : Fin 64) (u : Queue) : (s.setQueue q u).interrupts = s.interrupts := rfl
@[simp] theorem State.setQueue_cur (s : State) (q : Fin 64) (u : Queue) : (s.setQueue q u).cur = s.cur := rfl
@[simp] theorem State.setQueue_agenda (s : State) (q : Fin 64) (u : Queue) : (s.setQueue q u).agenda = s.agenda := rfl
@[simp] theorem State.setQueue_inbox (s : State) (q : Fin 64) (u : Queue) : (s.setQueue q u).inbox = s.inbox := rfl
@[simp] theorem State.setQueue_freeCtr (s : State) (q : Fin 64) (u : Queue) : (s.setQueue q u).freeCtr = s.freeCtr := rfl
@[simp] theorem State.setQueue_savedSets (s : State) (q : Fin 64) (u : Queue) : (s.setQueue q u).savedSets = s.savedSets := rfl
@[simp] theorem State.setQueue_bricks (s : State) (q : Fin 64) (u : Queue) : (s.setQueue q u).bricks = s.bricks := rfl

/-! ### Fields under `setKernel` -/

@[simp] theorem State.setKernel_power (s : State) (k : Kernel) : (s.setKernel k).power = s.power := rfl
@[simp] theorem State.setKernel_mem (s : State) (k : Kernel) : (s.setKernel k).mem = s.mem := rfl
@[simp] theorem State.setKernel_nextKernel (s : State) (k : Kernel) : (s.setKernel k).nextKernel = s.nextKernel := rfl
@[simp] theorem State.setKernel_winbase (s : State) (k : Kernel) : (s.setKernel k).winbase = s.winbase := rfl
@[simp] theorem State.setKernel_astbase (s : State) (k : Kernel) : (s.setKernel k).astbase = s.astbase := rfl
@[simp] theorem State.setKernel_stage (s : State) (k : Kernel) : (s.setKernel k).stage = s.stage := rfl
@[simp] theorem State.setKernel_failcode (s : State) (k : Kernel) : (s.setKernel k).failcode = s.failcode := rfl
@[simp] theorem State.setKernel_svn (s : State) (k : Kernel) : (s.setKernel k).svn = s.svn := rfl
@[simp] theorem State.setKernel_svnmin (s : State) (k : Kernel) : (s.setKernel k).svnmin = s.svnmin := rfl
@[simp] theorem State.setKernel_stage1 (s : State) (k : Kernel) : (s.setKernel k).stage1 = s.stage1 := rfl
@[simp] theorem State.setKernel_stewardImage (s : State) (k : Kernel) : (s.setKernel k).stewardImage = s.stewardImage := rfl
@[simp] theorem State.setKernel_mr (s : State) (k : Kernel) : (s.setKernel k).mr = s.mr := rfl
@[simp] theorem State.setKernel_owner (s : State) (k : Kernel) : (s.setKernel k).owner = s.owner := rfl
@[simp] theorem State.setKernel_slots (s : State) (k : Kernel) : (s.setKernel k).slots = s.slots := rfl
@[simp] theorem State.setKernel_storeCtr (s : State) (k : Kernel) : (s.setKernel k).storeCtr = s.storeCtr := rfl
@[simp] theorem State.setKernel_bootcnt (s : State) (k : Kernel) : (s.setKernel k).bootcnt = s.bootcnt := rfl
@[simp] theorem State.setKernel_nonce (s : State) (k : Kernel) : (s.setKernel k).nonce = s.nonce := rfl
@[simp] theorem State.setKernel_attBusy (s : State) (k : Kernel) : (s.setKernel k).attBusy = s.attBusy := rfl
@[simp] theorem State.setKernel_attDone (s : State) (k : Kernel) : (s.setKernel k).attDone = s.attDone := rfl
@[simp] theorem State.setKernel_attReport (s : State) (k : Kernel) : (s.setKernel k).attReport = s.attReport := rfl
@[simp] theorem State.setKernel_log (s : State) (k : Kernel) : (s.setKernel k).log = s.log := rfl
@[simp] theorem State.setKernel_logHash (s : State) (k : Kernel) : (s.setKernel k).logHash = s.logHash := rfl
@[simp] theorem State.setKernel_logNext (s : State) (k : Kernel) : (s.setKernel k).logNext = s.logNext := rfl
@[simp] theorem State.setKernel_logAcked (s : State) (k : Kernel) : (s.setKernel k).logAcked = s.logAcked := rfl
@[simp] theorem State.setKernel_logLost (s : State) (k : Kernel) : (s.setKernel k).logLost = s.logLost := rfl
@[simp] theorem State.setKernel_logSinceSeal (s : State) (k : Kernel) : (s.setKernel k).logSinceSeal = s.logSinceSeal := rfl
@[simp] theorem State.setKernel_lastSeal (s : State) (k : Kernel) : (s.setKernel k).lastSeal = s.lastSeal := rfl
@[simp] theorem State.setKernel_seals (s : State) (k : Kernel) : (s.setKernel k).seals = s.seals := rfl
@[simp] theorem State.setKernel_logPage (s : State) (k : Kernel) : (s.setKernel k).logPage = s.logPage := rfl
@[simp] theorem State.setKernel_sealReq (s : State) (k : Kernel) : (s.setKernel k).sealReq = s.sealReq := rfl
@[simp] theorem State.setKernel_powercap (s : State) (k : Kernel) : (s.setKernel k).powercap = s.powercap := rfl
@[simp] theorem State.setKernel_modClock (s : State) (k : Kernel) : (s.setKernel k).modClock = s.modClock := rfl
@[simp] theorem State.setKernel_telSel (s : State) (k : Kernel) : (s.setKernel k).telSel = s.telSel := rfl
@[simp] theorem State.setKernel_telReady (s : State) (k : Kernel) : (s.setKernel k).telReady = s.telReady := rfl
@[simp] theorem State.setKernel_telBad (s : State) (k : Kernel) : (s.setKernel k).telBad = s.telBad := rfl
@[simp] theorem State.setKernel_telWin (s : State) (k : Kernel) : (s.setKernel k).telWin = s.telWin := rfl
@[simp] theorem State.setKernel_telLife (s : State) (k : Kernel) : (s.setKernel k).telLife = s.telLife := rfl
@[simp] theorem State.setKernel_telPeriod (s : State) (k : Kernel) : (s.setKernel k).telPeriod = s.telPeriod := rfl
@[simp] theorem State.setKernel_telLifeOld (s : State) (k : Kernel) : (s.setKernel k).telLifeOld = s.telLifeOld := rfl
@[simp] theorem State.setKernel_telPeriodOld (s : State) (k : Kernel) : (s.setKernel k).telPeriodOld = s.telPeriodOld := rfl
@[simp] theorem State.setKernel_flashCopy (s : State) (k : Kernel) : (s.setKernel k).flashCopy = s.flashCopy := rfl
@[simp] theorem State.setKernel_flashOwner (s : State) (k : Kernel) : (s.setKernel k).flashOwner = s.flashOwner := rfl
@[simp] theorem State.setKernel_flashSlots (s : State) (k : Kernel) : (s.setKernel k).flashSlots = s.flashSlots := rfl
@[simp] theorem State.setKernel_logAck (s : State) (k : Kernel) : (s.setKernel k).logAck = s.logAck := rfl
@[simp] theorem State.setKernel_flashWriting (s : State) (k : Kernel) : (s.setKernel k).flashWriting = s.flashWriting := rfl
@[simp] theorem State.setKernel_flashGood (s : State) (k : Kernel) : (s.setKernel k).flashGood = s.flashGood := rfl
@[simp] theorem State.setKernel_turns (s : State) (k : Kernel) : (s.setKernel k).turns = s.turns := rfl
@[simp] theorem State.setKernel_interrupts (s : State) (k : Kernel) : (s.setKernel k).interrupts = s.interrupts := rfl
@[simp] theorem State.setKernel_cur (s : State) (k : Kernel) : (s.setKernel k).cur = s.cur := rfl
@[simp] theorem State.setKernel_agenda (s : State) (k : Kernel) : (s.setKernel k).agenda = s.agenda := rfl
@[simp] theorem State.setKernel_inbox (s : State) (k : Kernel) : (s.setKernel k).inbox = s.inbox := rfl
@[simp] theorem State.setKernel_freeCtr (s : State) (k : Kernel) : (s.setKernel k).freeCtr = s.freeCtr := rfl
@[simp] theorem State.setKernel_savedSets (s : State) (k : Kernel) : (s.setKernel k).savedSets = s.savedSets := rfl
@[simp] theorem State.setKernel_queues (s : State) (k : Kernel) : (s.setKernel k).queues = s.queues := rfl
@[simp] theorem State.setKernel_bricks (s : State) (k : Kernel) : (s.setKernel k).bricks = s.bricks := rfl

/-! ### Fields of a brick under `setSeat` -/

@[simp] theorem State.setSeat_brick_inService (s : State) (b : Fin 8) (q : Fin 4) (x : Seat) (b' : Fin 8) :
    ((s.setSeat b q x).brick b').inService = (s.brick b').inService := by
  rw [State.brick_setSeat]; split <;> simp_all
@[simp] theorem State.setSeat_brick_gbc (s : State) (b : Fin 8) (q : Fin 4) (x : Seat) (b' : Fin 8) :
    ((s.setSeat b q x).brick b').gbc = (s.brick b').gbc := by
  rw [State.brick_setSeat]; split <;> simp_all
@[simp] theorem State.setSeat_brick_bcyc (s : State) (b : Fin 8) (q : Fin 4) (x : Seat) (b' : Fin 8) :
    ((s.setSeat b q x).brick b').bcyc = (s.brick b').bcyc := by
  rw [State.brick_setSeat]; split <;> simp_all
@[simp] theorem State.setSeat_brick_clock (s : State) (b : Fin 8) (q : Fin 4) (x : Seat) (b' : Fin 8) :
    ((s.setSeat b q x).brick b').clock = (s.brick b').clock := by
  rw [State.brick_setSeat]; split <;> simp_all
@[simp] theorem State.setSeat_brick_clockAcc (s : State) (b : Fin 8) (q : Fin 4) (x : Seat) (b' : Fin 8) :
    ((s.setSeat b q x).brick b').clockAcc = (s.brick b').clockAcc := by
  rw [State.brick_setSeat]; split <;> simp_all
@[simp] theorem State.setSeat_brick_throttle (s : State) (b : Fin 8) (q : Fin 4) (x : Seat) (b' : Fin 8) :
    ((s.setSeat b q x).brick b').throttle = (s.brick b').throttle := by
  rw [State.brick_setSeat]; split <;> simp_all
@[simp] theorem State.setSeat_brick_throttled (s : State) (b : Fin 8) (q : Fin 4) (x : Seat) (b' : Fin 8) :
    ((s.setSeat b q x).brick b').throttled = (s.brick b').throttled := by
  rw [State.brick_setSeat]; split <;> simp_all
@[simp] theorem State.setSeat_brick_cycleNow (s : State) (b : Fin 8) (q : Fin 4) (x : Seat) (b' : Fin 8) :
    ((s.setSeat b q x).brick b').cycleNow = (s.brick b').cycleNow := by
  rw [State.brick_setSeat]; split <;> simp_all
@[simp] theorem State.setSeat_brick_slew (s : State) (b : Fin 8) (q : Fin 4) (x : Seat) (b' : Fin 8) :
    ((s.setSeat b q x).brick b').slew = (s.brick b').slew := by
  rw [State.brick_setSeat]; split <;> simp_all
@[simp] theorem State.setSeat_brick_seattab (s : State) (b : Fin 8) (q : Fin 4) (x : Seat) (b' : Fin 8) :
    ((s.setSeat b q x).brick b').seattab = (s.brick b').seattab := by
  rw [State.brick_setSeat]; split <;> simp_all
@[simp] theorem State.setSeat_brick_staged (s : State) (b : Fin 8) (q : Fin 4) (x : Seat) (b' : Fin 8) :
    ((s.setSeat b q x).brick b').staged = (s.brick b').staged := by
  rw [State.brick_setSeat]; split <;> simp_all
@[simp] theorem State.setSeat_brick_seatBad (s : State) (b : Fin 8) (q : Fin 4) (x : Seat) (b' : Fin 8) :
    ((s.setSeat b q x).brick b').seatBad = (s.brick b').seatBad := by
  rw [State.brick_setSeat]; split <;> simp_all
@[simp] theorem State.setSeat_brick_seatWhy (s : State) (b : Fin 8) (q : Fin 4) (x : Seat) (b' : Fin 8) :
    ((s.setSeat b q x).brick b').seatWhy = (s.brick b').seatWhy := by
  rw [State.brick_setSeat]; split <;> simp_all
@[simp] theorem State.setSeat_brick_quarters (s : State) (b : Fin 8) (q : Fin 4) (x : Seat) (b' : Fin 8) :
    ((s.setSeat b q x).brick b').quarters = (s.brick b').quarters := by
  rw [State.brick_setSeat]; split <;> simp_all
@[simp] theorem State.setSeat_brick_tlb (s : State) (b : Fin 8) (q : Fin 4) (x : Seat) (b' : Fin 8) :
    ((s.setSeat b q x).brick b').tlb = (s.brick b').tlb := by
  rw [State.brick_setSeat]; split <;> simp_all
@[simp] theorem State.setSeat_brick_tlbinv (s : State) (b : Fin 8) (q : Fin 4) (x : Seat) (b' : Fin 8) :
    ((s.setSeat b q x).brick b').tlbinv = (s.brick b').tlbinv := by
  rw [State.brick_setSeat]; split <;> simp_all
@[simp] theorem State.setSeat_brick_tlbcnt (s : State) (b : Fin 8) (q : Fin 4) (x : Seat) (b' : Fin 8) :
    ((s.setSeat b q x).brick b').tlbcnt = (s.brick b').tlbcnt := by
  rw [State.brick_setSeat]; split <;> simp_all
@[simp] theorem State.setSeat_brick_tlbPending (s : State) (b : Fin 8) (q : Fin 4) (x : Seat) (b' : Fin 8) :
    ((s.setSeat b q x).brick b').tlbPending = (s.brick b').tlbPending := by
  rw [State.brick_setSeat]; split <;> simp_all
@[simp] theorem State.setSeat_brick_tlbDone (s : State) (b : Fin 8) (q : Fin 4) (x : Seat) (b' : Fin 8) :
    ((s.setSeat b q x).brick b').tlbDone = (s.brick b').tlbDone := by
  rw [State.brick_setSeat]; split <;> simp_all
@[simp] theorem State.setSeat_brick_genadvAsid (s : State) (b : Fin 8) (q : Fin 4) (x : Seat) (b' : Fin 8) :
    ((s.setSeat b q x).brick b').genadvAsid = (s.brick b').genadvAsid := by
  rw [State.brick_setSeat]; split <;> simp_all
@[simp] theorem State.setSeat_brick_genBusy (s : State) (b : Fin 8) (q : Fin 4) (x : Seat) (b' : Fin 8) :
    ((s.setSeat b q x).brick b').genBusy = (s.brick b').genBusy := by
  rw [State.brick_setSeat]; split <;> simp_all
@[simp] theorem State.setSeat_brick_genNext (s : State) (b : Fin 8) (q : Fin 4) (x : Seat) (b' : Fin 8) :
    ((s.setSeat b q x).brick b').genNext = (s.brick b').genNext := by
  rw [State.brick_setSeat]; split <;> simp_all
@[simp] theorem State.setSeat_brick_genDone (s : State) (b : Fin 8) (q : Fin 4) (x : Seat) (b' : Fin 8) :
    ((s.setSeat b q x).brick b').genDone = (s.brick b').genDone := by
  rw [State.brick_setSeat]; split <;> simp_all
@[simp] theorem State.setSeat_brick_genOut (s : State) (b : Fin 8) (q : Fin 4) (x : Seat) (b' : Fin 8) :
    ((s.setSeat b q x).brick b').genOut = (s.brick b').genOut := by
  rw [State.brick_setSeat]; split <;> simp_all
@[simp] theorem State.setSeat_brick_gens (s : State) (b : Fin 8) (q : Fin 4) (x : Seat) (b' : Fin 8) :
    ((s.setSeat b q x).brick b').gens = (s.brick b').gens := by
  rw [State.brick_setSeat]; split <;> simp_all
@[simp] theorem State.setSeat_brick_steward (s : State) (b : Fin 8) (q : Fin 4) (x : Seat) (b' : Fin 8) :
    ((s.setSeat b q x).brick b').steward = (s.brick b').steward := by
  rw [State.brick_setSeat]; split <;> simp_all
@[simp] theorem State.setSeat_brick_tableBad (s : State) (b : Fin 8) (q : Fin 4) (x : Seat) (b' : Fin 8) :
    ((s.setSeat b q x).brick b').tableBad = (s.brick b').tableBad := by
  rw [State.brick_setSeat]; split <;> simp_all
@[simp] theorem State.setSeat_brick_syncOwed (s : State) (b : Fin 8) (q : Fin 4) (x : Seat) (b' : Fin 8) :
    ((s.setSeat b q x).brick b').syncOwed = (s.brick b').syncOwed := by
  rw [State.brick_setSeat]; split <;> simp_all
@[simp] theorem State.setSeat_brick_mrext (s : State) (b : Fin 8) (q : Fin 4) (x : Seat) (b' : Fin 8) :
    ((s.setSeat b q x).brick b').mrext = (s.brick b').mrext := by
  rw [State.brick_setSeat]; split <;> simp_all
@[simp] theorem State.setSeat_brick_logtype (s : State) (b : Fin 8) (q : Fin 4) (x : Seat) (b' : Fin 8) :
    ((s.setSeat b q x).brick b').logtype = (s.brick b').logtype := by
  rw [State.brick_setSeat]; split <;> simp_all
@[simp] theorem State.setSeat_brick_logpay (s : State) (b : Fin 8) (q : Fin 4) (x : Seat) (b' : Fin 8) :
    ((s.setSeat b q x).brick b').logpay = (s.brick b').logpay := by
  rw [State.brick_setSeat]; split <;> simp_all
@[simp] theorem State.setSeat_brick_logDone (s : State) (b : Fin 8) (q : Fin 4) (x : Seat) (b' : Fin 8) :
    ((s.setSeat b q x).brick b').logDone = (s.brick b').logDone := by
  rw [State.brick_setSeat]; split <;> simp_all
@[simp] theorem State.setSeat_brick_logRefused (s : State) (b : Fin 8) (q : Fin 4) (x : Seat) (b' : Fin 8) :
    ((s.setSeat b q x).brick b').logRefused = (s.brick b').logRefused := by
  rw [State.brick_setSeat]; split <;> simp_all
@[simp] theorem State.setSeat_brick_lock (s : State) (b : Fin 8) (q : Fin 4) (x : Seat) (b' : Fin 8) :
    ((s.setSeat b q x).brick b').lock = (s.brick b').lock := by
  rw [State.brick_setSeat]; split <;> simp_all
@[simp] theorem State.setSeat_brick_lost (s : State) (b : Fin 8) (q : Fin 4) (x : Seat) (b' : Fin 8) :
    ((s.setSeat b q x).brick b').lost = (s.brick b').lost := by
  rw [State.brick_setSeat]; split <;> simp_all
@[simp] theorem State.setSeat_brick_offset (s : State) (b : Fin 8) (q : Fin 4) (x : Seat) (b' : Fin 8) :
    ((s.setSeat b q x).brick b').offset = (s.brick b').offset := by
  rw [State.brick_setSeat]; split <;> simp_all
@[simp] theorem State.setSeat_brick_lastSync (s : State) (b : Fin 8) (q : Fin 4) (x : Seat) (b' : Fin 8) :
    ((s.setSeat b q x).brick b').lastSync = (s.brick b').lastSync := by
  rw [State.brick_setSeat]; split <;> simp_all
@[simp] theorem State.setSeat_brick_rly (s : State) (b : Fin 8) (q : Fin 4) (x : Seat) (b' : Fin 8) :
    ((s.setSeat b q x).brick b').rly = (s.brick b').rly := by
  rw [State.brick_setSeat]; split <;> simp_all
@[simp] theorem State.setSeat_brick_telDelta (s : State) (b : Fin 8) (q : Fin 4) (x : Seat) (b' : Fin 8) :
    ((s.setSeat b q x).brick b').telDelta = (s.brick b').telDelta := by
  rw [State.brick_setSeat]; split <;> simp_all
@[simp] theorem State.setSeat_brick_lastDelta (s : State) (b : Fin 8) (q : Fin 4) (x : Seat) (b' : Fin 8) :
    ((s.setSeat b q x).brick b').lastDelta = (s.brick b').lastDelta := by
  rw [State.brick_setSeat]; split <;> simp_all
@[simp] theorem State.setSeat_brick_temperature (s : State) (b : Fin 8) (q : Fin 4) (x : Seat) (b' : Fin 8) :
    ((s.setSeat b q x).brick b').temperature = (s.brick b').temperature := by
  rw [State.brick_setSeat]; split <;> simp_all
@[simp] theorem State.setSeat_brick_linkIrq (s : State) (b : Fin 8) (q : Fin 4) (x : Seat) (b' : Fin 8) :
    ((s.setSeat b q x).brick b').linkIrq = (s.brick b').linkIrq := by
  rw [State.brick_setSeat]; split <;> simp_all
@[simp] theorem State.setSeat_brick_links (s : State) (b : Fin 8) (q : Fin 4) (x : Seat) (b' : Fin 8) :
    ((s.setSeat b q x).brick b').links = (s.brick b').links := by
  rw [State.brick_setSeat]; split <;> simp_all

/-! ### Fields of a brick under `setCtx` -/

@[simp] theorem State.setCtx_brick_inService (s : State) (b : Fin 8) (q : Fin 4) (c : Context) (b' : Fin 8) :
    ((s.setCtx b q c).brick b').inService = (s.brick b').inService :=
  State.setSeat_brick_inService ..
@[simp] theorem State.setCtx_brick_gbc (s : State) (b : Fin 8) (q : Fin 4) (c : Context) (b' : Fin 8) :
    ((s.setCtx b q c).brick b').gbc = (s.brick b').gbc :=
  State.setSeat_brick_gbc ..
@[simp] theorem State.setCtx_brick_bcyc (s : State) (b : Fin 8) (q : Fin 4) (c : Context) (b' : Fin 8) :
    ((s.setCtx b q c).brick b').bcyc = (s.brick b').bcyc :=
  State.setSeat_brick_bcyc ..
@[simp] theorem State.setCtx_brick_clock (s : State) (b : Fin 8) (q : Fin 4) (c : Context) (b' : Fin 8) :
    ((s.setCtx b q c).brick b').clock = (s.brick b').clock :=
  State.setSeat_brick_clock ..
@[simp] theorem State.setCtx_brick_clockAcc (s : State) (b : Fin 8) (q : Fin 4) (c : Context) (b' : Fin 8) :
    ((s.setCtx b q c).brick b').clockAcc = (s.brick b').clockAcc :=
  State.setSeat_brick_clockAcc ..
@[simp] theorem State.setCtx_brick_throttle (s : State) (b : Fin 8) (q : Fin 4) (c : Context) (b' : Fin 8) :
    ((s.setCtx b q c).brick b').throttle = (s.brick b').throttle :=
  State.setSeat_brick_throttle ..
@[simp] theorem State.setCtx_brick_throttled (s : State) (b : Fin 8) (q : Fin 4) (c : Context) (b' : Fin 8) :
    ((s.setCtx b q c).brick b').throttled = (s.brick b').throttled :=
  State.setSeat_brick_throttled ..
@[simp] theorem State.setCtx_brick_cycleNow (s : State) (b : Fin 8) (q : Fin 4) (c : Context) (b' : Fin 8) :
    ((s.setCtx b q c).brick b').cycleNow = (s.brick b').cycleNow :=
  State.setSeat_brick_cycleNow ..
@[simp] theorem State.setCtx_brick_slew (s : State) (b : Fin 8) (q : Fin 4) (c : Context) (b' : Fin 8) :
    ((s.setCtx b q c).brick b').slew = (s.brick b').slew :=
  State.setSeat_brick_slew ..
@[simp] theorem State.setCtx_brick_seattab (s : State) (b : Fin 8) (q : Fin 4) (c : Context) (b' : Fin 8) :
    ((s.setCtx b q c).brick b').seattab = (s.brick b').seattab :=
  State.setSeat_brick_seattab ..
@[simp] theorem State.setCtx_brick_staged (s : State) (b : Fin 8) (q : Fin 4) (c : Context) (b' : Fin 8) :
    ((s.setCtx b q c).brick b').staged = (s.brick b').staged :=
  State.setSeat_brick_staged ..
@[simp] theorem State.setCtx_brick_seatBad (s : State) (b : Fin 8) (q : Fin 4) (c : Context) (b' : Fin 8) :
    ((s.setCtx b q c).brick b').seatBad = (s.brick b').seatBad :=
  State.setSeat_brick_seatBad ..
@[simp] theorem State.setCtx_brick_seatWhy (s : State) (b : Fin 8) (q : Fin 4) (c : Context) (b' : Fin 8) :
    ((s.setCtx b q c).brick b').seatWhy = (s.brick b').seatWhy :=
  State.setSeat_brick_seatWhy ..
@[simp] theorem State.setCtx_brick_quarters (s : State) (b : Fin 8) (q : Fin 4) (c : Context) (b' : Fin 8) :
    ((s.setCtx b q c).brick b').quarters = (s.brick b').quarters :=
  State.setSeat_brick_quarters ..
@[simp] theorem State.setCtx_brick_tlb (s : State) (b : Fin 8) (q : Fin 4) (c : Context) (b' : Fin 8) :
    ((s.setCtx b q c).brick b').tlb = (s.brick b').tlb :=
  State.setSeat_brick_tlb ..
@[simp] theorem State.setCtx_brick_tlbinv (s : State) (b : Fin 8) (q : Fin 4) (c : Context) (b' : Fin 8) :
    ((s.setCtx b q c).brick b').tlbinv = (s.brick b').tlbinv :=
  State.setSeat_brick_tlbinv ..
@[simp] theorem State.setCtx_brick_tlbcnt (s : State) (b : Fin 8) (q : Fin 4) (c : Context) (b' : Fin 8) :
    ((s.setCtx b q c).brick b').tlbcnt = (s.brick b').tlbcnt :=
  State.setSeat_brick_tlbcnt ..
@[simp] theorem State.setCtx_brick_tlbPending (s : State) (b : Fin 8) (q : Fin 4) (c : Context) (b' : Fin 8) :
    ((s.setCtx b q c).brick b').tlbPending = (s.brick b').tlbPending :=
  State.setSeat_brick_tlbPending ..
@[simp] theorem State.setCtx_brick_tlbDone (s : State) (b : Fin 8) (q : Fin 4) (c : Context) (b' : Fin 8) :
    ((s.setCtx b q c).brick b').tlbDone = (s.brick b').tlbDone :=
  State.setSeat_brick_tlbDone ..
@[simp] theorem State.setCtx_brick_genadvAsid (s : State) (b : Fin 8) (q : Fin 4) (c : Context) (b' : Fin 8) :
    ((s.setCtx b q c).brick b').genadvAsid = (s.brick b').genadvAsid :=
  State.setSeat_brick_genadvAsid ..
@[simp] theorem State.setCtx_brick_genBusy (s : State) (b : Fin 8) (q : Fin 4) (c : Context) (b' : Fin 8) :
    ((s.setCtx b q c).brick b').genBusy = (s.brick b').genBusy :=
  State.setSeat_brick_genBusy ..
@[simp] theorem State.setCtx_brick_genNext (s : State) (b : Fin 8) (q : Fin 4) (c : Context) (b' : Fin 8) :
    ((s.setCtx b q c).brick b').genNext = (s.brick b').genNext :=
  State.setSeat_brick_genNext ..
@[simp] theorem State.setCtx_brick_genDone (s : State) (b : Fin 8) (q : Fin 4) (c : Context) (b' : Fin 8) :
    ((s.setCtx b q c).brick b').genDone = (s.brick b').genDone :=
  State.setSeat_brick_genDone ..
@[simp] theorem State.setCtx_brick_genOut (s : State) (b : Fin 8) (q : Fin 4) (c : Context) (b' : Fin 8) :
    ((s.setCtx b q c).brick b').genOut = (s.brick b').genOut :=
  State.setSeat_brick_genOut ..
@[simp] theorem State.setCtx_brick_gens (s : State) (b : Fin 8) (q : Fin 4) (c : Context) (b' : Fin 8) :
    ((s.setCtx b q c).brick b').gens = (s.brick b').gens :=
  State.setSeat_brick_gens ..
@[simp] theorem State.setCtx_brick_steward (s : State) (b : Fin 8) (q : Fin 4) (c : Context) (b' : Fin 8) :
    ((s.setCtx b q c).brick b').steward = (s.brick b').steward :=
  State.setSeat_brick_steward ..
@[simp] theorem State.setCtx_brick_tableBad (s : State) (b : Fin 8) (q : Fin 4) (c : Context) (b' : Fin 8) :
    ((s.setCtx b q c).brick b').tableBad = (s.brick b').tableBad :=
  State.setSeat_brick_tableBad ..
@[simp] theorem State.setCtx_brick_syncOwed (s : State) (b : Fin 8) (q : Fin 4) (c : Context) (b' : Fin 8) :
    ((s.setCtx b q c).brick b').syncOwed = (s.brick b').syncOwed :=
  State.setSeat_brick_syncOwed ..
@[simp] theorem State.setCtx_brick_mrext (s : State) (b : Fin 8) (q : Fin 4) (c : Context) (b' : Fin 8) :
    ((s.setCtx b q c).brick b').mrext = (s.brick b').mrext :=
  State.setSeat_brick_mrext ..
@[simp] theorem State.setCtx_brick_logtype (s : State) (b : Fin 8) (q : Fin 4) (c : Context) (b' : Fin 8) :
    ((s.setCtx b q c).brick b').logtype = (s.brick b').logtype :=
  State.setSeat_brick_logtype ..
@[simp] theorem State.setCtx_brick_logpay (s : State) (b : Fin 8) (q : Fin 4) (c : Context) (b' : Fin 8) :
    ((s.setCtx b q c).brick b').logpay = (s.brick b').logpay :=
  State.setSeat_brick_logpay ..
@[simp] theorem State.setCtx_brick_logDone (s : State) (b : Fin 8) (q : Fin 4) (c : Context) (b' : Fin 8) :
    ((s.setCtx b q c).brick b').logDone = (s.brick b').logDone :=
  State.setSeat_brick_logDone ..
@[simp] theorem State.setCtx_brick_logRefused (s : State) (b : Fin 8) (q : Fin 4) (c : Context) (b' : Fin 8) :
    ((s.setCtx b q c).brick b').logRefused = (s.brick b').logRefused :=
  State.setSeat_brick_logRefused ..
@[simp] theorem State.setCtx_brick_lock (s : State) (b : Fin 8) (q : Fin 4) (c : Context) (b' : Fin 8) :
    ((s.setCtx b q c).brick b').lock = (s.brick b').lock :=
  State.setSeat_brick_lock ..
@[simp] theorem State.setCtx_brick_lost (s : State) (b : Fin 8) (q : Fin 4) (c : Context) (b' : Fin 8) :
    ((s.setCtx b q c).brick b').lost = (s.brick b').lost :=
  State.setSeat_brick_lost ..
@[simp] theorem State.setCtx_brick_offset (s : State) (b : Fin 8) (q : Fin 4) (c : Context) (b' : Fin 8) :
    ((s.setCtx b q c).brick b').offset = (s.brick b').offset :=
  State.setSeat_brick_offset ..
@[simp] theorem State.setCtx_brick_lastSync (s : State) (b : Fin 8) (q : Fin 4) (c : Context) (b' : Fin 8) :
    ((s.setCtx b q c).brick b').lastSync = (s.brick b').lastSync :=
  State.setSeat_brick_lastSync ..
@[simp] theorem State.setCtx_brick_rly (s : State) (b : Fin 8) (q : Fin 4) (c : Context) (b' : Fin 8) :
    ((s.setCtx b q c).brick b').rly = (s.brick b').rly :=
  State.setSeat_brick_rly ..
@[simp] theorem State.setCtx_brick_telDelta (s : State) (b : Fin 8) (q : Fin 4) (c : Context) (b' : Fin 8) :
    ((s.setCtx b q c).brick b').telDelta = (s.brick b').telDelta :=
  State.setSeat_brick_telDelta ..
@[simp] theorem State.setCtx_brick_lastDelta (s : State) (b : Fin 8) (q : Fin 4) (c : Context) (b' : Fin 8) :
    ((s.setCtx b q c).brick b').lastDelta = (s.brick b').lastDelta :=
  State.setSeat_brick_lastDelta ..
@[simp] theorem State.setCtx_brick_temperature (s : State) (b : Fin 8) (q : Fin 4) (c : Context) (b' : Fin 8) :
    ((s.setCtx b q c).brick b').temperature = (s.brick b').temperature :=
  State.setSeat_brick_temperature ..
@[simp] theorem State.setCtx_brick_linkIrq (s : State) (b : Fin 8) (q : Fin 4) (c : Context) (b' : Fin 8) :
    ((s.setCtx b q c).brick b').linkIrq = (s.brick b').linkIrq :=
  State.setSeat_brick_linkIrq ..
@[simp] theorem State.setCtx_brick_links (s : State) (b : Fin 8) (q : Fin 4) (c : Context) (b' : Fin 8) :
    ((s.setCtx b q c).brick b').links = (s.brick b').links :=
  State.setSeat_brick_links ..

/-! ### Fields of a brick under `setLink` -/

@[simp] theorem State.setLink_brick_inService (s : State) (b : Fin 8) (d : Fin 12) (l : Link) (b' : Fin 8) :
    ((s.setLink b d l).brick b').inService = (s.brick b').inService := by
  rw [State.brick_setLink]; split <;> simp_all
@[simp] theorem State.setLink_brick_gbc (s : State) (b : Fin 8) (d : Fin 12) (l : Link) (b' : Fin 8) :
    ((s.setLink b d l).brick b').gbc = (s.brick b').gbc := by
  rw [State.brick_setLink]; split <;> simp_all
@[simp] theorem State.setLink_brick_bcyc (s : State) (b : Fin 8) (d : Fin 12) (l : Link) (b' : Fin 8) :
    ((s.setLink b d l).brick b').bcyc = (s.brick b').bcyc := by
  rw [State.brick_setLink]; split <;> simp_all
@[simp] theorem State.setLink_brick_clock (s : State) (b : Fin 8) (d : Fin 12) (l : Link) (b' : Fin 8) :
    ((s.setLink b d l).brick b').clock = (s.brick b').clock := by
  rw [State.brick_setLink]; split <;> simp_all
@[simp] theorem State.setLink_brick_clockAcc (s : State) (b : Fin 8) (d : Fin 12) (l : Link) (b' : Fin 8) :
    ((s.setLink b d l).brick b').clockAcc = (s.brick b').clockAcc := by
  rw [State.brick_setLink]; split <;> simp_all
@[simp] theorem State.setLink_brick_throttle (s : State) (b : Fin 8) (d : Fin 12) (l : Link) (b' : Fin 8) :
    ((s.setLink b d l).brick b').throttle = (s.brick b').throttle := by
  rw [State.brick_setLink]; split <;> simp_all
@[simp] theorem State.setLink_brick_throttled (s : State) (b : Fin 8) (d : Fin 12) (l : Link) (b' : Fin 8) :
    ((s.setLink b d l).brick b').throttled = (s.brick b').throttled := by
  rw [State.brick_setLink]; split <;> simp_all
@[simp] theorem State.setLink_brick_cycleNow (s : State) (b : Fin 8) (d : Fin 12) (l : Link) (b' : Fin 8) :
    ((s.setLink b d l).brick b').cycleNow = (s.brick b').cycleNow := by
  rw [State.brick_setLink]; split <;> simp_all
@[simp] theorem State.setLink_brick_slew (s : State) (b : Fin 8) (d : Fin 12) (l : Link) (b' : Fin 8) :
    ((s.setLink b d l).brick b').slew = (s.brick b').slew := by
  rw [State.brick_setLink]; split <;> simp_all
@[simp] theorem State.setLink_brick_seattab (s : State) (b : Fin 8) (d : Fin 12) (l : Link) (b' : Fin 8) :
    ((s.setLink b d l).brick b').seattab = (s.brick b').seattab := by
  rw [State.brick_setLink]; split <;> simp_all
@[simp] theorem State.setLink_brick_staged (s : State) (b : Fin 8) (d : Fin 12) (l : Link) (b' : Fin 8) :
    ((s.setLink b d l).brick b').staged = (s.brick b').staged := by
  rw [State.brick_setLink]; split <;> simp_all
@[simp] theorem State.setLink_brick_seatBad (s : State) (b : Fin 8) (d : Fin 12) (l : Link) (b' : Fin 8) :
    ((s.setLink b d l).brick b').seatBad = (s.brick b').seatBad := by
  rw [State.brick_setLink]; split <;> simp_all
@[simp] theorem State.setLink_brick_seatWhy (s : State) (b : Fin 8) (d : Fin 12) (l : Link) (b' : Fin 8) :
    ((s.setLink b d l).brick b').seatWhy = (s.brick b').seatWhy := by
  rw [State.brick_setLink]; split <;> simp_all
@[simp] theorem State.setLink_brick_quarters (s : State) (b : Fin 8) (d : Fin 12) (l : Link) (b' : Fin 8) :
    ((s.setLink b d l).brick b').quarters = (s.brick b').quarters := by
  rw [State.brick_setLink]; split <;> simp_all
@[simp] theorem State.setLink_brick_tlb (s : State) (b : Fin 8) (d : Fin 12) (l : Link) (b' : Fin 8) :
    ((s.setLink b d l).brick b').tlb = (s.brick b').tlb := by
  rw [State.brick_setLink]; split <;> simp_all
@[simp] theorem State.setLink_brick_tlbinv (s : State) (b : Fin 8) (d : Fin 12) (l : Link) (b' : Fin 8) :
    ((s.setLink b d l).brick b').tlbinv = (s.brick b').tlbinv := by
  rw [State.brick_setLink]; split <;> simp_all
@[simp] theorem State.setLink_brick_tlbcnt (s : State) (b : Fin 8) (d : Fin 12) (l : Link) (b' : Fin 8) :
    ((s.setLink b d l).brick b').tlbcnt = (s.brick b').tlbcnt := by
  rw [State.brick_setLink]; split <;> simp_all
@[simp] theorem State.setLink_brick_tlbPending (s : State) (b : Fin 8) (d : Fin 12) (l : Link) (b' : Fin 8) :
    ((s.setLink b d l).brick b').tlbPending = (s.brick b').tlbPending := by
  rw [State.brick_setLink]; split <;> simp_all
@[simp] theorem State.setLink_brick_tlbDone (s : State) (b : Fin 8) (d : Fin 12) (l : Link) (b' : Fin 8) :
    ((s.setLink b d l).brick b').tlbDone = (s.brick b').tlbDone := by
  rw [State.brick_setLink]; split <;> simp_all
@[simp] theorem State.setLink_brick_genadvAsid (s : State) (b : Fin 8) (d : Fin 12) (l : Link) (b' : Fin 8) :
    ((s.setLink b d l).brick b').genadvAsid = (s.brick b').genadvAsid := by
  rw [State.brick_setLink]; split <;> simp_all
@[simp] theorem State.setLink_brick_genBusy (s : State) (b : Fin 8) (d : Fin 12) (l : Link) (b' : Fin 8) :
    ((s.setLink b d l).brick b').genBusy = (s.brick b').genBusy := by
  rw [State.brick_setLink]; split <;> simp_all
@[simp] theorem State.setLink_brick_genNext (s : State) (b : Fin 8) (d : Fin 12) (l : Link) (b' : Fin 8) :
    ((s.setLink b d l).brick b').genNext = (s.brick b').genNext := by
  rw [State.brick_setLink]; split <;> simp_all
@[simp] theorem State.setLink_brick_genDone (s : State) (b : Fin 8) (d : Fin 12) (l : Link) (b' : Fin 8) :
    ((s.setLink b d l).brick b').genDone = (s.brick b').genDone := by
  rw [State.brick_setLink]; split <;> simp_all
@[simp] theorem State.setLink_brick_genOut (s : State) (b : Fin 8) (d : Fin 12) (l : Link) (b' : Fin 8) :
    ((s.setLink b d l).brick b').genOut = (s.brick b').genOut := by
  rw [State.brick_setLink]; split <;> simp_all
@[simp] theorem State.setLink_brick_gens (s : State) (b : Fin 8) (d : Fin 12) (l : Link) (b' : Fin 8) :
    ((s.setLink b d l).brick b').gens = (s.brick b').gens := by
  rw [State.brick_setLink]; split <;> simp_all
@[simp] theorem State.setLink_brick_steward (s : State) (b : Fin 8) (d : Fin 12) (l : Link) (b' : Fin 8) :
    ((s.setLink b d l).brick b').steward = (s.brick b').steward := by
  rw [State.brick_setLink]; split <;> simp_all
@[simp] theorem State.setLink_brick_tableBad (s : State) (b : Fin 8) (d : Fin 12) (l : Link) (b' : Fin 8) :
    ((s.setLink b d l).brick b').tableBad = (s.brick b').tableBad := by
  rw [State.brick_setLink]; split <;> simp_all
@[simp] theorem State.setLink_brick_syncOwed (s : State) (b : Fin 8) (d : Fin 12) (l : Link) (b' : Fin 8) :
    ((s.setLink b d l).brick b').syncOwed = (s.brick b').syncOwed := by
  rw [State.brick_setLink]; split <;> simp_all
@[simp] theorem State.setLink_brick_mrext (s : State) (b : Fin 8) (d : Fin 12) (l : Link) (b' : Fin 8) :
    ((s.setLink b d l).brick b').mrext = (s.brick b').mrext := by
  rw [State.brick_setLink]; split <;> simp_all
@[simp] theorem State.setLink_brick_logtype (s : State) (b : Fin 8) (d : Fin 12) (l : Link) (b' : Fin 8) :
    ((s.setLink b d l).brick b').logtype = (s.brick b').logtype := by
  rw [State.brick_setLink]; split <;> simp_all
@[simp] theorem State.setLink_brick_logpay (s : State) (b : Fin 8) (d : Fin 12) (l : Link) (b' : Fin 8) :
    ((s.setLink b d l).brick b').logpay = (s.brick b').logpay := by
  rw [State.brick_setLink]; split <;> simp_all
@[simp] theorem State.setLink_brick_logDone (s : State) (b : Fin 8) (d : Fin 12) (l : Link) (b' : Fin 8) :
    ((s.setLink b d l).brick b').logDone = (s.brick b').logDone := by
  rw [State.brick_setLink]; split <;> simp_all
@[simp] theorem State.setLink_brick_logRefused (s : State) (b : Fin 8) (d : Fin 12) (l : Link) (b' : Fin 8) :
    ((s.setLink b d l).brick b').logRefused = (s.brick b').logRefused := by
  rw [State.brick_setLink]; split <;> simp_all
@[simp] theorem State.setLink_brick_lock (s : State) (b : Fin 8) (d : Fin 12) (l : Link) (b' : Fin 8) :
    ((s.setLink b d l).brick b').lock = (s.brick b').lock := by
  rw [State.brick_setLink]; split <;> simp_all
@[simp] theorem State.setLink_brick_lost (s : State) (b : Fin 8) (d : Fin 12) (l : Link) (b' : Fin 8) :
    ((s.setLink b d l).brick b').lost = (s.brick b').lost := by
  rw [State.brick_setLink]; split <;> simp_all
@[simp] theorem State.setLink_brick_offset (s : State) (b : Fin 8) (d : Fin 12) (l : Link) (b' : Fin 8) :
    ((s.setLink b d l).brick b').offset = (s.brick b').offset := by
  rw [State.brick_setLink]; split <;> simp_all
@[simp] theorem State.setLink_brick_lastSync (s : State) (b : Fin 8) (d : Fin 12) (l : Link) (b' : Fin 8) :
    ((s.setLink b d l).brick b').lastSync = (s.brick b').lastSync := by
  rw [State.brick_setLink]; split <;> simp_all
@[simp] theorem State.setLink_brick_rly (s : State) (b : Fin 8) (d : Fin 12) (l : Link) (b' : Fin 8) :
    ((s.setLink b d l).brick b').rly = (s.brick b').rly := by
  rw [State.brick_setLink]; split <;> simp_all
@[simp] theorem State.setLink_brick_telDelta (s : State) (b : Fin 8) (d : Fin 12) (l : Link) (b' : Fin 8) :
    ((s.setLink b d l).brick b').telDelta = (s.brick b').telDelta := by
  rw [State.brick_setLink]; split <;> simp_all
@[simp] theorem State.setLink_brick_lastDelta (s : State) (b : Fin 8) (d : Fin 12) (l : Link) (b' : Fin 8) :
    ((s.setLink b d l).brick b').lastDelta = (s.brick b').lastDelta := by
  rw [State.brick_setLink]; split <;> simp_all
@[simp] theorem State.setLink_brick_temperature (s : State) (b : Fin 8) (d : Fin 12) (l : Link) (b' : Fin 8) :
    ((s.setLink b d l).brick b').temperature = (s.brick b').temperature := by
  rw [State.brick_setLink]; split <;> simp_all
@[simp] theorem State.setLink_brick_linkIrq (s : State) (b : Fin 8) (d : Fin 12) (l : Link) (b' : Fin 8) :
    ((s.setLink b d l).brick b').linkIrq = (s.brick b').linkIrq := by
  rw [State.brick_setLink]; split <;> simp_all
@[simp] theorem State.setLink_brick_seats (s : State) (b : Fin 8) (d : Fin 12) (l : Link) (b' : Fin 8) :
    ((s.setLink b d l).brick b').seats = (s.brick b').seats := by
  rw [State.brick_setLink]; split <;> simp_all

/-! ### Fields of a seat under `setCtx` -/

@[simp] theorem State.setCtx_seat_armedReg (s : State) (b b' : Fin 8) (q q' : Fin 4) (c : Context) :
    ((s.setCtx b q c).seat b' q').armedReg = (s.seat b' q').armedReg := by
  rw [State.setCtx, State.seat_setSeat]; split <;> simp_all
@[simp] theorem State.setCtx_seat_captured (s : State) (b b' : Fin 8) (q q' : Fin 4) (c : Context) :
    ((s.setCtx b q c).seat b' q').captured = (s.seat b' q').captured := by
  rw [State.setCtx, State.seat_setSeat]; split <;> simp_all
@[simp] theorem State.setCtx_seat_areaErr (s : State) (b b' : Fin 8) (q q' : Fin 4) (c : Context) :
    ((s.setCtx b q c).seat b' q').areaErr = (s.seat b' q').areaErr := by
  rw [State.setCtx, State.seat_setSeat]; split <;> simp_all
@[simp] theorem State.setCtx_seat_commitIn (s : State) (b b' : Fin 8) (q q' : Fin 4) (c : Context) :
    ((s.setCtx b q c).seat b' q').commitIn = (s.seat b' q').commitIn := by
  rw [State.setCtx, State.seat_setSeat]; split <;> simp_all
@[simp] theorem State.setCtx_seat_runReg (s : State) (b b' : Fin 8) (q q' : Fin 4) (c : Context) :
    ((s.setCtx b q c).seat b' q').runReg = (s.seat b' q').runReg := by
  rw [State.setCtx, State.seat_setSeat]; split <;> simp_all
@[simp] theorem State.setCtx_seat_cause (s : State) (b b' : Fin 8) (q q' : Fin 4) (c : Context) :
    ((s.setCtx b q c).seat b' q').cause = (s.seat b' q').cause := by
  rw [State.setCtx, State.seat_setSeat]; split <;> simp_all
@[simp] theorem State.setCtx_seat_committed (s : State) (b b' : Fin 8) (q q' : Fin 4) (c : Context) :
    ((s.setCtx b q c).seat b' q').committed = (s.seat b' q').committed := by
  rw [State.setCtx, State.seat_setSeat]; split <;> simp_all
@[simp] theorem State.setCtx_seat_preTarget (s : State) (b b' : Fin 8) (q q' : Fin 4) (c : Context) :
    ((s.setCtx b q c).seat b' q').preTarget = (s.seat b' q').preTarget := by
  rw [State.setCtx, State.seat_setSeat]; split <;> simp_all
@[simp] theorem State.setCtx_seat_preEn (s : State) (b b' : Fin 8) (q q' : Fin 4) (c : Context) :
    ((s.setCtx b q c).seat b' q').preEn = (s.seat b' q').preEn := by
  rw [State.setCtx, State.seat_setSeat]; split <;> simp_all
@[simp] theorem State.setCtx_seat_area (s : State) (b b' : Fin 8) (q q' : Fin 4) (c : Context) :
    ((s.setCtx b q c).seat b' q').area = (s.seat b' q').area := by
  rw [State.setCtx, State.seat_setSeat]; split <;> simp_all
@[simp] theorem State.setCtx_seat_busy (s : State) (b b' : Fin 8) (q q' : Fin 4) (c : Context) :
    ((s.setCtx b q c).seat b' q').busy = (s.seat b' q').busy := by
  rw [State.setCtx, State.seat_setSeat]; split <;> simp_all
@[simp] theorem State.setCtx_seat_done (s : State) (b b' : Fin 8) (q q' : Fin 4) (c : Context) :
    ((s.setCtx b q c).seat b' q').done = (s.seat b' q').done := by
  rw [State.setCtx, State.seat_setSeat]; split <;> simp_all
@[simp] theorem State.setCtx_seat_err (s : State) (b b' : Fin 8) (q q' : Fin 4) (c : Context) :
    ((s.setCtx b q c).seat b' q').err = (s.seat b' q').err := by
  rw [State.setCtx, State.seat_setSeat]; split <;> simp_all
@[simp] theorem State.setCtx_seat_saveTo (s : State) (b b' : Fin 8) (q q' : Fin 4) (c : Context) :
    ((s.setCtx b q c).seat b' q').saveTo = (s.seat b' q').saveTo := by
  rw [State.setCtx, State.seat_setSeat]; split <;> simp_all
@[simp] theorem State.setCtx_seat_resaved (s : State) (b b' : Fin 8) (q q' : Fin 4) (c : Context) :
    ((s.setCtx b q c).seat b' q').resaved = (s.seat b' q').resaved := by
  rw [State.setCtx, State.seat_setSeat]; split <;> simp_all
@[simp] theorem State.setCtx_seat_resumeOwed (s : State) (b b' : Fin 8) (q q' : Fin 4) (c : Context) :
    ((s.setCtx b q c).seat b' q').resumeOwed = (s.seat b' q').resumeOwed := by
  rw [State.setCtx, State.seat_setSeat]; split <;> simp_all
@[simp] theorem State.setCtx_seat_share (s : State) (b b' : Fin 8) (q q' : Fin 4) (c : Context) :
    ((s.setCtx b q c).seat b' q').share = (s.seat b' q').share := by
  rw [State.setCtx, State.seat_setSeat]; split <;> simp_all

end Sys2Proof.Machine
end

