-- ==== Sys2Proof/Laws/Memory.lean ====
section
/-! SUPPORT. Sparse maps and byte memories: a read after a write, what a write leaves alone, and that every memory
operation keeps the canonical form. -/

namespace Sys2Proof.Machine

/-! ### Sparse maps -/

theorem mapWfFrom_mono {α : Type} [DecidableEq α] (d : α) {lo lo' : Nat} (l : List (Nat × α)) (h : lo' ≤ lo)
    (w : mapWfFrom d lo l = true) : mapWfFrom d lo' l = true := by
  cases l with
  | nil => rfl
  | cons e t =>
    obtain ⟨k, v⟩ := e
    simp only [mapWfFrom, Bool.and_eq_true, decide_eq_true_eq] at w ⊢
    exact ⟨⟨by omega, w.1.2⟩, w.2⟩

theorem mapGet_of_lt {α : Type} [DecidableEq α] (d : α) {lo a : Nat} (l : List (Nat × α)) (h : a < lo)
    (w : mapWfFrom d lo l = true) : mapGet d l a = d := by
  cases l with
  | nil => rfl
  | cons e t =>
    obtain ⟨k, v⟩ := e
    simp only [mapWfFrom, Bool.and_eq_true, decide_eq_true_eq] at w
    have hk : lo ≤ k := w.1.1
    rw [mapGet, if_neg (by omega), if_pos (by omega)]

/-- A map keeps its canonical form under a write. -/
theorem mapWfFrom_mapSet {α : Type} [DecidableEq α] (d : α) (a : Nat) (v : α) :
    ∀ (l : List (Nat × α)) (lo : Nat), mapWfFrom d lo l = true → lo ≤ a → mapWfFrom d lo (mapSet d l a v) = true
  | [], lo, _, h => by
    unfold mapSet
    split
    · rfl
    · rename_i hv
      simp [mapWfFrom, h, hv]
  | (k, w) :: t, lo, hw, h => by
    simp only [mapWfFrom, Bool.and_eq_true, decide_eq_true_eq] at hw
    obtain ⟨⟨hk, hwd⟩, ht⟩ := hw
    unfold mapSet
    split
    · rename_i hak
      split
      · simp [mapWfFrom, hk, hwd, ht]
      · rename_i hv
        simp [mapWfFrom, h, hv, hwd, ht]
        omega
    · split
      · rename_i hak
        subst hak
        split
        · exact mapWfFrom_mono d t (by omega) ht
        · rename_i hv
          simp [mapWfFrom, hk, hv, ht]
      · have := mapWfFrom_mapSet d a v t (k + 1) ht (by omega)
        simp [mapWfFrom, hk, hwd, this]

/-- A read after a write of a canonical map. -/
theorem mapGet_mapSet {α : Type} [DecidableEq α] (d : α) (a b : Nat) (v : α) :
    ∀ (l : List (Nat × α)) (lo : Nat), mapWfFrom d lo l = true →
      mapGet d (mapSet d l a v) b = if b = a then v else mapGet d l b
  | [], lo, _ => by
    unfold mapSet
    by_cases hv : v = d
    · simp [hv, mapGet]
    · rw [if_neg hv]
      simp only [mapGet]
      split <;> simp_all
  | (k, w) :: t, lo, hw => by
    simp only [mapWfFrom, Bool.and_eq_true, decide_eq_true_eq] at hw
    obtain ⟨⟨hk, hwd⟩, ht⟩ := hw
    unfold mapSet
    by_cases hak : a < k
    · rw [if_pos hak]
      by_cases hv : v = d
      · rw [if_pos hv]
        by_cases hb : b = a
        · subst hb
          rw [if_pos rfl, hv, mapGet, if_neg (by omega), if_pos hak]
        · rw [if_neg hb]
      · rw [if_neg hv]
        by_cases hb : b = a
        · simp [mapGet, hb]
        · rw [if_neg hb]
          conv => lhs; unfold mapGet
          rw [if_neg hb]
          by_cases hlt : b < a
          · rw [if_pos hlt, mapGet, if_neg (by omega), if_pos (by omega)]
          · rw [if_neg hlt]
    · rw [if_neg hak]
      by_cases hak' : a = k
      · subst hak'
        rw [if_pos rfl]
        by_cases hv : v = d
        · rw [if_pos hv]
          by_cases hb : b = a
          · subst hb
            rw [if_pos rfl, hv]
            exact mapGet_of_lt d t (by omega) ht
          · rw [if_neg hb, mapGet, if_neg hb]
            by_cases hlt : b < a
            · rw [if_pos hlt]
              exact mapGet_of_lt d t (by omega) ht
            · rw [if_neg hlt]
        · rw [if_neg hv]
          by_cases hb : b = a
          · simp [mapGet, hb]
          · simp [mapGet, hb]
      · rw [if_neg hak']
        have ih := mapGet_mapSet d a b v t (k + 1) ht
        by_cases hbk : b = k
        · subst hbk
          rw [if_neg (by omega)]
          simp [mapGet]
        · by_cases hlt : b < k
          · rw [if_neg (by omega)]
            simp [mapGet, hbk, hlt]
          · simp only [mapGet, if_neg hbk, if_neg hlt]
            exact ih

theorem mapWf_mapSet {α : Type} [DecidableEq α] (d : α) (l : List (Nat × α)) (a : Nat) (v : α)
    (h : mapWf d l = true) : mapWf d (mapSet d l a v) = true :=
  mapWfFrom_mapSet d a v l 0 h (Nat.zero_le a)

theorem mapGet_mapSet_self {α : Type} [DecidableEq α] (d : α) (l : List (Nat × α)) (a : Nat) (v : α)
    (h : mapWf d l = true) : mapGet d (mapSet d l a v) a = v := by
  simp [mapGet_mapSet d a a v l 0 h]

theorem mapGet_mapSet_ne {α : Type} [DecidableEq α] (d : α) (l : List (Nat × α)) {a b : Nat} (v : α)
    (h : mapWf d l = true) (hb : b ≠ a) : mapGet d (mapSet d l a v) b = mapGet d l b := by
  simp [mapGet_mapSet d a b v l 0 h, hb]

/-- A part of a canonical map is canonical. -/
theorem mapWfFrom_filter {α : Type} [DecidableEq α] (d : α) (p : Nat × α → Bool) :
    ∀ (l : List (Nat × α)) (lo : Nat), mapWfFrom d lo l = true → mapWfFrom d lo (l.filter p) = true
  | [], _, _ => rfl
  | (k, w) :: t, lo, h => by
    simp only [mapWfFrom, Bool.and_eq_true, decide_eq_true_eq] at h
    obtain ⟨⟨hk, hwd⟩, ht⟩ := h
    have ih := mapWfFrom_filter d p t (k + 1) ht
    rw [List.filter_cons]
    split
    · simp [mapWfFrom, hk, hwd, ih]
    · exact mapWfFrom_mono d _ (by omega) ih

/-- A change of the values of a canonical map that gives none the value of an unlisted key keeps the form. -/
theorem mapWfFrom_map {α : Type} [DecidableEq α] (d : α) (f : Nat × α → Nat × α)
    (hf : ∀ e, (f e).1 = e.1) (hd : ∀ e, e.2 ≠ d → (f e).2 ≠ d) :
    ∀ (l : List (Nat × α)) (lo : Nat), mapWfFrom d lo l = true → mapWfFrom d lo (l.map f) = true
  | [], _, _ => rfl
  | (k, w) :: t, lo, h => by
    simp only [mapWfFrom, Bool.and_eq_true, decide_eq_true_eq] at h
    obtain ⟨⟨hk, hwd⟩, ht⟩ := h
    have ih := mapWfFrom_map d f hf hd t (k + 1) ht
    rw [List.map_cons]
    have h1 : (f (k, w)).1 = k := hf (k, w)
    have h2 : (f (k, w)).2 ≠ d := hd (k, w) hwd
    have he : f (k, w) = (k, (f (k, w)).2) := Prod.ext h1 rfl
    rw [he]
    simp [mapWfFrom, hk, h2, ih]

/-! ### Byte memories -/

theorem Memory.wf_nil : Memory.wf [] = true := rfl

theorem Memory.wf_setB (m : List Host.Cell) (a : Nat) (v : Byte) (h : Memory.wf m = true) :
    Memory.wf (setB m a v) = true :=
  mapWf_mapSet 0 m a v h

theorem getB_setB (m : List Host.Cell) (a b : Nat) (v : Byte) (h : Memory.wf m = true) :
    getB (setB m a v) b = if b = a then v else getB m b :=
  mapGet_mapSet 0 a b v m 0 h

theorem Memory.wf_setBytes (l : List Byte) :
    ∀ (m : List Host.Cell) (a : Nat), Memory.wf m = true → Memory.wf (setBytes m a l) = true := by
  induction l with
  | nil => intro m a h; exact h
  | cons x t ih => intro m a h; exact ih _ _ (Memory.wf_setB m a x h)

theorem Memory.wf_setAll (l : List (Nat × Byte)) :
    ∀ m : List Host.Cell, Memory.wf m = true → Memory.wf (setAll m l) = true := by
  induction l with
  | nil => intro m h; exact h
  | cons x t ih => intro m h; exact ih _ (Memory.wf_setB m x.1 x.2 h)

theorem Memory.wf_clearSpan (m : List Host.Cell) (a n : Nat) (h : Memory.wf m = true) :
    Memory.wf (clearSpan m a n) = true :=
  mapWfFrom_filter 0 _ m 0 h

theorem Memory.wf_writeRuns (rs : List (Nat × Nat)) :
    ∀ (m : List Host.Cell) (l : List Byte), Memory.wf m = true → Memory.wf (writeRuns m rs l) = true := by
  induction rs with
  | nil => intro m l h; exact h
  | cons r t ih => intro m l h; exact ih _ _ (Memory.wf_setBytes _ m r.1 h)

theorem Memory.wf_placeSpan (m : List Host.Cell) (a n : Nat) (src : List Host.Cell) (h : Memory.wf m = true) :
    Memory.wf (placeSpan m a n src) = true :=
  Memory.wf_setAll _ _ (Memory.wf_clearSpan m a n h)

theorem mapWfFrom_takeSpan (a n : Nat) : ∀ (m : List Host.Cell) (lo : Nat), mapWfFrom (0 : Byte) lo m = true →
    mapWfFrom (0 : Byte) (lo - a) (takeSpan m a n) = true
  | [], _, _ => rfl
  | (k, w) :: t, lo, h => by
    simp only [mapWfFrom, Bool.and_eq_true, decide_eq_true_eq] at h
    obtain ⟨⟨hk, hwd⟩, ht⟩ := h
    have ih := mapWfFrom_takeSpan a n t (k + 1) ht
    unfold takeSpan at ih ⊢
    rw [List.filter_cons]
    split
    · rename_i hin
      simp only [Bool.and_eq_true, decide_eq_true_eq] at hin
      have he : k + 1 - a = k - a + 1 := by omega
      rw [he] at ih
      simp only [List.map_cons, mapWfFrom, ih, Bool.and_true, Bool.and_eq_true, decide_eq_true_eq]
      exact ⟨by omega, hwd⟩
    · exact mapWfFrom_mono 0 _ (by omega) ih

theorem Memory.wf_takeSpan (m : List Host.Cell) (a n : Nat) (h : Memory.wf m = true) :
    Memory.wf (takeSpan m a n) = true :=
  mapWfFrom_mono 0 _ (Nat.zero_le _) (mapWfFrom_takeSpan a n m 0 h)

/-- The byte at an address after a list of writes: the last that names it, or the byte before. -/
theorem getB_setAll (l : List (Nat × Byte)) :
    ∀ (m : List Host.Cell) (a : Nat), Memory.wf m = true →
      getB (setAll m l) a = (match l.reverse.find? (fun e => e.1 == a) with
        | some e => e.2
        | none => getB m a) := by
  induction l with
  | nil => intro m a h; rfl
  | cons x t ih =>
    intro m a h
    rw [setAll, ih _ a (Memory.wf_setB m x.1 x.2 h), List.reverse_cons, List.find?_append]
    cases ht : t.reverse.find? (fun e => e.1 == a) with
    | some e => simp
    | none =>
      simp only [Option.none_or, List.find?_cons, List.find?_nil, getB_setB m x.1 a x.2 h]
      by_cases hx : x.1 = a
      · simp [hx]
      · have h1 : ¬ a = x.1 := fun e => hx e.symm
        have h2 : (x.1 == a) = false := by simpa using hx
        simp [h1, h2]

/-- A run of bytes leaves every other address alone. -/
theorem getB_setBytes_outside (l : List Byte) :
    ∀ (m : List Host.Cell) (a x : Nat), Memory.wf m = true → x < a ∨ a + l.length ≤ x →
      getB (setBytes m a l) x = getB m x := by
  induction l with
  | nil => intro m a x _ _; rfl
  | cons v t ih =>
    intro m a x h hx
    rw [List.length_cons] at hx
    rw [setBytes, ih _ _ x (Memory.wf_setB m a v h) (by omega), getB_setB m a x v h, if_neg (by omega)]

/-- A run of bytes written reads back. -/
theorem getBytes_setBytes (l : List Byte) :
    ∀ (m : List Host.Cell) (a : Nat), Memory.wf m = true → getBytes (setBytes m a l) a l.length = l := by
  induction l with
  | nil => intro m a _; rfl
  | cons v t ih =>
    intro m a h
    have hw := Memory.wf_setB m a v h
    rw [List.length_cons, getBytes, setBytes, ih _ _ hw,
      getB_setBytes_outside t _ (a + 1) a hw (by omega), getB_setB m a a v h, if_pos rfl]

/-! ### The other maps of a context and a brick -/

theorem mapWf_setTable (c : Context) (n : Nat) (t : Table) (h : mapWf Table.zero c.tables = true) :
    mapWf Table.zero (c.setTable n t).tables = true :=
  mapWf_mapSet Table.zero c.tables n t h

theorem Context.table_setTable (c : Context) (n r : Nat) (t : Table) (h : mapWf Table.zero c.tables = true) :
    (c.setTable n t).table r = if r = n then t else c.table r :=
  mapGet_mapSet Table.zero n r t c.tables 0 h

theorem mapWf_adopt (s : State) (i j : Fin 8) (asid : Nat) (g : BitVec 16)
    (h : mapWf 1 (s.brick j).gens = true) : mapWf 1 ((s.adopt i asid g).brick j).gens = true := by
  unfold State.adopt
  rw [State.brick_setBrick]
  split
  · rename_i hj
    subst hj
    exact mapWf_mapSet 1 _ asid g h
  · exact h

/-! ### Reset -/

theorem Memory.wf_reset : Memory.wf State.reset.mem = true := rfl

end Sys2Proof.Machine
end

