-- ==== Sys2Proof/Laws/PerInstr.lean ====
section
/-! SUPPORT. Statements made of every instruction, one lemma for each constructor of `Instr`. -/

namespace Sys2Proof.Laws.WordFits

/-- The slot word of a well-formed instruction is a 44-bit number (07 R163): no field of the encoder runs over the
opcode. An event has no word. -/
def Statement (i : Instr) : Prop :=
  wellFormed i = true → ∀ w l, encode i = some (w, l) → w < 2 ^ 44

theorem of_some {a w : Nat} {c l : Option (BitVec 44)} (h : some (a, c) = some (w, l)) (ha : a < 2 ^ 44) :
    w < 2 ^ 44 := by
  obtain ⟨rfl, -⟩ := Prod.mk.inj (Option.some.inj h)
  exact ha

theorem of_none {w : Nat} {l : Option (BitVec 44)} {p : Prop} (h : none = some (w, l)) : p := nomatch h

theorem tyCode_lt (x : Ty) : x.code < 14 := by cases x <;> decide

theorem sgnCode_lt (x : Sgn) : x.code < 2 := by cases x <;> decide

theorem mulhFnCode_lt (x : MulhFn) : x.code < 3 := by cases x <;> decide

theorem condCode_lt (x : Cond) : x.code < 10 := by cases x <;> decide

theorem vCondCode_lt (x : VCond) : x.code < 11 := by cases x <;> decide

theorem atomOpCode_lt (x : AtomOp) : x.code < 7 := by cases x <;> decide

theorem combCode_lt (x : Comb) : x.code < 7 := by cases x <;> decide

theorem scopeCode_lt (x : Scope) : x.code < 4 := by cases x <;> decide

theorem modeCode_lt (x : Mode) : x.code < 3 := by cases x <;> decide

theorem acvtScaleCode_lt (x : AcvtScale) : x.code < 3 := by cases x <;> decide

theorem wBitsCode_lt (x : WBits) : x.code < 3 := by cases x <;> decide

theorem bcode_lt (b : Bool) : bcode b < 2 := by cases b <;> decide

theorem immField_lt (i : Imm) : i.field < 2 ^ 18 := by
  cases i with
  | short x => exact x.isLt
  | long l => exact Nat.two_pow_pos 18

theorem liField_lt (i : LiImm) : i.field < 2 ^ 24 := by
  cases i with
  | short x => exact x.isLt
  | long x l => exact Nat.lt_trans x.isLt (by decide)

theorem dispField_lt (i : Disp) : i.field < 2 ^ 14 := by
  cases i with
  | short x => exact x.isLt
  | long l => exact Nat.two_pow_pos 14

theorem encTrio_lt {op : Nat} (g : Fin 16) {d a b ty fn : Nat}
    (ho : op < 1024) (hd : d < 64) (ha : a < 64) (hb : b < 64) (ht : ty < 16) (hf : fn < 256) :
    encTrio op g d a b ty fn < 2 ^ 44 := by
  unfold encTrio
  omega

theorem encQuad_lt {op : Nat} (g : Fin 16) {d a b c ty : Nat}
    (ho : op < 1024) (hd : d < 64) (ha : a < 64) (hb : b < 64) (hc : c < 64) (ht : ty < 16) :
    encQuad op g d a b c ty < 2 ^ 44 := by
  unfold encQuad
  omega

theorem encImm18_lt {op : Nat} (g : Fin 16) {d a imm : Nat}
    (ho : op < 1024) (hd : d < 64) (ha : a < 64) (hi : imm < 2 ^ 18) :
    encImm18 op g d a imm < 2 ^ 44 := by
  unfold encImm18
  omega

theorem encImm24_lt {op : Nat} (g : Fin 16) {d imm : Nat}
    (ho : op < 1024) (hd : d < 64) (hi : imm < 2 ^ 24) :
    encImm24 op g d imm < 2 ^ 44 := by
  unfold encImm24
  omega

theorem encBranch_lt {op : Nat} (g : Fin 16) {tgt l : Nat}
    (ho : op < 1024) (ht : tgt < 2 ^ 16) (hl : l < 64) :
    encBranch op g tgt l < 2 ^ 44 := by
  unfold encBranch
  omega

theorem encMem_lt {op : Nat} (g : Fin 16) {d a disp ty : Nat}
    (ho : op < 1024) (hd : d < 64) (ha : a < 64) (hs : disp < 2 ^ 14) (ht : ty < 16) :
    encMem op g d a disp ty < 2 ^ 44 := by
  unfold encMem
  omega

theorem encMemt_lt {op : Nat} (g : Fin 16) {d a b disp ty : Nat}
    (ho : op < 1024) (hd : d < 64) (ha : a < 64) (hb : b < 64) (hs : disp < 2 ^ 8) (ht : ty < 16) :
    encMemt op g d a b disp ty < 2 ^ 44 := by
  unfold encMemt
  omega

theorem encArm_lt {op : Nat} (g : Fin 16) {s idx a : Nat}
    (ho : op < 1024) (hs : s < 16) (hi : idx < 2 ^ 12) (ha : a < 64) :
    encArm op g s idx a < 2 ^ 44 := by
  unfold encArm
  omega

theorem encEng_lt {op : Nat} (g : Fin 16) {a sa sb sc defer fn : Nat}
    (ho : op < 1024) (ha : a < 64) (h1 : sa < 16) (h2 : sb < 16) (h3 : sc < 16) (hd : defer < 64) (hf : fn < 64) :
    encEng op g a sa sb sc defer fn < 2 ^ 44 := by
  unfold encEng
  omega

theorem encCopy_lt {op : Nat} (g : Fin 16) (a b c k : Fin 32) (defer : Fin 64)
    (ho : op < 1024) :
    encCopy op g a b c k defer < 2 ^ 44 := by
  unfold encCopy
  omega

theorem encDimx_lt {op : Nat} (g : Fin 16) (a b : Fin 32) (dim : Fin 16) (k : Fin 32) {fn : Nat}
    (ho : op < 1024) (hf : fn < 8) :
    encDimx op g a b dim k fn < 2 ^ 44 := by
  unfold encDimx
  omega

theorem encMaskx_lt {op : Nat} (g : Fin 16) {mask a k fn : Nat}
    (ho : op < 1024) (hm : mask < 2 ^ 12) (ha : a < 64) (hk : k < 32) (hf : fn < 8) :
    encMaskx op g mask a k fn < 2 ^ 44 := by
  unfold encMaskx
  omega

theorem encFence_lt {op : Nat} (g : Fin 16) {k scope : Nat}
    (ho : op < 1024) (hk : k < 32) (hs : scope < 4) :
    encFence op g k scope < 2 ^ 44 := by
  unfold encFence
  omega

theorem bundleEntry (b : Fin 8) (q : Fin 4) : Statement (.bundleEntry b q) :=
  fun _ _ _ h => of_none h

theorem contextBeat (b : Fin 8) (q : Fin 4) : Statement (.contextBeat b q) :=
  fun _ _ _ h => of_none h

theorem trailingIdleBeat (b : Fin 8) (q : Fin 4) : Statement (.trailingIdleBeat b q) :=
  fun _ _ _ h => of_none h

theorem qIntervalFault (b : Fin 8) (q : Fin 4) : Statement (.qIntervalFault b q) :=
  fun _ _ _ h => of_none h

theorem freezeBudget (b : Fin 8) (q : Fin 4) : Statement (.freezeBudget b q) :=
  fun _ _ _ h => of_none h

theorem serviceOverrun (b : Fin 8) (q : Fin 4) : Statement (.serviceOverrun b q) :=
  fun _ _ _ h => of_none h

theorem stall (partition : Fin 64) : Statement (.stall partition) :=
  fun _ _ _ h => of_none h

theorem gbcTick (b : Fin 8) : Statement (.gbcTick b) :=
  fun _ _ _ h => of_none h

theorem taskStart (b : Fin 8) (q : Fin 4) : Statement (.taskStart b q) :=
  fun _ _ _ h => of_none h

theorem trapResume (b : Fin 8) (q : Fin 4) : Statement (.trapResume b q) :=
  fun _ _ _ h => of_none h

theorem tapeOverflowService (b : Fin 8) (q : Fin 4) : Statement (.tapeOverflowService b q) :=
  fun _ _ _ h => of_none h

theorem tapeUnderflowService (b : Fin 8) (q : Fin 4) : Statement (.tapeUnderflowService b q) :=
  fun _ _ _ h => of_none h

theorem streamTranslationService (b : Fin 8) (q : Fin 4) (entry : Option (BitVec 52 × Word)) : Statement (.streamTranslationService b q entry) :=
  fun _ _ _ h => of_none h

theorem saturationPolicyService (b : Fin 8) (q : Fin 4) : Statement (.saturationPolicyService b q) :=
  fun _ _ _ h => of_none h

theorem nop (g : Fin 16) : Statement (.nop g) := by
  intro hw w l h
  exact of_some h (by omega)

theorem br (g : Fin 16) (tgt : BitVec 16) : Statement (.br g tgt) := by
  intro hw w l h
  exact of_some h (encBranch_lt _ (by decide) (by omega) (by omega))

theorem brl (g : Fin 16) (l : Fin 32) (tgt : BitVec 16) : Statement (.brl g l tgt) := by
  intro hw w l h
  exact of_some h (encBranch_lt _ (by decide) (by omega) (by omega))

theorem ret (g : Fin 16) (a : Fin 32) : Statement (.ret g a) := by
  intro hw w l h
  exact of_some h (encTrio_lt _ (by decide) (by omega) (by omega) (by omega) (by omega) (by omega))

theorem rft (g : Fin 16) : Statement (.rft g) := by
  intro hw w l h
  exact of_some h (encImm24_lt _ (by decide) (by omega) (by omega))

theorem brloop (g : Fin 16) (tgt : BitVec 16) : Statement (.brloop g tgt) := by
  intro hw w l h
  exact of_some h (encBranch_lt _ (by decide) (by omega) (by omega))

theorem loopb (g : Fin 16) (n : Nat) : Statement (.loopb g n) := by
  intro hw w l h
  simp [wellFormed] at hw
  exact of_some h (encImm24_lt _ (by decide) (by omega) (by omega))

theorem tchk (g : Fin 16) (a : Fin 32) (imm : BitVec 18) : Statement (.tchk g a imm) := by
  intro hw w l h
  exact of_some h (encImm18_lt _ (by decide) (by omega) (by omega) (by omega))

theorem kwait (g : Fin 16) (k : Fin 32) : Statement (.kwait g k) := by
  intro hw w l h
  exact of_some h (encImm24_lt _ (by decide) (by omega) (by omega))

theorem halt (g : Fin 16) : Statement (.halt g) := by
  intro hw w l h
  exact of_some h (encImm24_lt _ (by decide) (by omega) (by omega))

theorem trap (g : Fin 16) (code : BitVec 16) : Statement (.trap g code) := by
  intro hw w l h
  exact of_some h (encImm24_lt _ (by decide) (by omega) (by omega))

theorem csrr (g : Fin 16) (d : Fin 32) (n : BitVec 12) : Statement (.csrr g d n) := by
  intro hw w l h
  exact of_some h (encImm18_lt _ (by decide) (by omega) (by omega) (by omega))

theorem csrw (g : Fin 16) (n : BitVec 12) (a : Fin 32) : Statement (.csrw g n a) := by
  intro hw w l h
  exact of_some h (encImm18_lt _ (by decide) (by omega) (by omega) (by omega))

theorem dreg (g : Fin 16) (d : Fin 16) (a : Fin 32) : Statement (.dreg g d a) := by
  intro hw w l h
  exact of_some h (encImm18_lt _ (by decide) (by omega) (by omega) (by omega))

theorem dmode (g : Fin 16) (m : Mode) : Statement (.dmode g m) := by
  intro hw w l h
  have := modeCode_lt m
  exact of_some h (encImm24_lt _ (by decide) (by omega) (by omega))

theorem tmark (g : Fin 16) (imm : BitVec 16) : Statement (.tmark g imm) := by
  intro hw w l h
  exact of_some h (encImm24_lt _ (by decide) (by omega) (by omega))

theorem add (g : Fin 16) (d a b : Fin 32) : Statement (.add g d a b) := by
  intro hw w l h
  exact of_some h (encTrio_lt _ (by decide) (by omega) (by omega) (by omega) (by omega) (by omega))

theorem addImm (g : Fin 16) (d a : Fin 32) (imm : Imm) : Statement (.addImm g d a imm) := by
  intro hw w l h
  have := immField_lt imm
  exact of_some h (encImm18_lt _ (by decide) (by omega) (by omega) (by omega))

theorem sub (g : Fin 16) (d a b : Fin 32) : Statement (.sub g d a b) := by
  intro hw w l h
  exact of_some h (encTrio_lt _ (by decide) (by omega) (by omega) (by omega) (by omega) (by omega))

theorem mul (g : Fin 16) (d a b : Fin 32) : Statement (.mul g d a b) := by
  intro hw w l h
  exact of_some h (encTrio_lt _ (by decide) (by omega) (by omega) (by omega) (by omega) (by omega))

theorem mulh (g : Fin 16) (d a b : Fin 32) (fn : MulhFn) : Statement (.mulh g d a b fn) := by
  intro hw w l h
  have := mulhFnCode_lt fn
  exact of_some h (encTrio_lt _ (by decide) (by omega) (by omega) (by omega) (by omega) (by omega))

theorem and (g : Fin 16) (d a b : Fin 32) : Statement (.and g d a b) := by
  intro hw w l h
  exact of_some h (encTrio_lt _ (by decide) (by omega) (by omega) (by omega) (by omega) (by omega))

theorem andImm (g : Fin 16) (d a : Fin 32) (imm : Imm) : Statement (.andImm g d a imm) := by
  intro hw w l h
  have := immField_lt imm
  exact of_some h (encImm18_lt _ (by decide) (by omega) (by omega) (by omega))

theorem or (g : Fin 16) (d a b : Fin 32) : Statement (.or g d a b) := by
  intro hw w l h
  exact of_some h (encTrio_lt _ (by decide) (by omega) (by omega) (by omega) (by omega) (by omega))

theorem orImm (g : Fin 16) (d a : Fin 32) (imm : Imm) : Statement (.orImm g d a imm) := by
  intro hw w l h
  have := immField_lt imm
  exact of_some h (encImm18_lt _ (by decide) (by omega) (by omega) (by omega))

theorem xor (g : Fin 16) (d a b : Fin 32) : Statement (.xor g d a b) := by
  intro hw w l h
  exact of_some h (encTrio_lt _ (by decide) (by omega) (by omega) (by omega) (by omega) (by omega))

theorem xorImm (g : Fin 16) (d a : Fin 32) (imm : Imm) : Statement (.xorImm g d a imm) := by
  intro hw w l h
  have := immField_lt imm
  exact of_some h (encImm18_lt _ (by decide) (by omega) (by omega) (by omega))

theorem shl (g : Fin 16) (d a b : Fin 32) : Statement (.shl g d a b) := by
  intro hw w l h
  exact of_some h (encTrio_lt _ (by decide) (by omega) (by omega) (by omega) (by omega) (by omega))

theorem shlImm (g : Fin 16) (d a : Fin 32) (imm : Imm) : Statement (.shlImm g d a imm) := by
  intro hw w l h
  have := immField_lt imm
  exact of_some h (encImm18_lt _ (by decide) (by omega) (by omega) (by omega))

theorem shr (g : Fin 16) (d a b : Fin 32) : Statement (.shr g d a b) := by
  intro hw w l h
  exact of_some h (encTrio_lt _ (by decide) (by omega) (by omega) (by omega) (by omega) (by omega))

theorem shrImm (g : Fin 16) (d a : Fin 32) (imm : Imm) : Statement (.shrImm g d a imm) := by
  intro hw w l h
  have := immField_lt imm
  exact of_some h (encImm18_lt _ (by decide) (by omega) (by omega) (by omega))

theorem sar (g : Fin 16) (d a b : Fin 32) : Statement (.sar g d a b) := by
  intro hw w l h
  exact of_some h (encTrio_lt _ (by decide) (by omega) (by omega) (by omega) (by omega) (by omega))

theorem sarImm (g : Fin 16) (d a : Fin 32) (imm : Imm) : Statement (.sarImm g d a imm) := by
  intro hw w l h
  have := immField_lt imm
  exact of_some h (encImm18_lt _ (by decide) (by omega) (by omega) (by omega))

theorem min (g : Fin 16) (d a b : Fin 32) (fn : Sgn) : Statement (.min g d a b fn) := by
  intro hw w l h
  have := sgnCode_lt fn
  exact of_some h (encTrio_lt _ (by decide) (by omega) (by omega) (by omega) (by omega) (by omega))

theorem max (g : Fin 16) (d a b : Fin 32) (fn : Sgn) : Statement (.max g d a b fn) := by
  intro hw w l h
  have := sgnCode_lt fn
  exact of_some h (encTrio_lt _ (by decide) (by omega) (by omega) (by omega) (by omega) (by omega))

theorem sel (g : Fin 16) (d : Fin 32) (c : Fin 16) (a b : Fin 32) : Statement (.sel g d c a b) := by
  intro hw w l h
  exact of_some h (encQuad_lt _ (by decide) (by omega) (by omega) (by omega) (by omega) (by omega))

theorem cmp (g : Fin 16) (d : Fin 16) (a b : Fin 32) (cond : Cond) : Statement (.cmp g d a b cond) := by
  intro hw w l h
  have := condCode_lt cond
  exact of_some h (encTrio_lt _ (by decide) (by omega) (by omega) (by omega) (by omega) (by omega))

theorem li (g : Fin 16) (d : Fin 32) (imm : LiImm) : Statement (.li g d imm) := by
  intro hw w l h
  have := liField_lt imm
  exact of_some h (encImm24_lt _ (by decide) (by omega) (by omega))

theorem lih (g : Fin 16) (d : Fin 32) (imm : BitVec 24) : Statement (.lih g d imm) := by
  intro hw w l h
  exact of_some h (encImm24_lt _ (by decide) (by omega) (by omega))

theorem clz (g : Fin 16) (d a : Fin 32) : Statement (.clz g d a) := by
  intro hw w l h
  exact of_some h (encTrio_lt _ (by decide) (by omega) (by omega) (by omega) (by omega) (by omega))

theorem popc (g : Fin 16) (d a : Fin 32) : Statement (.popc g d a) := by
  intro hw w l h
  exact of_some h (encTrio_lt _ (by decide) (by omega) (by omega) (by omega) (by omega) (by omega))

theorem lds (g : Fin 16) (d a : Fin 32) (disp : Disp) (ty : Ty) : Statement (.lds g d a disp ty) := by
  intro hw w l h
  have := tyCode_lt ty
  have := dispField_lt disp
  exact of_some h (encMem_lt _ (by decide) (by omega) (by omega) (by omega) (by omega))

theorem sts (g : Fin 16) (a : Fin 32) (disp : Disp) (d : Fin 32) (ty : Ty) : Statement (.sts g a disp d ty) := by
  intro hw w l h
  have := tyCode_lt ty
  have := dispField_lt disp
  exact of_some h (encMem_lt _ (by decide) (by omega) (by omega) (by omega) (by omega))

theorem vld (g : Fin 16) (d : Fin 64) (a : Fin 32) (disp : Disp) (ty : Ty) : Statement (.vld g d a disp ty) := by
  intro hw w l h
  have := tyCode_lt ty
  have := dispField_lt disp
  exact of_some h (encMem_lt _ (by decide) (by omega) (by omega) (by omega) (by omega))

theorem vldt (g : Fin 16) (d : Fin 64) (a : Fin 32) (disp : BitVec 8) (b : Fin 32) (ty : Ty) : Statement (.vldt g d a disp b ty) := by
  intro hw w l h
  have := tyCode_lt ty
  exact of_some h (encMemt_lt _ (by decide) (by omega) (by omega) (by omega) (by omega) (by omega))

theorem vst (g : Fin 16) (a : Fin 32) (disp : Disp) (d : Fin 64) (ty : Ty) : Statement (.vst g a disp d ty) := by
  intro hw w l h
  have := tyCode_lt ty
  have := dispField_lt disp
  exact of_some h (encMem_lt _ (by decide) (by omega) (by omega) (by omega) (by omega))

theorem vatom (g : Fin 16) (d : Fin 64) (a : Fin 32) (b : Fin 64) (ty : Ty) (op : AtomOp) (noret : Bool) : Statement (.vatom g d a b ty op noret) := by
  intro hw w l h
  have := tyCode_lt ty
  have := atomOpCode_lt op
  have := bcode_lt noret
  exact of_some h (encTrio_lt _ (by decide) (by omega) (by omega) (by omega) (by omega) (by omega))

theorem vgath (g : Fin 16) (d : Fin 64) (a : Fin 32) (b : Fin 64) (ty : Ty) : Statement (.vgath g d a b ty) := by
  intro hw w l h
  have := tyCode_lt ty
  exact of_some h (encTrio_lt _ (by decide) (by omega) (by omega) (by omega) (by omega) (by omega))

theorem vscat (g : Fin 16) (a : Fin 32) (b : Fin 64) (d : Fin 64) (ty : Ty) : Statement (.vscat g a b d ty) := by
  intro hw w l h
  have := tyCode_lt ty
  exact of_some h (encTrio_lt _ (by decide) (by omega) (by omega) (by omega) (by omega) (by omega))

theorem vadd (g : Fin 16) (d a b : Fin 64) (ty : Ty) : Statement (.vadd g d a b ty) := by
  intro hw w l h
  have := tyCode_lt ty
  exact of_some h (encTrio_lt _ (by decide) (by omega) (by omega) (by omega) (by omega) (by omega))

theorem vsub (g : Fin 16) (d a b : Fin 64) (ty : Ty) : Statement (.vsub g d a b ty) := by
  intro hw w l h
  have := tyCode_lt ty
  exact of_some h (encTrio_lt _ (by decide) (by omega) (by omega) (by omega) (by omega) (by omega))

theorem vmul (g : Fin 16) (d a b : Fin 64) (ty : Ty) : Statement (.vmul g d a b ty) := by
  intro hw w l h
  have := tyCode_lt ty
  exact of_some h (encTrio_lt _ (by decide) (by omega) (by omega) (by omega) (by omega) (by omega))

theorem vfma (g : Fin 16) (d a b c : Fin 64) (ty : Ty) : Statement (.vfma g d a b c ty) := by
  intro hw w l h
  have := tyCode_lt ty
  exact of_some h (encQuad_lt _ (by decide) (by omega) (by omega) (by omega) (by omega) (by omega))

theorem vmin (g : Fin 16) (d a b : Fin 64) (ty : Ty) : Statement (.vmin g d a b ty) := by
  intro hw w l h
  have := tyCode_lt ty
  exact of_some h (encTrio_lt _ (by decide) (by omega) (by omega) (by omega) (by omega) (by omega))

theorem vmax (g : Fin 16) (d a b : Fin 64) (ty : Ty) : Statement (.vmax g d a b ty) := by
  intro hw w l h
  have := tyCode_lt ty
  exact of_some h (encTrio_lt _ (by decide) (by omega) (by omega) (by omega) (by omega) (by omega))

theorem vabs (g : Fin 16) (d a : Fin 64) (ty : Ty) : Statement (.vabs g d a ty) := by
  intro hw w l h
  have := tyCode_lt ty
  exact of_some h (encTrio_lt _ (by decide) (by omega) (by omega) (by omega) (by omega) (by omega))

theorem vcmp (g : Fin 16) (d : Fin 16) (a b : Fin 64) (ty : Ty) (cond : VCond) : Statement (.vcmp g d a b ty cond) := by
  intro hw w l h
  have := tyCode_lt ty
  have := vCondCode_lt cond
  exact of_some h (encTrio_lt _ (by decide) (by omega) (by omega) (by omega) (by omega) (by omega))

theorem vsel (g : Fin 16) (d : Fin 64) (c : Fin 16) (a b : Fin 64) (ty : Ty) : Statement (.vsel g d c a b ty) := by
  intro hw w l h
  have := tyCode_lt ty
  exact of_some h (encQuad_lt _ (by decide) (by omega) (by omega) (by omega) (by omega) (by omega))

theorem vbcast (g : Fin 16) (d : Fin 64) (a : Fin 32) (ty : Ty) : Statement (.vbcast g d a ty) := by
  intro hw w l h
  have := tyCode_lt ty
  exact of_some h (encTrio_lt _ (by decide) (by omega) (by omega) (by omega) (by omega) (by omega))

theorem vperm (g : Fin 16) (d a b : Fin 64) (ty : Ty) : Statement (.vperm g d a b ty) := by
  intro hw w l h
  have := tyCode_lt ty
  exact of_some h (encTrio_lt _ (by decide) (by omega) (by omega) (by omega) (by omega) (by omega))

theorem vcvt (g : Fin 16) (d a : Fin 64) (dst src : Ty) (c : Fin 16) : Statement (.vcvt g d a dst src c) := by
  intro hw w l h
  have := tyCode_lt dst
  have := tyCode_lt src
  exact of_some h (encTrio_lt _ (by decide) (by omega) (by omega) (by omega) (by omega) (by omega))

theorem vexp2 (g : Fin 16) (d a : Fin 64) (ty : Ty) : Statement (.vexp2 g d a ty) := by
  intro hw w l h
  have := tyCode_lt ty
  exact of_some h (encTrio_lt _ (by decide) (by omega) (by omega) (by omega) (by omega) (by omega))

theorem vlog2 (g : Fin 16) (d a : Fin 64) (ty : Ty) : Statement (.vlog2 g d a ty) := by
  intro hw w l h
  have := tyCode_lt ty
  exact of_some h (encTrio_lt _ (by decide) (by omega) (by omega) (by omega) (by omega) (by omega))

theorem vrcp (g : Fin 16) (d a : Fin 64) (ty : Ty) : Statement (.vrcp g d a ty) := by
  intro hw w l h
  have := tyCode_lt ty
  exact of_some h (encTrio_lt _ (by decide) (by omega) (by omega) (by omega) (by omega) (by omega))

theorem vrsq (g : Fin 16) (d a : Fin 64) (ty : Ty) : Statement (.vrsq g d a ty) := by
  intro hw w l h
  have := tyCode_lt ty
  exact of_some h (encTrio_lt _ (by decide) (by omega) (by omega) (by omega) (by omega) (by omega))

theorem vredadd (g : Fin 16) (d : Fin 32) (a : Fin 64) (ty : Ty) : Statement (.vredadd g d a ty) := by
  intro hw w l h
  have := tyCode_lt ty
  exact of_some h (encTrio_lt _ (by decide) (by omega) (by omega) (by omega) (by omega) (by omega))

theorem sarm (g : Fin 16) (s : Fin 16) (idx : BitVec 12) (a : Fin 32) : Statement (.sarm g s idx a) := by
  intro hw w l h
  exact of_some h (encArm_lt _ (by decide) (by omega) (by omega) (by omega))

theorem mxmm (g : Fin 16) (a : Fin 32) (sa sb sc : Fin 16) (defer : Fin 64) (int init : Bool) : Statement (.mxmm g a sa sb sc defer int init) := by
  intro hw w l h
  have := bcode_lt int
  have := bcode_lt init
  exact of_some h (encEng_lt _ (by decide) (by omega) (by omega) (by omega) (by omega) (by omega) (by omega))

theorem acq (g : Fin 16) (d : Fin 32) (n : Nat) : Statement (.acq g d n) := by
  intro hw w l h
  simp [wellFormed] at hw
  exact of_some h (encImm24_lt _ (by decide) (by omega) (by omega))

theorem arls (g : Fin 16) (a : Fin 32) : Statement (.arls g a) := by
  intro hw w l h
  exact of_some h (encTrio_lt _ (by decide) (by omega) (by omega) (by omega) (by omega) (by omega))

theorem azero (g : Fin 16) (a : Fin 32) : Statement (.azero g a) := by
  intro hw w l h
  exact of_some h (encTrio_lt _ (by decide) (by omega) (by omega) (by omega) (by omega) (by omega))

theorem ard (g : Fin 16) (d : Fin 64) (a : Fin 32) (clr : Bool) : Statement (.ard g d a clr) := by
  intro hw w l h
  have := bcode_lt clr
  exact of_some h (encTrio_lt _ (by decide) (by omega) (by omega) (by omega) (by omega) (by omega))

theorem acvt (g : Fin 16) (a : Fin 32) (s : Fin 16) (scale : AcvtScale) (sc : Fin 16) (defer : Fin 64) (ftz int : Bool) : Statement (.acvt g a s scale sc defer ftz int) := by
  intro hw w l h
  have := acvtScaleCode_lt scale
  have := bcode_lt ftz
  have := bcode_lt int
  exact of_some h (encEng_lt _ (by decide) (by omega) (by omega) (by omega) (by omega) (by omega) (by omega))

theorem ltbuild (g : Fin 16) (a : Fin 32) (s : Fin 16) (defer : Fin 64) : Statement (.ltbuild g a s defer) := by
  intro hw w l h
  exact of_some h (encEng_lt _ (by decide) (by omega) (by omega) (by omega) (by omega) (by omega) (by omega))

theorem ltlook (g : Fin 16) (a : Fin 32) (w t sel : Fin 16) (defer : Fin 64) (int init : Bool) (wb : WBits) (sq : Bool) : Statement (.ltlook g a w t sel defer int init wb sq) := by
  intro hw w l h
  have := wBitsCode_lt wb
  have := bcode_lt int
  have := bcode_lt init
  have := bcode_lt sq
  exact of_some h (encEng_lt _ (by decide) (by omega) (by omega) (by omega) (by omega) (by omega) (by omega))

theorem ltinv (g : Fin 16) (a b : Fin 32) : Statement (.ltinv g a b) := by
  intro hw w l h
  exact of_some h (encTrio_lt _ (by decide) (by omega) (by omega) (by omega) (by omega) (by omega))

theorem ltspill (g : Fin 16) (a : Fin 32) (s : Fin 16) (defer : Fin 64) : Statement (.ltspill g a s defer) := by
  intro hw w l h
  exact of_some h (encEng_lt _ (by decide) (by omega) (by omega) (by omega) (by omega) (by omega) (by omega))

theorem ltfill (g : Fin 16) (a : Fin 32) (s : Fin 16) (defer : Fin 64) : Statement (.ltfill g a s defer) := by
  intro hw w l h
  exact of_some h (encEng_lt _ (by decide) (by omega) (by omega) (by omega) (by omega) (by omega) (by omega))

theorem ltstat (g : Fin 16) (d a : Fin 32) : Statement (.ltstat g d a) := by
  intro hw w l h
  exact of_some h (encTrio_lt _ (by decide) (by omega) (by omega) (by omega) (by omega) (by omega))

theorem cpld (g : Fin 16) (a b c : Fin 32) (k : Fin 32) (defer : Fin 64) : Statement (.cpld g a b c k defer) := by
  intro hw w l h
  exact of_some h (encCopy_lt _ _ _ _ _ _ (by decide))

theorem cpst (g : Fin 16) (a b c : Fin 32) (k : Fin 32) (defer : Fin 64) : Statement (.cpst g a b c k defer) := by
  intro hw w l h
  exact of_some h (encCopy_lt _ _ _ _ _ _ (by decide))

theorem cpfill (g : Fin 16) (a b c : Fin 32) (k : Fin 32) (defer : Fin 64) : Statement (.cpfill g a b c k defer) := by
  intro hw w l h
  exact of_some h (encCopy_lt _ _ _ _ _ _ (by decide))

theorem cpga (g : Fin 16) (a b c : Fin 32) (k : Fin 32) (defer : Fin 64) : Statement (.cpga g a b c k defer) := by
  intro hw w l h
  exact of_some h (encCopy_lt _ _ _ _ _ _ (by decide))

theorem cpsc (g : Fin 16) (a b c : Fin 32) (k : Fin 32) (defer : Fin 64) : Statement (.cpsc g a b c k defer) := by
  intro hw w l h
  exact of_some h (encCopy_lt _ _ _ _ _ _ (by decide))

theorem cpsq (g : Fin 16) (a b c : Fin 32) (k : Fin 32) (defer : Fin 64) : Statement (.cpsq g a b c k defer) := by
  intro hw w l h
  exact of_some h (encCopy_lt _ _ _ _ _ _ (by decide))

theorem cpat (g : Fin 16) (a b c : Fin 32) (k : Fin 32) (defer : Fin 64) : Statement (.cpat g a b c k defer) := by
  intro hw w l h
  exact of_some h (encCopy_lt _ _ _ _ _ _ (by decide))

theorem fenci (g : Fin 16) (k : Fin 32) (scope : Scope) : Statement (.fenci g k scope) := by
  intro hw w l h
  have := scopeCode_lt scope
  exact of_some h (encFence_lt _ (by decide) (by omega) (by omega))

theorem fencw (g : Fin 16) (k : Fin 32) : Statement (.fencw g k) := by
  intro hw w l h
  exact of_some h (encFence_lt _ (by decide) (by omega) (by omega))

theorem xch (g : Fin 16) (dim : Fin 16) (a b : Fin 32) (k : Fin 32) : Statement (.xch g dim a b k) := by
  intro hw w l h
  exact of_some h (encDimx_lt _ _ _ _ _ (by decide) (by omega))

theorem xcc (g : Fin 16) (dim : Fin 16) (a b : Fin 32) (k : Fin 32) (comb : Comb) : Statement (.xcc g dim a b k comb) := by
  intro hw w l h
  have := combCode_lt comb
  exact of_some h (encDimx_lt _ _ _ _ _ (by decide) (by omega))

theorem xsib (g : Fin 16) (dim : Fin 16) (a b : Fin 32) (k : Fin 32) (v : Bool) : Statement (.xsib g dim a b k v) := by
  intro hw w l h
  have := bcode_lt v
  exact of_some h (encDimx_lt _ _ _ _ _ (by decide) (by omega))

theorem xgs (g : Fin 16) (mask : BitVec 12) (a : Fin 32) (k : Fin 32) (back : Bool) : Statement (.xgs g mask a k back) := by
  intro hw w l h
  have := bcode_lt back
  exact of_some h (encMaskx_lt _ (by decide) (by omega) (by omega) (by omega) (by omega))

theorem xbar (g : Fin 16) (mask : BitVec 12) (k : Fin 32) : Statement (.xbar g mask k) := by
  intro hw w l h
  exact of_some h (encMaskx_lt _ (by decide) (by omega) (by omega) (by omega) (by omega))

theorem xat (g : Fin 16) (dim : Fin 16) (a b : Fin 32) (k : Fin 32) (op : AtomOp) : Statement (.xat g dim a b k op) := by
  intro hw w l h
  have := atomOpCode_lt op
  exact of_some h (encDimx_lt _ _ _ _ _ (by decide) (by omega))

theorem copyEngineStart (b : Fin 8) (q : Fin 4) (op : Nat) : Statement (.copyEngineStart b q op) :=
  fun _ _ _ h => of_none h

theorem homeAccess (b : Fin 8) (q : Fin 4) (op : Nat) (span : Nat) : Statement (.homeAccess b q op span) :=
  fun _ _ _ h => of_none h

theorem landingGranule (b : Fin 8) (q : Fin 4) (op : Nat) (granule : Nat) : Statement (.landingGranule b q op granule) :=
  fun _ _ _ h => of_none h

theorem copyCompletion (b : Fin 8) (q : Fin 4) (op : Nat) : Statement (.copyCompletion b q op) :=
  fun _ _ _ h => of_none h

theorem fenceCompletion (b : Fin 8) (q : Fin 4) (op : Nat) : Statement (.fenceCompletion b q op) :=
  fun _ _ _ h => of_none h

theorem scaleQueuePush (b : Fin 8) (q : Fin 4) (op : Nat) : Statement (.scaleQueuePush b q op) :=
  fun _ _ _ h => of_none h

theorem globalStreamFetch (b : Fin 8) (q : Fin 4) (cmd : Nat) (side : Bool) (step : Nat) : Statement (.globalStreamFetch b q cmd side step) :=
  fun _ _ _ h => of_none h

theorem exchangeArrival (b : Fin 8) (d : Fin 12) : Statement (.exchangeArrival b d) :=
  fun _ _ _ h => of_none h

theorem exchangeCompletion (b : Fin 8) (d : Fin 12) : Statement (.exchangeCompletion b d) :=
  fun _ _ _ h => of_none h

theorem xccCombine (b : Fin 8) (d : Fin 12) : Statement (.xccCombine b d) :=
  fun _ _ _ h => of_none h

theorem xatArrival (b : Fin 8) (d : Fin 12) : Statement (.xatArrival b d) :=
  fun _ _ _ h => of_none h

theorem barrierFlit (b : Fin 8) (d : Fin 12) : Statement (.barrierFlit b d) :=
  fun _ _ _ h => of_none h

theorem doorbell (q : Fin 64) (t : BitVec 16) : Statement (.doorbell q t) :=
  fun _ _ _ h => of_none h

theorem cheadWrite (q : Fin 64) (h : BitVec 16) : Statement (.cheadWrite q h) :=
  fun _ _ _ h => of_none h

theorem launchRecordTake (q : Fin 64) : Statement (.launchRecordTake q) :=
  fun _ _ _ h => of_none h

theorem seatTableApply (b : Fin 8) : Statement (.seatTableApply b) :=
  fun _ _ _ h => of_none h

theorem startArm (b : Fin 8) (q : Fin 4) : Statement (.startArm b q) :=
  fun _ _ _ h => of_none h

theorem startCommit (b : Fin 8) (q : Fin 4) : Statement (.startCommit b q) :=
  fun _ _ _ h => of_none h

theorem startCancel (b : Fin 8) (q : Fin 4) : Statement (.startCancel b q) :=
  fun _ _ _ h => of_none h

theorem preemptionTarget (b : Fin 8) (q : Fin 4) (v : Word) : Statement (.preemptionTarget b q v) :=
  fun _ _ _ h => of_none h

theorem lightSave (b : Fin 8) (q : Fin 4) (v : Word) : Statement (.lightSave b q v) :=
  fun _ _ _ h => of_none h

theorem heavySave (b : Fin 8) (q : Fin 4) (v : Word) : Statement (.heavySave b q v) :=
  fun _ _ _ h => of_none h

theorem saveComplete (b : Fin 8) (q : Fin 4) : Statement (.saveComplete b q) :=
  fun _ _ _ h => of_none h

theorem saveDrainTimeout (b : Fin 8) (q : Fin 4) : Statement (.saveDrainTimeout b q) :=
  fun _ _ _ h => of_none h

theorem contextRestore (b : Fin 8) (q : Fin 4) (v : Word) : Statement (.contextRestore b q v) :=
  fun _ _ _ h => of_none h

theorem contextRelease (b : Fin 8) (q : Fin 4) : Statement (.contextRelease b q) :=
  fun _ _ _ h => of_none h

theorem contextResume (b : Fin 8) (q : Fin 4) : Statement (.contextResume b q) :=
  fun _ _ _ h => of_none h

theorem scrub (b : Fin 8) (quarter : Fin 4) : Statement (.scrub b quarter) :=
  fun _ _ _ h => of_none h

theorem scrubComplete (b : Fin 8) (quarter : Fin 4) (ok : Bool) : Statement (.scrubComplete b quarter ok) :=
  fun _ _ _ h => of_none h

theorem tlbWalk (b : Fin 8) (asid gen : BitVec 16) (va : BitVec 52) : Statement (.tlbWalk b asid gen va) :=
  fun _ _ _ h => of_none h

theorem translationService (b : Fin 8) (q : Fin 4) (op : Nat) (entry : Option (BitVec 52 × Word)) : Statement (.translationService b q op entry) :=
  fun _ _ _ h => of_none h

theorem tlbInvalidate (b : Fin 8) : Statement (.tlbInvalidate b) :=
  fun _ _ _ h => of_none h

theorem tlbInvalidateDone (b : Fin 8) : Statement (.tlbInvalidateDone b) :=
  fun _ _ _ h => of_none h

theorem generationAdvance (b : Fin 8) (v : Word) : Statement (.generationAdvance b v) :=
  fun _ _ _ h => of_none h

theorem generationAdvanceDone (b : Fin 8) : Statement (.generationAdvanceDone b) :=
  fun _ _ _ h => of_none h

theorem powerUp : Statement .powerUp :=
  fun _ _ _ h => of_none h

theorem measurementExtend (b : Fin 8) (reg : Fin 4) : Statement (.measurementExtend b reg) :=
  fun _ _ _ h => of_none h

theorem recoveryImage (image : List Byte) : Statement (.recoveryImage image) :=
  fun _ _ _ h => of_none h

theorem claim (pa : BitVec 52) : Statement (.claim pa) :=
  fun _ _ _ h => of_none h

theorem enrol (pa : BitVec 52) : Statement (.enrol pa) :=
  fun _ _ _ h => of_none h

theorem remove (pa : BitVec 52) : Statement (.remove pa) :=
  fun _ _ _ h => of_none h

theorem relinquish (pa : BitVec 52) : Statement (.relinquish pa) :=
  fun _ _ _ h => of_none h

theorem attestationRequest (nonce : BitVec 256) : Statement (.attestationRequest nonce) :=
  fun _ _ _ h => of_none h

theorem attestationDone : Statement .attestationDone :=
  fun _ _ _ h => of_none h

theorem logAppend (b : Fin 8) : Statement (.logAppend b) :=
  fun _ _ _ h => of_none h

theorem logAck (seq : Word) : Statement (.logAck seq) :=
  fun _ _ _ h => of_none h

theorem logPageSelect (seq : Word) : Statement (.logPageSelect seq) :=
  fun _ _ _ h => of_none h

theorem sealreq : Statement .sealreq :=
  fun _ _ _ h => of_none h

theorem logSeal : Statement .logSeal :=
  fun _ _ _ h => of_none h

theorem linkTrain (b : Fin 8) (d : Fin 12) : Statement (.linkTrain b d) :=
  fun _ _ _ h => of_none h

theorem linkTrainingDone (b : Fin 8) (d : Fin 12) (peer : BitVec 12) : Statement (.linkTrainingDone b d peer) :=
  fun _ _ _ h => of_none h

theorem trainingTimeout (b : Fin 8) (d : Fin 12) : Statement (.trainingTimeout b d) :=
  fun _ _ _ h => of_none h

theorem linkDown (b : Fin 8) (d : Fin 12) (train : Bool) : Statement (.linkDown b d train) :=
  fun _ _ _ h => of_none h

theorem flitReceive (b : Fin 8) (d : Fin 12) (flit : Flit) : Statement (.flitReceive b d flit) :=
  fun _ _ _ h => of_none h

theorem replay (b : Fin 8) (d : Fin 12) : Statement (.replay b d) :=
  fun _ _ _ h => of_none h

theorem keepAlive (b : Fin 8) (d : Fin 12) : Statement (.keepAlive b d) :=
  fun _ _ _ h => of_none h

theorem keepAliveTimeout (b : Fin 8) (d : Fin 12) : Statement (.keepAliveTimeout b d) :=
  fun _ _ _ h => of_none h

theorem lossOfSignal (b : Fin 8) (d : Fin 12) : Statement (.lossOfSignal b d) :=
  fun _ _ _ h => of_none h

theorem syncFlitSend (b : Fin 8) (d : Fin 12) : Statement (.syncFlitSend b d) :=
  fun _ _ _ h => of_none h

theorem syncFlitReceive (b : Fin 8) (gbc : Word) : Statement (.syncFlitReceive b gbc) :=
  fun _ _ _ h => of_none h

theorem syncLost (b : Fin 8) : Statement (.syncLost b) :=
  fun _ _ _ h => of_none h

theorem detourOpen (b : Fin 8) (d : Fin 12) (v : Word) : Statement (.detourOpen b d v) :=
  fun _ _ _ h => of_none h

theorem detourClose (b : Fin 8) (d : Fin 12) : Statement (.detourClose b d) :=
  fun _ _ _ h => of_none h

theorem detourCloseDone (b : Fin 8) (d : Fin 12) : Statement (.detourCloseDone b d) :=
  fun _ _ _ h => of_none h

theorem allocationWrite (q : Fin 64) (v : Word) : Statement (.allocationWrite q v) :=
  fun _ _ _ h => of_none h

theorem standby : Statement .standby :=
  fun _ _ _ h => of_none h

theorem standbyExit : Statement .standbyExit :=
  fun _ _ _ h => of_none h

theorem powerCap (v : Word) : Statement (.powerCap v) :=
  fun _ _ _ h => of_none h

theorem thermalThrottle (b : Fin 8) : Statement (.thermalThrottle b) :=
  fun _ _ _ h => of_none h

theorem thermalTrip (b : Fin 8) : Statement (.thermalTrip b) :=
  fun _ _ _ h => of_none h

theorem uncorrectableError (b : Fin 8) (place : ErrPlace) : Statement (.uncorrectableError b place) :=
  fun _ _ _ h => of_none h

theorem telemetrySelect (v : Word) : Statement (.telemetrySelect v) :=
  fun _ _ _ h => of_none h

theorem telemetryClear : Statement .telemetryClear :=
  fun _ _ _ h => of_none h

theorem telemetryDelta (b : Fin 8) : Statement (.telemetryDelta b) :=
  fun _ _ _ h => of_none h

theorem temperatureSample (b : Fin 8) (t : Int) : Statement (.temperatureSample b t) :=
  fun _ _ _ h => of_none h

theorem registerWrite (r : PlainReg) (v : Word) : Statement (.registerWrite r v) :=
  fun _ _ _ h => of_none h

theorem powerLoss : Statement .powerLoss :=
  fun _ _ _ h => of_none h

theorem hostMemoryAccess (offset : BitVec 38) (write : Option (List Byte)) : Statement (.hostMemoryAccess offset write) :=
  fun _ _ _ h => of_none h

theorem correctedError (b : Fin 8) (place : EccPlace) : Statement (.correctedError b place) :=
  fun _ _ _ h => of_none h

theorem thermalThrottleEnd (b : Fin 8) : Statement (.thermalThrottleEnd b) :=
  fun _ _ _ h => of_none h

theorem downWaitExpiry (b : Fin 8) (d : Fin 12) : Statement (.downWaitExpiry b d) :=
  fun _ _ _ h => of_none h

theorem lostLinkWithNoDetour (b : Fin 8) (d : Fin 12) : Statement (.lostLinkWithNoDetour b d) :=
  fun _ _ _ h => of_none h

end Sys2Proof.Laws.WordFits
end

