-- ==== Sys2Proof/Laws/SlotFrame.lean ====
section
/-! SUPPORT. Every slot instruction is one operation of the issuing slot, and that operation leaves registers and
storage alone. -/

namespace Sys2Proof.Machine

/-- `i` is the slot operation `f`, which leaves registers and storage alone. -/
structure SlotOp (i : Instr) (f : State → Fin 8 → Fin 8 → Context → Issue) : Prop where
  run : ∀ s, exec i s = slotOut s f
  keeps : ∀ s b k c, Issue.Keeps c (f s b k c)

/-- An instruction that some slot operation makes up. -/
def IsSlotOp (i : Instr) : Prop := ∃ f, SlotOp i f

theorem slotOp_scalar {i : Instr} {g : Fin 16} {d : Fin 32} {n : Nat} {f : Context → Word}
    (h : ∀ s, exec i s = scalarOp g d n f s) : IsSlotOp i :=
  ⟨_, h, fun _ _ _ c => guarded_keeps (.act _ (Context.Grown.result c _ _ _ _))⟩

theorem slotOp_vector {i : Instr} {g : Fin 16} {d : Fin 64} {n : Nat} {f : Context → Nat → BitVec 32}
    (h : ∀ s, exec i s = vectorOp g d n f s) : IsSlotOp i :=
  ⟨_, h, fun _ _ _ _ => lanewise_keeps (ordinary_keeps ..)⟩

theorem slotOp_guarded {i : Instr} {g : Fin 16} {f : Context → Context → Nat → Issue}
    (h : ∀ s, exec i s = slotOut s (guarded g f)) (k : ∀ c v n, Issue.Keeps c (f c v n)) : IsSlotOp i :=
  ⟨_, h, fun _ _ _ _ => guarded_keeps (k _ _ _)⟩

theorem slotOp_guarded7 {i : Instr} {g : Fin 16} {f : State → Fin 8 → Context → Context → Issue}
    (h : ∀ s, exec i s = slotOut s (guarded7 g f)) (k : ∀ s b c v, Issue.Keeps c (f s b c v)) : IsSlotOp i :=
  ⟨_, h, fun _ _ _ _ => guarded7_keeps (k _ _ _ _)⟩

theorem slotOp_lanewise {i : Instr} {g : Fin 16} {f : PReg → Context → Context → Nat → Issue}
    (h : ∀ s, exec i s = slotOut s (lanewise g f)) (k : ∀ m c v n, Issue.Keeps c (f m c v n)) : IsSlotOp i :=
  ⟨_, h, fun _ _ _ _ => lanewise_keeps (k _ _ _ _)⟩

/-- A copy whose checks pass issues. -/
theorem copy_keeps (c d : Context) (h : Context.Same c d) (kind : OpKind) (t : Fin 32) (df : Fin 64) (a b w : Word) :
    Issue.Keeps c (startCopy d kind t df a b w) := startCopy_keeps h.grown h.lset ..

theorem exchange_keeps {c d : Context} (h : Context.Same c d) (kind : OpKind) (t : Fin 32) (dim : Nat)
    (sw dw : Word) (fn : Nat) (ety : Ty) : Issue.Keeps c (exchange d kind t dim sw dw fn ety) :=
  .act _ (h.startNow _)

/-- Naming a token before an operation that keeps the context. -/
theorem token_keeps {c : Context} {t : Fin 32} {k : Context → Issue}
    (h : ∀ d, Context.Same c d → Issue.Keeps c (k d)) : Issue.Keeps c (nameToken c t k) :=
  nameToken_keeps (h c (.refl c)) (h _ (.unconsumed c _))

theorem data_keeps {c : Context} {t : Fin 32} {sw dw : Word} {sb : Bool} {k : Context → Issue}
    (h : ∀ d, Context.Same c d → Issue.Keeps c (k d)) : Issue.Keeps c (dataExchange c t sw dw sb k) :=
  dataExchange_keeps (h c (.refl c)) (h _ (.unconsumed c _))

theorem act_ite {c x y : Context} {p : Prop} [Decidable p] (hx : Context.Grown c x) (hy : Context.Grown c y) :
    Issue.Keeps c (.act (if p then x else y)) := .act _ (by split <;> assumption)

theorem Context.Grown.sched {c d : Context} (h : Context.Grown c d) (k n : Nat) (e : Eff) :
    Context.Grown c (d.sched k n e) :=
  ⟨⟨h.same.place, h.same.files, h.same.counters, h.same.adjoint, h.same.traps, h.same.storage, h.same.flow⟩, h.lset⟩

theorem vectorLoad_keeps (c v : Context) (k : Nat) (m : PReg) (d : Fin 64) (la : LaneAddrs) (ty : Ty)
    (off lat : Nat) (taped : Bool) : Issue.Keeps c (vectorLoad c v k m d la ty off lat taped) :=
  load_keeps c k (vecBytes ty) off lat taped (laneList m la (vecBytes ty)) (fun i => (lane (v.vr d) i).toNat)
    (fun cut => .ldv (c.physV d).val (maskWithout m cut) la (vecBytes ty) (signExt ty) (c.cbc + lat))

theorem vectorStore_keeps (c v : Context) (k : Nat) (m : PReg) (d : Fin 64) (la : LaneAddrs) (ty : Ty)
    (off lat : Nat) (sc : Bool) : Issue.Keeps c (vectorStore c v k m d la ty off lat sc) :=
  store_keeps c k (vecBytes ty) off lat sc (laneList m la (vecBytes ty)) (fun i => (lane (v.vr d) i).toNat)
    (fun cut => .v (c.physV d).val (maskWithout m cut))

theorem cmd_keeps {c d : Context} (h : Context.Same c d) (k : Nat) (m : Cmd) (n : Nat) (step : Nat → Eff) :
    Issue.Keeps c (.act (d.command k m n step)) := command_keeps h.same h.lset ..

/-- The engine counters, the scale queue and the generation count are no registers. -/
theorem same_mx (c : Context) (n : Nat) : Context.Same c { c with mxFree := n } := ⟨by constructor <;> rfl, rfl⟩
theorem same_wb (c : Context) (n : Nat) : Context.Same c { c with wbFree := n } := ⟨by constructor <;> rfl, rfl⟩
theorem same_look (c : Context) (n : Nat) : Context.Same c { c with lookFree := n } :=
  ⟨by constructor <;> rfl, rfl⟩
theorem same_tab (c : Context) (n : Nat) : Context.Same c { c with tabFree := n } := ⟨by constructor <;> rfl, rfl⟩
theorem same_gen (c : Context) (n : Nat) (g : BitVec 16) : Context.Same c { c with tabFree := n, ltgen := g } :=
  ⟨by constructor <;> rfl, rfl⟩
theorem same_held (c : Context) (l : List (Nat × Nat)) : Context.Same c { c with held := l } :=
  ⟨by constructor <;> rfl, rfl⟩
theorem same_sq_mx (c : Context) (t : List (BitVec 2048)) (n : Nat) :
    Context.Same c { c with sq := t, mxFree := n } := ⟨by constructor <;> rfl, rfl⟩
theorem same_sq_wb (c : Context) (t : List (BitVec 2048)) (n : Nat) :
    Context.Same c { c with sq := t, wbFree := n } := ⟨by constructor <;> rfl, rfl⟩
theorem same_sq_look (c : Context) (t : List (BitVec 2048)) (n : Nat) :
    Context.Same c { c with sq := t, lookFree := n } := ⟨by constructor <;> rfl, rfl⟩

/-- A branch taken is no register. -/
theorem same_taken (c : Context) (a : Option Word) : Context.Same c { c with takenTo := a } :=
  ⟨by constructor <;> rfl, rfl⟩

/-! ### Slot 0 -/

theorem slotOp_nop (g : Fin 16) : IsSlotOp (.nop g) := ⟨_, fun _ => rfl, fun _ _ _ c => Issue.keeps_act_self c⟩

theorem slotOp_br (g : Fin 16) (t : BitVec 16) : IsSlotOp (.br g t) :=
  slotOp_guarded (fun _ => rfl) fun _ _ _ => takeBranch_keeps (.act _ ⟨by constructor <;> rfl, .inr ⟨_, rfl⟩⟩)

theorem slotOp_brl (g : Fin 16) (l : Fin 32) (t : BitVec 16) : IsSlotOp (.brl g l t) :=
  slotOp_guarded (fun _ => rfl) fun _ _ _ => takeBranch_keeps (.act _ ⟨by constructor <;> rfl, .inr ⟨_, rfl⟩⟩)

theorem slotOp_ret (g : Fin 16) (a : Fin 32) : IsSlotOp (.ret g a) :=
  slotOp_guarded (fun _ => rfl) fun c _ _ => branchTo_keeps c _ _

theorem slotOp_rft (g : Fin 16) : IsSlotOp (.rft g) :=
  slotOp_guarded (fun _ => rfl) fun c _ _ => branchTo_keeps c _ _

theorem slotOp_brloop (g : Fin 16) (t : BitVec 16) : IsSlotOp (.brloop g t) :=
  slotOp_guarded (fun _ => rfl) fun c _ k => takeBranch_keeps
    (Issue.keeps_ite (.act _ (((Context.Same.refl c).sched _ _ _).hold _)) (.act _
      ((((same_taken c _).sched k c.cbc .rotate).sched k c.cbc (.setLc (c.lc - 1))).hold k)))

theorem slotOp_loopb (g : Fin 16) (n : Nat) : IsSlotOp (.loopb g n) :=
  slotOp_guarded (fun _ => rfl) fun _ _ _ => (.act _ ⟨by constructor <;> rfl, .inr ⟨_, rfl⟩⟩)

theorem slotOp_tchk (g : Fin 16) (a : Fin 32) (i : BitVec 18) : IsSlotOp (.tchk g a i) :=
  ⟨_, fun _ => rfl, fun _ _ _ c => guarded_keeps (Issue.keeps_ite (.trap ..) (.act _ ((Context.Same.refl c).hold _)))⟩

theorem slotOp_kwait (g : Fin 16) (t : Fin 32) : IsSlotOp (.kwait g t) :=
  slotOp_guarded (fun _ => rfl) fun c _ _ => consume_keeps c _ t

theorem slotOp_halt (g : Fin 16) : IsSlotOp (.halt g) :=
  slotOp_guarded (fun _ => rfl) fun c _ _ => Issue.keeps_ite (.trap ..) (by
    cases c.held
    · exact (.act _ ⟨by constructor <;> rfl, .inr ⟨_, rfl⟩⟩)
    · exact .trap ..)

theorem slotOp_trap (g : Fin 16) (code : BitVec 16) : IsSlotOp (.trap g code) :=
  slotOp_guarded (fun _ => rfl) fun _ _ _ => (.trap ..)

theorem slotOp_csrr (g : Fin 16) (d : Fin 32) (n : BitVec 12) : IsSlotOp (.csrr g d n) :=
  ⟨_, fun _ => rfl, fun _ _ _ c => guarded_keeps
    (act_ite (((Context.Same.refl c).sched _ _ _).enter _ _) (Context.Grown.result c _ _ _ _))⟩

theorem slotOp_csrw (g : Fin 16) (n : BitVec 12) (a : Fin 32) : IsSlotOp (.csrw g n a) :=
  ⟨_, fun _ => rfl, fun _ _ _ c => Issue.keeps_ite (.trap ..)
    (Issue.keeps_ite (.trap ..) (guarded_keeps (.act _ (((Context.Same.refl c).sched _ _ _).hold _))))⟩

theorem slotOp_dreg (g d : Fin 16) (a : Fin 32) : IsSlotOp (.dreg g d a) :=
  slotOp_guarded (fun _ => rfl) fun c _ _ => Issue.keeps_ite (.trap ..) (Issue.keeps_ite (.trap ..)
    (Issue.keeps_ite (.act _ (((Context.Same.refl c).sched _ _ _).hold _)) (by
      cases c.regions.getD d.val none
      · exact .trap ..
      · exact Issue.keeps_ite (.act _ (((Context.Same.refl c).sched _ _ _).hold _)) (.trap ..))))

theorem slotOp_dmode (g : Fin 16) (m : Mode) : IsSlotOp (.dmode g m) :=
  slotOp_guarded (fun _ => rfl) fun c _ _ => by
    split
    · exact .trap ..
    · exact .act _ (((Context.Same.refl c).sched _ _ _).hold _)

theorem slotOp_tmark (g : Fin 16) (i : BitVec 16) : IsSlotOp (.tmark g i) :=
  slotOp_guarded (fun _ => rfl) fun c _ _ => by
    split
    · exact Issue.keeps_act_self c
    · exact Issue.keeps_ite (.trap ..) (ordinary_keeps ..)
    · exact Issue.keeps_ite (.trap ..) (ordinary_keeps ..)

/-! ### Slots 1 to 5 -/

theorem slotOp_cmp (g d : Fin 16) (a b : Fin 32) (c : Cond) : IsSlotOp (.cmp g d a b c) :=
  slotOp_guarded (fun _ => rfl) fun c _ _ => .act _ ((((Context.Same.refl c).sched _ _ _).sched _ _ _).enter _ _)

theorem slotOp_lds (g : Fin 16) (d a : Fin 32) (i : Disp) (ty : Ty) : IsSlotOp (.lds g d a i ty) :=
  slotOp_guarded (fun _ => rfl) fun _ _ _ => checkScalar_keeps (load_keeps ..)

theorem slotOp_sts (g : Fin 16) (a : Fin 32) (i : Disp) (d : Fin 32) (ty : Ty) : IsSlotOp (.sts g a i d ty) :=
  slotOp_guarded (fun _ => rfl) fun _ _ _ => checkScalar_keeps (store_keeps ..)

theorem slotOp_vld (g : Fin 16) (d : Fin 64) (a : Fin 32) (i : Disp) (ty : Ty) : IsSlotOp (.vld g d a i ty) :=
  slotOp_lanewise (fun _ => rfl) fun _ _ _ _ => checkLanes_keeps (vectorLoad_keeps ..)

theorem slotOp_vst (g : Fin 16) (a : Fin 32) (i : Disp) (d : Fin 64) (ty : Ty) : IsSlotOp (.vst g a i d ty) :=
  slotOp_lanewise (fun _ => rfl) fun _ _ _ _ => checkLanes_keeps (vectorStore_keeps ..)

theorem slotOp_vgath (g : Fin 16) (d : Fin 64) (a : Fin 32) (b : Fin 64) (ty : Ty) : IsSlotOp (.vgath g d a b ty) :=
  slotOp_lanewise (fun _ => rfl) fun _ _ _ _ => checkLanes_keeps (vectorLoad_keeps ..)

theorem slotOp_vscat (g : Fin 16) (a : Fin 32) (b d : Fin 64) (ty : Ty) : IsSlotOp (.vscat g a b d ty) :=
  slotOp_lanewise (fun _ => rfl) fun _ _ _ _ => checkLanes_keeps (vectorStore_keeps ..)

theorem slotOp_vldt (g : Fin 16) (d : Fin 64) (a : Fin 32) (i : BitVec 8) (b : Fin 32) (ty : Ty) :
    IsSlotOp (.vldt g d a i b ty) :=
  slotOp_lanewise (fun _ => rfl) fun _ c _ _ => checkLanes_keeps (by
    split
    · exact Issue.keeps_act_self c
    · split
      · exact .trap ..
      · split
        · exact .trap ..
        · split
          · exact .trap ..
          · exact .wait
          · exact vectorLoad_keeps ..)

theorem slotOp_vatom (g : Fin 16) (d : Fin 64) (a : Fin 32) (b : Fin 64) (ty : Ty) (op : AtomOp) (nr : Bool) :
    IsSlotOp (.vatom g d a b ty op nr) :=
  slotOp_lanewise (fun _ => rfl) fun _ _ _ _ => checkLanes_keeps (by
    split
    · exact .trap ..
    · exact ordinary_keeps ..)

theorem slotOp_vcmp (g d : Fin 16) (a b : Fin 64) (ty : Ty) (c : VCond) : IsSlotOp (.vcmp g d a b ty c) :=
  slotOp_lanewise (fun _ => rfl) fun _ c _ _ =>
    .act _ ((((Context.Same.refl c).sched _ _ _).sched _ _ _).enter _ _)

theorem slotOp_vcvt (g : Fin 16) (d a : Fin 64) (x y : Ty) (e : Fin 16) : IsSlotOp (.vcvt g d a x y e) :=
  slotOp_lanewise (fun _ => rfl) fun _ c _ _ =>
    .act _ ((((Context.Same.refl c).sched _ _ _).enter _ _).sched _ _ _)

theorem slotOp_vredadd (g : Fin 16) (d : Fin 32) (a : Fin 64) (ty : Ty) : IsSlotOp (.vredadd g d a ty) :=
  slotOp_lanewise (fun _ => rfl) fun _ c _ _ => .act _ (Context.Grown.result c _ _ _ _)

/-! ### Slot 6 -/

theorem slotOp_sarm (g sn : Fin 16) (i : BitVec 12) (a : Fin 32) : IsSlotOp (.sarm g sn i a) :=
  slotOp_guarded (fun _ => rfl) fun _ _ _ => by
    dsimp only
    split
    · exact .trap ..
    · split
      · exact .trap ..
      · exact ordinary_keeps ..

theorem slotOp_mxmm (g : Fin 16) (a : Fin 32) (sa sb sc : Fin 16) (df : Fin 64) (i j : Bool) :
    IsSlotOp (.mxmm g a sa sb sc df i j) :=
  slotOp_guarded (fun _ => rfl) fun _ _ _ => by
    unfold actMxmm
    dsimp only
    split
    · exact .trap ..
    · exact checkBanks_keeps (checkReads_keeps (popSq_keeps
        (cmd_keeps (same_mx _ _) ..)
        fun _ _ => cmd_keeps (same_sq_mx _ _ _) ..))

theorem slotOp_acq (g : Fin 16) (d : Fin 32) (n : Nat) : IsSlotOp (.acq g d n) :=
  slotOp_guarded (fun _ => rfl) fun _ _ _ => by
    split
    · exact .trap ..
    · exact .act _ ((((same_held _ _).sched _ _ _).sched _ _ _).enter _ _)

theorem slotOp_arls (g : Fin 16) (a : Fin 32) : IsSlotOp (.arls g a) :=
  slotOp_guarded (fun _ => rfl) fun _ _ _ => groupOf_keeps fun _ _ =>
    Issue.keeps_ite (.trap ..) (.act _ (((same_held _ _).sched _ _ _).enter _ _))

theorem slotOp_azero (g : Fin 16) (a : Fin 32) : IsSlotOp (.azero g a) :=
  slotOp_guarded (fun _ => rfl) fun _ _ _ => groupOf_keeps fun _ _ => ordinary_keeps ..

theorem slotOp_ard (g : Fin 16) (d : Fin 64) (a : Fin 32) (clr : Bool) : IsSlotOp (.ard g d a clr) :=
  slotOp_guarded (fun _ => rfl) fun _ _ _ => checkBanks_keeps (ordinary_keeps ..)

theorem slotOp_acvt (g : Fin 16) (a : Fin 32) (sn : Fin 16) (sc : AcvtScale) (cn : Fin 16) (df : Fin 64)
    (f i : Bool) : IsSlotOp (.acvt g a sn sc cn df f i) :=
  slotOp_guarded (fun _ => rfl) fun _ _ _ => by
    dsimp only
    split
    · exact .trap ..
    · exact checkBanks_keeps (checkWrites_keeps (popSq_keeps
        (cmd_keeps (same_wb _ _) ..)
        fun _ _ => cmd_keeps (same_sq_wb _ _ _) ..))

theorem slotOp_ltbuild (g : Fin 16) (a : Fin 32) (sn : Fin 16) (df : Fin 64) : IsSlotOp (.ltbuild g a sn df) :=
  slotOp_guarded (fun _ => rfl) fun _ _ _ => Issue.keeps_ite (.trap ..) (Issue.keeps_ite (.trap ..)
    (checkTables_keeps (checkReads_keeps (cmd_keeps ((same_gen _ _ _).sched _ _ _) ..))))

theorem slotOp_ltlook (g : Fin 16) (a : Fin 32) (w t sel : Fin 16) (df : Fin 64) (i j : Bool) (wb : WBits)
    (sq : Bool) : IsSlotOp (.ltlook g a w t sel df i j wb sq) :=
  slotOp_guarded (fun _ => rfl) fun _ _ _ => by
    dsimp only
    split
    · exact .trap ..
    · exact Issue.keeps_ite (.trap ..) (Issue.keeps_ite (.trap ..) (checkTables_keeps (checkBanks_keeps
        (checkReads_keeps (popSq_keeps (cmd_keeps (same_look _ _) ..)
          fun _ _ => cmd_keeps (same_sq_look _ _ _) ..)))))

theorem slotOp_ltinv (g : Fin 16) (a b : Fin 32) : IsSlotOp (.ltinv g a b) :=
  slotOp_guarded (fun _ => rfl) fun _ _ _ => checkTables_keeps (ordinary_keeps ..)

theorem slotOp_ltspill (g : Fin 16) (a : Fin 32) (sn : Fin 16) (df : Fin 64) : IsSlotOp (.ltspill g a sn df) :=
  slotOp_guarded (fun _ => rfl) fun _ _ _ => Issue.keeps_ite (.trap ..) (Issue.keeps_ite (.trap ..)
    (checkTables_keeps (checkWrites_keeps (cmd_keeps (same_tab _ _) ..))))

theorem slotOp_ltfill (g : Fin 16) (a : Fin 32) (sn : Fin 16) (df : Fin 64) : IsSlotOp (.ltfill g a sn df) :=
  slotOp_guarded (fun _ => rfl) fun _ _ _ => Issue.keeps_ite (.trap ..) (Issue.keeps_ite (.trap ..)
    (checkTables_keeps (checkReads_keeps (cmd_keeps ((same_tab _ _).sched _ _ _) ..))))

theorem slotOp_ltstat (g : Fin 16) (d a : Fin 32) : IsSlotOp (.ltstat g d a) :=
  slotOp_guarded (fun _ => rfl) fun c _ _ => Issue.keeps_ite (.trap ..) (.act _ (Context.Grown.result c _ _ _ _))

/-! ### Slot 7 -/

theorem slotOp_cpld (g : Fin 16) (a b w t : Fin 32) (df : Fin 64) : IsSlotOp (.cpld g a b w t df) :=
  slotOp_guarded7 (fun _ => rfl) fun _ _ _ _ => token_keeps fun _ h => Issue.keeps_ite (.trap ..)
    (checkSpan_keeps (checkGlobal_keeps (checkLanding_keeps (checkWindow_keeps (copy_keeps _ _ h ..)))))

theorem slotOp_cpst (g : Fin 16) (a b w t : Fin 32) (df : Fin 64) : IsSlotOp (.cpst g a b w t df) :=
  slotOp_guarded7 (fun _ => rfl) fun _ _ _ _ => token_keeps fun _ h => Issue.keeps_ite (.trap ..)
    (checkSpan_keeps (checkGlobal_keeps (copy_keeps _ _ h ..)))

theorem slotOp_cpfill (g : Fin 16) (a b w t : Fin 32) (df : Fin 64) : IsSlotOp (.cpfill g a b w t df) :=
  slotOp_guarded7 (fun _ => rfl) fun _ _ _ _ => token_keeps fun _ h => Issue.keeps_ite (.trap ..)
    (checkSpan_keeps (checkGlobal_keeps (copy_keeps _ _ h ..)))

theorem slotOp_cpga (g : Fin 16) (a b w t : Fin 32) (df : Fin 64) : IsSlotOp (.cpga g a b w t df) :=
  slotOp_guarded7 (fun _ => rfl) fun _ _ _ _ => token_keeps fun _ h => Issue.keeps_ite (.trap ..)
    (checkSpan_keeps (checkSpan_keeps (checkLanding_keeps (checkWindow_keeps (copy_keeps _ _ h ..)))))

theorem slotOp_cpsc (g : Fin 16) (a b w t : Fin 32) (df : Fin 64) : IsSlotOp (.cpsc g a b w t df) :=
  slotOp_guarded7 (fun _ => rfl) fun _ _ _ _ => token_keeps fun _ h => Issue.keeps_ite (.trap ..)
    (checkSpan_keeps (checkSpan_keeps (copy_keeps _ _ h ..)))

theorem slotOp_cpsq (g : Fin 16) (a b w t : Fin 32) (df : Fin 64) : IsSlotOp (.cpsq g a b w t df) :=
  slotOp_guarded7 (fun _ => rfl) fun _ _ _ _ => token_keeps fun _ h => Issue.keeps_ite (.trap ..)
    (Issue.keeps_ite (checkSpan_keeps (copy_keeps _ _ h ..)) (checkGlobal_keeps (copy_keeps _ _ h ..)))

theorem slotOp_cpat (g : Fin 16) (a b w t : Fin 32) (df : Fin 64) : IsSlotOp (.cpat g a b w t df) :=
  slotOp_guarded7 (fun _ => rfl) fun _ _ _ _ => token_keeps fun _ h => Issue.keeps_ite (.trap ..)
    (checkSpan_keeps (checkGlobal_keeps (checkLanding_keeps (checkWindow_keeps (copy_keeps _ _ h ..)))))

theorem slotOp_fenci (g : Fin 16) (t : Fin 32) (sc : Scope) : IsSlotOp (.fenci g t sc) :=
  slotOp_guarded7 (fun _ => rfl) fun _ _ _ _ => token_keeps fun _ h =>
    Issue.keeps_ite (.act _ (h.goodNow t)) (.act _ (h.startNow _))

theorem slotOp_fencw (g : Fin 16) (t : Fin 32) : IsSlotOp (.fencw g t) :=
  slotOp_guarded (fun _ => rfl) fun c _ _ => consume_keeps c _ t

theorem slotOp_xch (g dim : Fin 16) (a b t : Fin 32) : IsSlotOp (.xch g dim a b t) :=
  slotOp_guarded7 (fun _ => rfl) fun _ _ _ _ => checkDims_keeps (data_keeps fun _ h => exchange_keeps h ..)

theorem slotOp_xcc (g dim : Fin 16) (a b t : Fin 32) (cb : Comb) : IsSlotOp (.xcc g dim a b t cb) :=
  slotOp_guarded7 (fun _ => rfl) fun _ _ _ _ => checkDims_keeps (data_keeps fun _ h => exchange_keeps h ..)

theorem slotOp_xsib (g dim : Fin 16) (a b t : Fin 32) (v : Bool) : IsSlotOp (.xsib g dim a b t v) :=
  slotOp_guarded7 (fun _ => rfl) fun _ _ _ _ => checkDims_keeps (checkDims_keeps (data_keeps fun _ h =>
    Issue.keeps_ite (exchange_keeps h ..) (.act _ (h.goodNow t))))

theorem slotOp_xgs (g : Fin 16) (m : BitVec 12) (a t : Fin 32) (bk : Bool) : IsSlotOp (.xgs g m a t bk) :=
  slotOp_guarded7 (fun _ => rfl) fun _ _ _ _ => checkDims_keeps (data_keeps fun _ h =>
    Issue.keeps_ite (.act _ (h.goodNow t)) (exchange_keeps h ..))

theorem slotOp_xbar (g : Fin 16) (m : BitVec 12) (t : Fin 32) : IsSlotOp (.xbar g m t) :=
  slotOp_guarded7 (fun _ => rfl) fun _ _ _ _ => checkDims_keeps (token_keeps fun _ h =>
    Issue.keeps_ite (.act _ (h.goodNow t)) (.act _ (h.startNow _)))

theorem slotOp_xat (g dim : Fin 16) (a b t : Fin 32) (op : AtomOp) : IsSlotOp (.xat g dim a b t op) :=
  slotOp_guarded7 (fun _ => rfl) fun _ _ _ _ => checkDims_keeps (token_keeps fun _ h => by
    split
    · exact .trap ..
    · exact Issue.keeps_ite (.trap ..) (Issue.keeps_ite (.trap ..) (checkExchange_keeps (exchange_keeps h ..))))

/-! ### All of them -/

/-- Every instruction that may stand in a slot is one slot operation that leaves registers and storage alone. -/
theorem slotOp_of_slots (i : Instr) (h : slots i ≠ []) : IsSlotOp i := by
  cases i
  case nop => exact slotOp_nop ..
  case br => exact slotOp_br ..
  case brl => exact slotOp_brl ..
  case ret => exact slotOp_ret ..
  case rft => exact slotOp_rft ..
  case brloop => exact slotOp_brloop ..
  case loopb => exact slotOp_loopb ..
  case tchk => exact slotOp_tchk ..
  case kwait => exact slotOp_kwait ..
  case halt => exact slotOp_halt ..
  case trap => exact slotOp_trap ..
  case csrr => exact slotOp_csrr ..
  case csrw => exact slotOp_csrw ..
  case dreg => exact slotOp_dreg ..
  case dmode => exact slotOp_dmode ..
  case tmark => exact slotOp_tmark ..
  case cmp => exact slotOp_cmp ..
  case lds => exact slotOp_lds ..
  case sts => exact slotOp_sts ..
  case vld => exact slotOp_vld ..
  case vldt => exact slotOp_vldt ..
  case vst => exact slotOp_vst ..
  case vatom => exact slotOp_vatom ..
  case vgath => exact slotOp_vgath ..
  case vscat => exact slotOp_vscat ..
  case vcmp => exact slotOp_vcmp ..
  case vcvt => exact slotOp_vcvt ..
  case vredadd => exact slotOp_vredadd ..
  case sarm => exact slotOp_sarm ..
  case mxmm => exact slotOp_mxmm ..
  case acq => exact slotOp_acq ..
  case arls => exact slotOp_arls ..
  case azero => exact slotOp_azero ..
  case ard => exact slotOp_ard ..
  case acvt => exact slotOp_acvt ..
  case ltbuild => exact slotOp_ltbuild ..
  case ltlook => exact slotOp_ltlook ..
  case ltinv => exact slotOp_ltinv ..
  case ltspill => exact slotOp_ltspill ..
  case ltfill => exact slotOp_ltfill ..
  case ltstat => exact slotOp_ltstat ..
  case cpld => exact slotOp_cpld ..
  case cpst => exact slotOp_cpst ..
  case cpfill => exact slotOp_cpfill ..
  case cpga => exact slotOp_cpga ..
  case cpsc => exact slotOp_cpsc ..
  case cpsq => exact slotOp_cpsq ..
  case cpat => exact slotOp_cpat ..
  case fenci => exact slotOp_fenci ..
  case fencw => exact slotOp_fencw ..
  case xch => exact slotOp_xch ..
  case xcc => exact slotOp_xcc ..
  case xsib => exact slotOp_xsib ..
  case xgs => exact slotOp_xgs ..
  case xbar => exact slotOp_xbar ..
  case xat => exact slotOp_xat ..
  all_goals first
    | exact absurd rfl h
    | exact slotOp_scalar fun _ => rfl
    | exact slotOp_vector fun _ => rfl

end Sys2Proof.Machine
end

