-- ==== Sys2Proof/Laws/Steady.lean ====
section
/-! SUPPORT. What the shared operations leave: the canonical form of every memory, the seat tables in force, the power
cap, the instruction memories, and the audit log but for entries at its end. One lemma per operation; operations are
chained by `trans`. -/

namespace Sys2Proof.Machine

theorem State.LogKept.of_same {s t : State} (h : t.log = s.log) (k : t.logNext = s.logNext) : s.LogKept t :=
  ⟨Nat.le_of_eq k.symm, fun r => by unfold State.LogRing; rw [h, k]; exact r,
    fun _ n _ _ => by unfold State.logAt; rw [h, k]⟩

theorem State.LogKept.refl (s : State) : s.LogKept s := .of_same rfl rfl

theorem State.LogKept.trans {s t u : State} (h : s.LogKept t) (k : t.LogKept u) : s.LogKept u :=
  ⟨Nat.le_trans h.next k.next, k.ring ∘ h.ring, fun r n hn hu =>
    (k.kept (h.ring r) n (Nat.lt_of_lt_of_le hn h.next) hu).trans (h.kept r n hn (Nat.le_trans k.next hu))⟩

/-- An appended entry takes the number after the last, and the place of the entry 65,536 before it. -/
theorem State.LogKept.pushEntry (s : State) (g ty src q : Nat) (p : List Byte) :
    s.LogKept (s.pushEntry g ty src q p) := by
  refine ⟨Nat.le_succ _, fun r => ?_, fun r n hn hu => ?_⟩
  · unfold State.LogRing at r ⊢
    simp only [State.pushEntry]
    split
    · simp only [List.length_append, List.length_singleton, r]; omega
    · simp only [List.length_set, r]; omega
  · unfold State.LogRing at r
    simp only [State.pushEntry] at hu
    have h0 : (s.pushEntry g ty src q p).logNext = s.logNext + 1 := rfl
    have h1 : (decide (n < s.logNext) && decide (s.logNext ≤ n + 65536)) = true := by simp; omega
    have h2 : (decide (n < s.logNext + 1) && decide (s.logNext + 1 ≤ n + 65536)) = true := by simp; omega
    unfold State.logAt
    rw [h0, if_pos h1, if_pos h2]
    simp only [State.pushEntry]
    split
    · rw [List.getD_eq_getElem?_getD, List.getD_eq_getElem?_getD, List.getElem?_append_left (by omega)]
    · rw [List.getD_eq_getElem?_getD, List.getD_eq_getElem?_getD, List.getElem?_set_ne (by omega)]

/-- What no shared operation breaks. -/
structure State.Steady (s t : State) : Prop where
  mem : Memory.wf s.mem = true → Memory.wf t.mem = true
  spad : ∀ b q, Memory.wf (s.ctx b q).spad = true → Memory.wf (t.ctx b q).spad = true
  imem : ∀ b q, Memory.wf (s.ctx b q).imem = true → Memory.wf (t.ctx b q).imem = true
  tables : ∀ b q, mapWf Table.zero (s.ctx b q).tables = true → mapWf Table.zero (t.ctx b q).tables = true
  banks : ∀ b q, mapWf 0 (s.ctx b q).banks = true → mapWf 0 (t.ctx b q).banks = true
  tags : ∀ b q, mapWf 0 (s.ctx b q).tags = true → mapWf 0 (t.ctx b q).tags = true
  gens : ∀ b, (t.brick b).gens = (s.brick b).gens
  seattab : ∀ b, (t.brick b).seattab = (s.brick b).seattab
  cap : t.powercap = s.powercap
  log : s.LogKept t

theorem State.Steady.refl (s : State) : s.Steady s := by
  constructor <;> first | exact State.LogKept.refl s | (intros; first | rfl | assumption)

theorem State.Steady.trans {s t u : State} (h : s.Steady t) (k : t.Steady u) : s.Steady u :=
  ⟨k.mem ∘ h.mem, fun b q => k.spad b q ∘ h.spad b q, fun b q => k.imem b q ∘ h.imem b q,
    fun b q => k.tables b q ∘ h.tables b q, fun b q => k.banks b q ∘ h.banks b q, fun b q => k.tags b q ∘ h.tags b q,
    fun b => (k.gens b).trans (h.gens b),
    fun b => (k.seattab b).trans (h.seattab b), k.cap.trans h.cap, h.log.trans k.log⟩

/-- An operation that keeps bricks, memory, cap and log. -/
theorem State.Steady.of_same {s t : State} (hb : t.bricks = s.bricks) (hm : t.mem = s.mem)
    (hc : t.powercap = s.powercap) (hl : s.LogKept t) : s.Steady t := by
  have hk : ∀ b, t.brick b = s.brick b := fun b => by unfold State.brick; rw [hb]
  have hx : ∀ b q, t.ctx b q = s.ctx b q := fun b q => by unfold State.ctx State.seat; rw [hk]
  exact ⟨fun h => hm ▸ h, fun b q h => (hx b q) ▸ h, fun b q h => (hx b q) ▸ h, fun b q h => (hx b q) ▸ h,
    fun b q h => (hx b q) ▸ h, fun b q h => (hx b q) ▸ h, fun b => by rw [hk], fun b => by rw [hk], hc, hl⟩

/-- A brick changed that keeps its seats, generations and table. -/
theorem State.Steady.setBrick (s : State) (b : Fin 8) (x : Brick) (h1 : x.seats = (s.brick b).seats)
    (h2 : x.gens = (s.brick b).gens) (h3 : x.seattab = (s.brick b).seattab) : s.Steady (s.setBrick b x) := by
  have hx : ∀ b' q, (s.setBrick b x).ctx b' q = s.ctx b' q := fun b' q => State.ctx_setBrick s b b' q x h1
  refine ⟨id, fun b q h => (hx b q) ▸ h, fun b q h => (hx b q) ▸ h, fun b q h => (hx b q) ▸ h,
    fun b q h => (hx b q) ▸ h, fun b q h => (hx b q) ▸ h, ?_, ?_, rfl, .of_same rfl rfl⟩
  · intro b'
    rw [State.brick_setBrick]
    split
    · rename_i hb; rw [h2, hb]
    · rfl
  · intro b'
    rw [State.brick_setBrick]
    split
    · rename_i hb; rw [h3, hb]
    · rfl

/-- The memories of a context carried over. -/
structure Context.Carries (c d : Context) : Prop where
  spad : Memory.wf c.spad = true → Memory.wf d.spad = true
  imem : Memory.wf c.imem = true → Memory.wf d.imem = true
  tables : mapWf Table.zero c.tables = true → mapWf Table.zero d.tables = true
  banks : mapWf 0 c.banks = true → mapWf 0 d.banks = true
  tags : mapWf 0 c.tags = true → mapWf 0 d.tags = true

theorem Context.Carries.same {c d : Context} (h1 : d.spad = c.spad) (h2 : d.imem = c.imem) (h3 : d.tables = c.tables)
    (h4 : d.banks = c.banks) (h5 : d.tags = c.tags) : c.Carries d :=
  ⟨fun h => h1 ▸ h, fun h => h2 ▸ h, fun h => h3 ▸ h, fun h => h4 ▸ h, fun h => h5 ▸ h⟩

theorem Context.Carries.trans {c d e : Context} (h : c.Carries d) (k : d.Carries e) : c.Carries e :=
  ⟨k.spad ∘ h.spad, k.imem ∘ h.imem, k.tables ∘ h.tables, k.banks ∘ h.banks, k.tags ∘ h.tags⟩

theorem State.Steady.setSeat (s : State) (b : Fin 8) (q : Fin 4) (x : Seat) (h : (s.ctx b q).Carries x.ctx) :
    s.Steady (s.setSeat b q x) := by
  have each (P : Context → Prop) (hp : P (s.ctx b q) → P x.ctx) (b' : Fin 8) (q' : Fin 4) (hw : P (s.ctx b' q')) :
      P ((s.setSeat b q x).ctx b' q') := by
    rw [State.ctx_setSeat]
    split
    · rename_i he
      obtain ⟨rfl, rfl⟩ := he
      exact hp hw
    · exact hw
  exact ⟨id, each (fun c => Memory.wf c.spad = true) h.spad, each (fun c => Memory.wf c.imem = true) h.imem,
    each (fun c => mapWf Table.zero c.tables = true) h.tables, each (fun c => mapWf 0 c.banks = true) h.banks,
    each (fun c => mapWf 0 c.tags = true) h.tags, fun b' => State.setSeat_brick_gens .., fun b' => State.setSeat_brick_seattab .., rfl, .of_same rfl rfl⟩

theorem State.Steady.setCtx (s : State) (b : Fin 8) (q : Fin 4) (c : Context) (h : (s.ctx b q).Carries c) :
    s.Steady (s.setCtx b q c) :=
  State.Steady.setSeat s b q _ h

theorem State.Steady.setLink (s : State) (b : Fin 8) (d : Fin 12) (l : Link) : s.Steady (s.setLink b d l) :=
  State.Steady.setBrick s b _ rfl rfl rfl

theorem State.Steady.setQueue (s : State) (q : Fin 64) (u : Queue) : s.Steady (s.setQueue q u) :=
  State.Steady.of_same rfl rfl rfl (.of_same rfl rfl)

theorem State.Steady.setKernel (s : State) (k : Kernel) : s.Steady (s.setKernel k) :=
  State.Steady.of_same rfl rfl rfl (.of_same rfl rfl)

theorem State.Steady.withInterrupts (s : State) (l : List Nat) : s.Steady { s with interrupts := l } :=
  State.Steady.of_same rfl rfl rfl (.of_same rfl rfl)

theorem State.Steady.withFreeCtr (s : State) (n : Nat) : s.Steady { s with freeCtr := n } :=
  State.Steady.of_same rfl rfl rfl (.of_same rfl rfl)

theorem State.Steady.withCur (s : State) (c : Option Cursor) : s.Steady { s with cur := c } :=
  State.Steady.of_same rfl rfl rfl (.of_same rfl rfl)

/-- A choice between operations. -/
theorem State.Steady.ite {s t u : State} (p : Prop) [Decidable p] (h : s.Steady t) (k : s.Steady u) :
    s.Steady (if p then t else u) := by
  split
  · exact h
  · exact k

/-- Steps of a list, each steady. -/
theorem State.Steady.foldl {α : Type} (f : State → α → State) (hf : ∀ (s : State) (a : α), s.Steady (f s a))
    (l : List α) : ∀ s : State, s.Steady (l.foldl f s) := by
  induction l with
  | nil => exact State.Steady.refl
  | cons a t ih => intro s; exact (hf s a).trans (ih _)

/-! ### The audit log, measurement and telemetry -/

theorem State.Steady.pushEntry (s : State) (g ty src q : Nat) (p : List Byte) : s.Steady (s.pushEntry g ty src q p) :=
  State.Steady.of_same rfl rfl rfl (.pushEntry s g ty src q p)

theorem State.Steady.logEvent (s : State) (b : Fin 8) (ty q : Nat) (p : List Byte) :
    s.Steady (s.logEvent b ty q p) := by
  unfold State.logEvent
  refine State.Steady.ite _ (State.Steady.of_same rfl rfl rfl (.of_same rfl rfl)) ?_
  dsimp only
  split
  · exact State.Steady.ite _ (State.Steady.of_same rfl rfl rfl (.of_same rfl rfl)) (State.Steady.pushEntry s ..)
  · have h1 : s.Steady { s.pushEntry (s.brick 0).gbc.toNat 0x0044 0xFFFF 0xFFFF (le 8 s.logLost) with logLost := 0 } :=
      (State.Steady.pushEntry s _ _ _ _ _).trans (State.Steady.of_same rfl rfl rfl (.of_same rfl rfl))
    exact h1.trans (State.Steady.ite _ (State.Steady.of_same rfl rfl rfl (.of_same rfl rfl))
      (State.Steady.pushEntry _ ..))

theorem State.Steady.extend (s : State) (b : Fin 8) (i : Fin 8) (d : BitVec 384) : s.Steady (s.extend b i d) := by
  unfold State.extend
  have h1 : s.Steady { s with mr := s.mr.set i.val (sha384 (mrBytes (s.mr.get i) ++ mrBytes d)) } :=
    State.Steady.of_same rfl rfl rfl (.of_same rfl rfl)
  exact h1.trans (State.Steady.logEvent _ ..)

theorem State.Steady.tel (s : State) (b : Fin 8) (i j k n : Nat) : s.Steady (s.tel b i j k n) :=
  State.Steady.setBrick s b _ rfl rfl rfl

theorem State.Steady.closeFreeze (s : State) (b : Fin 8) (c : Context) : s.Steady (s.closeFreeze b c) := by
  unfold State.closeFreeze
  dsimp only
  split
  · exact State.Steady.tel ..
  · exact State.Steady.tel ..
  · exact State.Steady.tel ..
  · exact State.Steady.refl s

theorem State.Steady.dirty (s : State) (b : Fin 8) (q : Fin 4) : s.Steady (s.dirty b q) := by
  exact State.Steady.setBrick s b _ rfl rfl rfl

/-! ### Completion, the end of a task, kills and traps -/

theorem State.Steady.vwrite (s t : State) (a va : Nat) (l : List Byte) (h : s.vwrite a va l = some t) :
    s.Steady t := by
  unfold State.vwrite at h
  split at h
  · rename_i rs _
    obtain rfl := Option.some.inj h
    have hx : ∀ b q, State.ctx { s with mem := writeRuns s.mem rs l } b q = s.ctx b q := fun _ _ => rfl
    exact ⟨Memory.wf_writeRuns _ _ _, fun b q w => (hx b q) ▸ w, fun b q w => (hx b q) ▸ w,
      fun b q w => (hx b q) ▸ w, fun b q w => (hx b q) ▸ w, fun b q w => (hx b q) ▸ w, fun _ => rfl, fun _ => rfl, rfl,
      .of_same rfl rfl⟩
  · exact absurd h (by simp)

theorem State.Steady.post (s : State) (q : Fin 64) (tag : Word) (seq : BitVec 16) (st re g va : Nat)
    (rep : List Byte) : s.Steady (s.post q tag seq st re g va rep) := by
  unfold State.post
  extract_lets qu
  split
  rename_i s1 len he
  have h1 : s.Steady s1 := by
    split at he
    · rename_i s' h
      rw [← (Prod.mk.inj he).1]
      exact State.Steady.vwrite s s' _ _ _ h
    · rw [← (Prod.mk.inj he).1]
      exact State.Steady.refl s
  clear he
  refine h1.trans (State.Steady.trans ?_ (State.Steady.logEvent _ 0 0x0021 q.val _))
  split
  · rename_i s2 h
    have h2 := State.Steady.vwrite s1 s2 _ _ _ h
    have h3 : s2.Steady (if qu.ien = true then
        { s2.setQueue q { s2.queue q with ctail := qu.ctail + 1 } with
          interrupts := (s2.setQueue q { s2.queue q with ctail := qu.ctail + 1 }).interrupts ++ [1 + q.val] }
        else s2.setQueue q { s2.queue q with ctail := qu.ctail + 1 }) :=
      State.Steady.ite _ ((State.Steady.setQueue s2 q _).trans (State.Steady.withInterrupts _ _))
        (State.Steady.setQueue s2 q _)
    exact h2.trans h3
  · exact State.Steady.refl s1

theorem State.Steady.completeKernel (s : State) (k : Kernel) : s.Steady (s.completeKernel k) := by
  unfold State.completeKernel
  dsimp only
  have h1 : s.Steady { s with kernels := s.kernels.filter (·.id != k.id) } :=
    State.Steady.of_same rfl rfl rfl (.of_same rfl rfl)
  split <;> exact h1.trans ((State.Steady.post ..).trans (State.Steady.setQueue ..))

theorem State.Steady.checkComplete (s : State) (id : Nat) : s.Steady (s.checkComplete id) := by
  unfold State.checkComplete
  split
  · have h1 : s.Steady { s with kernels := s.kernels.filter (·.id != id) } :=
      State.Steady.of_same rfl rfl rfl (.of_same rfl rfl)
    exact State.Steady.ite _ (State.Steady.ite _ (State.Steady.refl s) h1) (State.Steady.ite _ (State.Steady.refl s)
      (State.Steady.ite _ (State.Steady.setKernel s _) (State.Steady.completeKernel ..)))
  · exact State.Steady.refl s

theorem State.Steady.logContext (s : State) (b : Fin 8) (q : Fin 4) (t k e : Nat) :
    s.Steady (s.logContext b q t k e) := State.Steady.logEvent ..

theorem State.Steady.cutSave (s : State) (b : Fin 8) (q : Fin 4) : s.Steady (s.cutSave b q) := by
  unfold State.cutSave
  refine State.Steady.ite _ (State.Steady.trans ?_ (State.Steady.logContext ..)) (State.Steady.refl s)
  exact State.Steady.setSeat s b q _ ⟨id, id, id, id, id⟩

/-- An entry of the log changes no brick. -/
theorem State.bricks_logEvent (s : State) (b : Fin 8) (t q : Nat) (p : List Byte) :
    (s.logEvent b t q p).bricks = s.bricks := by
  unfold State.logEvent
  split
  · rfl
  · dsimp only
    split <;> first | rfl | (split <;> rfl)

/-- A save cut off leaves its context as it stands. -/
theorem State.ctx_cutSave (s : State) (b : Fin 8) (q : Fin 4) : (s.cutSave b q).ctx b q = s.ctx b q := by
  have h (t u : State) (e : t.bricks = u.bricks) : t.ctx b q = u.ctx b q := by
    unfold State.ctx State.seat State.brick
    rw [e]
  unfold State.cutSave
  split
  · refine (h _ _ (State.bricks_logEvent ..)).trans ?_
    exact State.ctx_setSeat_self ..
  · rfl

theorem State.Steady.dropHeld (s : State) (id : Nat) : s.Steady (s.dropHeld id) := by
  have hb (b : Fin 8) : ∃ l, (s.dropHeld id).brick b = { s.brick b with links := l } :=
    ⟨_, by simp only [State.dropHeld, State.brick]; exact Vector.getElem_map _ _⟩
  have hx (b : Fin 8) (q : Fin 4) : (s.dropHeld id).ctx b q = s.ctx b q := by
    obtain ⟨l, h⟩ := hb b
    unfold State.ctx State.seat
    rw [h]
  refine ⟨fun h => h, fun b q h => hx b q ▸ h, fun b q h => hx b q ▸ h, fun b q h => hx b q ▸ h,
    fun b q h => hx b q ▸ h, fun b q h => hx b q ▸ h, fun b => ?_,
    fun b => ?_, rfl, .of_same rfl rfl⟩ <;> (obtain ⟨l, h⟩ := hb b; rw [h])

/-- A task's end keeps the memories of the context that it is given. -/
theorem State.Steady.endTask (s : State) (b : Fin 8) (q : Fin 4) (c : Context) (e : EndInfo)
    (h : (s.ctx b q).Carries c) : s.Steady (s.endTask b q c e) := by
  have hc : ((s.closeFreeze b c).ctx b q).Carries c := by
    have : (s.closeFreeze b c).ctx b q = s.ctx b q := by
      unfold State.closeFreeze
      dsimp only
      split <;> first | rfl | exact State.ctx_setBrick s b b q _ rfl
    rw [this]
    exact h
  have h0 : s.Steady ((s.closeFreeze b c).cutSave b q) :=
    (State.Steady.closeFreeze s b c).trans (State.Steady.cutSave _ b q)
  rw [← State.ctx_cutSave] at hc
  unfold State.endTask
  generalize (s.closeFreeze b c).cutSave b q = s0 at h0 hc ⊢
  refine h0.trans ?_
  extract_lets rec0 run sl s00 src s1 s2 s3
  have h1 : s0.Steady s1 :=
    State.Steady.setSeat s0 b q _ (hc.trans ⟨fun w => w, fun w => w, fun w => w, fun w => w, fun w => w⟩)
  have h2 : s1.Steady s2 := (State.Steady.dirty s1 b q).trans (State.Steady.tel _ b _ _ _ _)
  have h3 : s2.Steady s3 := by
    show s2.Steady (match s2.kernel c.kernel with
      | some k => s2.setKernel { k.putTibeat c.coord e.tibeat with reports := k.reports ++ [(c.coord, rec0)] }
      | none => s2)
    split
    · exact State.Steady.setKernel _ _
    · exact State.Steady.refl s2
  exact h1.trans (h2.trans (h3.trans (State.Steady.withCur s3 _)))

/-- The end of a drain keeps the memories of its context. -/
theorem State.Steady.endDrain (s : State) (b : Fin 8) (q : Fin 4) : s.Steady (s.endDrain b q) := by
  unfold State.endDrain
  extract_lets c s1
  have h1 : s.Steady s1 := State.Steady.setCtx s b q _ ⟨fun w => w, fun w => w, fun w => w, fun w => w, fun w => w⟩
  split
  · exact h1.trans (State.Steady.setKernel _ _)
  · exact h1

theorem State.Steady.endDrains (s : State) (id : Nat) : s.Steady (s.endDrains id) := by
  unfold State.endDrains
  generalize h : (allSeats.filter fun p => (s.ctx p.1 p.2).drains id) = l
  clear h
  have hf : ∀ (t : State) (p : Fin 8 × Fin 4), t.Steady (t.endDrain p.1 p.2) :=
    fun t p => State.Steady.endDrain t p.1 p.2
  refine State.Steady.foldl (α := Fin 8 × Fin 4) _ hf l s

theorem State.Steady.killLive (s : State) (id code : Nat) (v : Fin 8 → Fin 4 → Context → Option EndInfo) :
    s.Steady (s.killLive id code v) := by
  unfold State.killLive
  split
  · exact State.Steady.refl s
  · lift_lets
    intro alive first k1 s1 s2
    have h2 : s1.Steady s2 := by
      show s1.Steady (match s1.kernel id with
        | some k2 => s1.setKernel k2.joinReleased
        | none => s1)
      split
      · exact State.Steady.setKernel _ _
      · exact State.Steady.refl s1
    have h1 : (s.setKernel k1).Steady s1 := by
      refine State.Steady.foldl _ (fun t p => ?_) alive (s.setKernel k1)
      exact State.Steady.endTask t p.1 p.2 _ _ ⟨fun w => w, fun w => w, fun w => w, fun w => w, fun w => w⟩
    exact (State.Steady.setKernel s k1).trans (h1.trans (h2.trans
      ((State.Steady.dropHeld s2 id).trans (State.Steady.checkComplete _ id))))

theorem State.Steady.killKernel (s : State) (id code : Nat) (v : Fin 8 → Fin 4 → Context → Option EndInfo) :
    s.Steady (s.killKernel id code v) :=
  (State.Steady.endDrains s id).trans (State.Steady.killLive _ id code v)

theorem State.Steady.killOwn (s : State) (b : Fin 8) (q : Fin 4) : s.Steady (s.killOwn b q) := by
  unfold State.killOwn
  exact State.Steady.killKernel s _ _ _

theorem State.Steady.machineCheck (s : State) (b : Fin 8) (q : Fin 4) (k : Nat) : s.Steady (s.machineCheck b q k) := by
  unfold State.machineCheck
  exact State.Steady.killKernel s _ _ _

theorem State.Steady.logMachineCheck (s : State) (b : Fin 8) (k : Nat) : s.Steady (s.logMachineCheck b k) := by
  unfold State.logMachineCheck
  extract_lets s1
  have h1 : s.Steady s1 := (State.Steady.logEvent s b _ _ _).trans (State.Steady.tel _ b _ _ _ _)
  exact h1.trans (State.Steady.setBrick s1 b _ rfl rfl rfl)

theorem State.Steady.failLink (s : State) (b : Fin 8) (d : Fin 12) (w : Nat) : s.Steady (s.failLink b d w) := by
  unfold State.failLink State.modLink
  extract_lets s1
  have h1 : s.Steady s1 := State.Steady.setLink s b d _
  have h2 : s1.Steady (s1.setBrick b { s1.brick b with linkIrq := d.val :: (s1.brick b).linkIrq }) :=
    State.Steady.setBrick s1 b _ rfl rfl rfl
  exact h1.trans (h2.trans (State.Steady.tel _ b _ _ _ _))

theorem State.Steady.dropDetour (s : State) (b i : Fin 8) (d : Fin 12) : s.Steady (s.dropDetour b i d) := by
  unfold State.dropDetour
  extract_lets l s1 src s2
  refine State.Steady.ite _ ?_ (State.Steady.refl s)
  have h1 : s.Steady s1 := State.Steady.setLink s i d _
  have h2 : s1.Steady s2 := by
    refine State.Steady.ite _ ?_ (State.Steady.refl s1)
    exact State.Steady.setBrick s1 i _ rfl rfl rfl
  exact h1.trans (h2.trans (State.Steady.logEvent ..))

theorem State.Steady.leaveService (s : State) (b : Fin 8) (k : Nat) : s.Steady (s.leaveService b k) := by
  unfold State.leaveService
  extract_lets s1 src s2 s3 why fails s4
  have h1 : s.Steady s1 := by
    refine State.Steady.foldl _ (fun t q => ?_) _ s
    refine State.Steady.ite _ (State.Steady.refl t) ?_
    exact State.Steady.killKernel t _ _ _
  clear_value s1
  have h2 : s1.Steady s2 := State.Steady.setBrick s1 b _ rfl rfl rfl
  have h3 (t : State) (i : Fin 8) (d : Fin 12) : t.Steady (fails t i d) :=
    State.Steady.ite _ (State.Steady.refl t) (State.Steady.failLink t i d why)
  have h4 : s3.Steady s4 := State.Steady.foldl _ (fun t d => (h3 t _ _).trans (h3 _ _ _)) _ s3
  exact h1.trans (h2.trans ((State.Steady.withFreeCtr s2 _).trans (h4.trans
    (State.Steady.foldl _ (fun t i => State.Steady.foldl _ (fun u d => State.Steady.dropDetour u b i d) _ t) _ s4))))

theorem State.Steady.takeTrap (s : State) (b : Fin 8) (q : Fin 4) (t : Trap) : s.Steady (s.takeTrap b q t) := by
  unfold State.takeTrap
  extract_lets c again ph s1
  split
  · have h1 : s.Steady s1 := State.Steady.setCtx s b q _ ⟨fun w => w, fun w => w, fun w => w, fun w => w, fun w => w⟩
    exact h1.trans (State.Steady.withCur s1 _)
  · exact (State.Steady.setCtx s b q c ⟨fun w => w, fun w => w, fun w => w, fun w => w, fun w => w⟩).trans (State.Steady.killOwn _ b q)

theorem State.Steady.slotTrap (s : State) (b : Fin 8) (q : Fin 4) (k code cause : Nat) (i : Word) :
    s.Steady (s.slotTrap b q k code cause i) :=
  State.Steady.takeTrap ..

theorem State.Steady.bundleTrap (s : State) (b : Fin 8) (q : Fin 4) (code cause : Nat) (i : Word) :
    s.Steady (s.bundleTrap b q code cause i) :=
  State.Steady.takeTrap ..

theorem State.Steady.progress (s : State) (k : Nat) : s.Steady (s.progress k) := by
  unfold State.progress
  split
  · exact State.Steady.setQueue s _ _
  · exact State.Steady.refl s

theorem State.Steady.haltTask (s : State) (b : Fin 8) (q : Fin 4) : s.Steady (s.haltTask b q) := by
  unfold State.haltTask
  extract_lets c
  have h1 : s.Steady (s.endTask b q { c with halting := false } (haltEnd c)) :=
    State.Steady.endTask s b q _ _ (Context.Carries.same rfl rfl rfl rfl rfl)
  exact h1.trans (State.Steady.checkComplete _ c.kernel)

theorem State.Steady.telCrossing (s : State) (b : Fin 8) (k m : Nat) : s.Steady (s.telCrossing b k m) :=
  State.Steady.foldl _ (fun s _ => State.Steady.tel s ..) _ s

theorem State.Steady.takePending (s : State) (b : Fin 8) (q : Fin 4) (n : Nat) : s.Steady (s.takePending b q n) := by
  unfold State.takePending
  extract_lets c
  split
  · exact State.Steady.refl s
  · rename_i p rest _
    have h1 : s.Steady (s.setCtx b q { c with pending := rest }) :=
      State.Steady.setCtx s b q _ ⟨fun w => w, fun w => w, fun w => w, fun w => w, fun w => w⟩
    exact (h1.trans (State.Steady.ite _ (State.Steady.telCrossing ..) (State.Steady.refl _))).trans
      (State.Steady.takeTrap _ b q _)

/-! ### Scratchpad -/

theorem Context.Carries.invalidate (c : Context) (l : List Nat) : c.Carries (c.invalidate l) := by
  refine ⟨id, id, fun h => ?_, id, id⟩
  unfold Context.invalidate
  dsimp only
  refine mapWfFrom_map Table.zero _ (fun e => by split <;> rfl) (fun e he => ?_) _ 0 h
  split
  · rename_i hit
    rw [Bool.and_eq_true, List.any_eq_true] at hit
    obtain ⟨-, a, -, ha⟩ := hit
    intro h0
    have h1 : e.2.clearV.meta0 = 0 := congrArg Table.meta0 h0
    have h2 : e.2.meta1 = 0 := congrArg Table.meta1 h0
    have h4 : nbit e.2.meta0.toNat 4 = false := by
      have : e.2.meta0.getLsbD 4 = false := by
        have := congrArg (fun w : Word => w.getLsbD 4) h1
        simpa [Table.clearV] using this
      simpa [nbit, BitVec.getLsbD, Nat.testBit, Nat.shiftRight_eq_div_pow, Nat.one_and_eq_mod_two] using this
    unfold Table.watches Table.bmask Table.sv at ha
    rw [h2, h4] at ha
    simp [nbit, nbits] at ha
  · exact he

theorem Context.Carries.writeSpad (c : Context) (w : List (Nat × Byte)) : c.Carries (c.writeSpad w) := by
  unfold Context.writeSpad
  refine Context.Carries.trans (d := { c with spad := setAll c.spad w }) ⟨fun h => Memory.wf_setAll w _ h, id, id, id, id⟩
    (Context.Carries.invalidate _ _)

end Sys2Proof.Machine
end

