-- ==== Sys2Proof/Tests/Slice0.lean ====
section
/-! SUPPORT. Tests: terms that are no instructions, words written out from the tables of 07, one step on small states,
and for every statement a state and operands that meet its hypotheses. Expected values come from the spec. -/

namespace Sys2Proof.Tests

open Sys2Proof Sys2Proof.Machine

set_option Elab.async false

/-! ### Helpers -/

/-- The context of `test` states: a task of kernel 1 that runs. -/
def ctx0 : Context := { Context.reset with run := .running, kernel := 1 }

/-- An image that does nothing. -/
def image0 : Image :=
  { name := [], entry := 0, qi := 1, frac := 0, nparam := 0, ndim := 0, text := [], streams := [], regions := [],
    tiles := []
    data := [], nhash := 0, cert := [], thash := 0 }

/-- Kernel 1, in seat 0 of brick 0. -/
def kern : Kernel :=
  { id := 1, queue := 0, seq := 0, tag := 0, asid := 0, report := 0, reportLen := 64, satAbort := false, ndim := 0
    pfree := 0, pbase := 0, gbcs := 0, image := image0, seats := [(0, 0)], firstKill := none, reports := []
    relErrs := [], relRecs := [], tibeats := [], endGbc := none, endPos := 0, commitSent := true, lapsed := false }

/-- Address space 0 in generation 1: its entry at 0, its tables at 0x8000 and 0x10000, and a leaf that maps virtual
addresses below 2^31 to themselves, read and write (22 R411, R412). -/
def tables0 : List Host.Cell := [(1, 0x80), (8, 1), (10, 1), (0x8000, 1), (0x8002, 1), (0x10000, 0x0F)]

/-- The module on, with brick 0 in service, its cycle come, and every entry of its seat table that of seat 0, which
holds the context `c`. -/
def hold (c : Context) : State :=
  let s : State := { State.reset with stage := 3, kernels := [kern], mem := tables0 }
  let s1 := s.setBrick 0 { s.brick 0 with
    inService := true, steward := true, cycleNow := true, seattab := BitVec.ofNat 256 ((2 ^ 256 - 1) / 15 * 8)
    quarters := Vector.replicate 4 .clean }
  s1.setCtx 0 0 { c with asgen := 1 }

/-- Seat 0 of brick 0 issues slot `k`, with the context that `f` makes. -/
def at' (k : Fin 8) (f : Context → Context) : State :=
  { hold { f ctx0 with phase := .issuing k } with cur := some ⟨0, 0⟩ }

/-- The same with nothing changed. -/
def plain (k : Fin 8) : State := at' k id

def putX (c : Context) (r : Fin 32) (v : Word) : Context := { c with x := c.x.set r v }

/-- The context once the bundle's beat is taken. -/
def landed (o : Host.Outcome State Fault Refusal) : Context :=
  match o with
  | .next t => ((t.ctx 0 0).beat 0).ctx
  | _ => Context.reset

/-- TSTAT that a step leaves in seat 0 of brick 0. -/
def tstatOf (o : Host.Outcome State Fault Refusal) : Word :=
  match o with
  | .next t => (t.ctx 0 0).tstat
  | _ => 0

theorem issues_of {s : State} {b : Fin 8} {q : Fin 4} {k : Fin 8}
    (h : s.cur = some ⟨b, q⟩ ∧ (s.ctx b q).phase = .issuing k) : s.Issues b q k := ⟨h.1, h.2⟩

theorem ready_of {s : State} {b : Fin 8} {q : Fin 4} {k : Fin 8} {g : Fin 16} {n : Nat}
    (h : s.cur = some ⟨b, q⟩ ∧ (s.ctx b q).phase = .issuing k ∧ (s.ctx b q).view.guard g = true ∧
      ((s.ctx b q).halting = true → n = 0) ∧ (s.ctx b q).heldAt (s.ctx b q).cbc ≤ 95) : s.Ready b q k g n := by
  obtain ⟨h1, h2, h3, h4, h5⟩ := h
  refine ⟨⟨h1, h2⟩, h3, fun h => ?_, ?_⟩
  · rw [h4 h]
    exact Nat.le_refl _
  · split <;> omega

theorem readyLanes_of {s : State} {b : Fin 8} {q : Fin 4} {k : Fin 8} {g : Fin 16} {m : PReg} {n : Nat}
    (h : s.cur = some ⟨b, q⟩ ∧ (s.ctx b q).phase = .issuing k ∧ (s.ctx b q).view.pr g = m ∧ m ≠ 0 ∧
      (s.ctx b q).halting = false ∧ (s.ctx b q).heldAt (s.ctx b q).cbc ≤ 95) : s.ReadyLanes b q k g m n := by
  obtain ⟨h1, h2, h3, h4, h5, h6⟩ := h
  refine ⟨⟨h1, h2⟩, h3, h4, fun h => ?_, ?_⟩
  · rw [h5] at h
    exact absurd h (by decide)
  · split <;> omega

theorem readyOp_of {s : State} {b : Fin 8} {q : Fin 4} {k : Fin 8} {g : Fin 16} {t : Fin 32} {n : Nat}
    (h : s.cur = some ⟨b, q⟩ ∧ (s.ctx b q).phase = .issuing k ∧ (s.ctx b q).view.guard g = true ∧
      (s.ctx b q).halting = false ∧ (s.ctx b q).heldAt (s.ctx b q).cbc ≤ 95 ∧
      (s.ctx b q).tok.get t ≠ .outstanding) : s.ReadyOp b q k g t n := by
  obtain ⟨h1, h2, h3, h4, h5, h6⟩ := h
  refine ⟨ready_of ⟨h1, h2, h3, fun h => ?_, h5⟩, h4, h6⟩
  rw [h4] at h
  exact absurd h (by decide)

/-! ### Terms that are no instructions (07 R171 to R175) -/

theorem test_ill_formed_slot0 :
    wellFormed (.loopb 0 0) = false ∧ wellFormed (.loopb 0 257) = false ∧ wellFormed (.loopb 0 256) = true ∧
      wellFormed (.csrr 0 1 0x005) = false ∧ wellFormed (.csrw 0 0x130 1) = false ∧
      wellFormed (.csrr 0 1 0x12F) = true := by decide

theorem test_ill_formed_scalar :
    wellFormed (.shlImm 0 1 2 (.short 64)) = false ∧ wellFormed (.shrImm 0 1 2 (.short 64)) = false ∧
      wellFormed (.sarImm 0 1 2 (.short (-1))) = false ∧ wellFormed (.sarImm 0 1 2 (.short 63)) = true ∧
      wellFormed (.cmp 0 3 1 2 .eq) = false ∧ wellFormed (.cmp 0 4 1 2 .eq) = true ∧
      wellFormed (.lds 0 1 2 (.short 0) .f32) = false ∧ wellFormed (.sts 0 1 (.short 0) 2 .bf16) = false ∧
      wellFormed (.lds 0 1 2 (.short 0) .none) = true := by decide

theorem test_ill_formed_memory :
    wellFormed (.vld 0 1 2 (.short 0) .mx4) = false ∧ wellFormed (.vldt 0 1 2 0 3 .mx6) = false ∧
      wellFormed (.vst 0 1 (.short 0) 2 .mx8) = false ∧ wellFormed (.vgath 0 1 2 3 .mx4) = false ∧
      wellFormed (.vscat 0 1 2 3 .mx4) = false ∧ wellFormed (.vatom 0 1 2 3 .s16 .add true) = false ∧
      wellFormed (.vatom 0 1 2 3 .f32 .xor true) = false ∧ wellFormed (.vatom 0 1 2 3 .bf16 .and true) = false ∧
      wellFormed (.vatom 0 1 2 3 .n32 .xor true) = true := by decide

theorem test_ill_formed_vector :
    wellFormed (.vadd 0 1 2 3 .none) = false ∧ wellFormed (.vsub 0 1 2 3 .e4m3) = false ∧
      wellFormed (.vmul 0 1 2 3 .s16) = false ∧ wellFormed (.vfma 0 1 2 3 4 .mx8) = false ∧
      wellFormed (.vmin 0 1 2 3 .n8) = false ∧ wellFormed (.vmax 0 1 2 3 .n16) = false ∧
      wellFormed (.vabs 0 1 2 .n32) = false ∧ wellFormed (.vbcast 0 1 2 .none) = false ∧
      wellFormed (.vcmp 0 1 2 3 .f32 .eq) = false ∧ wellFormed (.vcmp 0 2 2 3 .bf16 .eq) = false ∧
      wellFormed (.vcmp 0 2 2 3 .s32 .un) = false ∧ wellFormed (.vcmp 0 2 2 3 .f32 .un) = true ∧
      wellFormed (.vsel 0 1 2 3 4 .bf16) = false ∧ wellFormed (.vperm 0 1 2 3 .bf16) = false ∧
      wellFormed (.vcvt 0 1 2 .none .f32 0) = false ∧ wellFormed (.vcvt 0 1 2 .f32 .mx4 0) = false ∧
      wellFormed (.vexp2 0 1 2 .s32) = false ∧ wellFormed (.vlog2 0 1 2 .none) = false ∧
      wellFormed (.vrcp 0 1 2 .e5m2) = false ∧ wellFormed (.vrsq 0 1 2 .n32) = false ∧
      wellFormed (.vredadd 0 1 2 .bf16) = false := by decide

theorem test_ill_formed_engine :
    wellFormed (.acq 0 1 3) = false ∧ wellFormed (.acq 0 1 16) = false ∧ wellFormed (.acq 0 1 4) = true ∧
      wellFormed (.ltlook 0 1 2 3 4 0 true false .b1 true) = false ∧
      wellFormed (.ltlook 0 1 2 3 4 0 false false .b1 true) = true ∧ wellFormed (.xgs 0 1 3 0 false) = false := by
  decide

/-! ### Words written out from 07 R170 and R174 -/

theorem test_decode_control :
    decodeSlot 0 0b0000000001_0001_1000000000000111_000000_00000000 none = .ok (.br 1 0x8007) ∧
    decodeSlot 0 0b0000000010_0001_0000000000000111_000010_00000000 none = .ok (.brl 1 2 7) ∧
    decodeSlot 0 0b0000000011_0010_000000_011111_000000_0000_00000000 none = .ok (.ret 2 31) ∧
    decodeSlot 0 0b0000000100_0000_0000000000000101_000000_00000000 none = .ok (.brloop 0 5) ∧
    decodeSlot 0 0b0000000101_0000_000000_000000000000000100000000 none = .ok (.loopb 0 256) ∧
    decodeSlot 0 0b0000000110_0000_000000_000011_100000000000001010 none = .ok (.tchk 0 3 0x2000A) ∧
    decodeSlot 0 0b0000000111_0001_000000000000000000000000000000 none = .ok (.halt 1) ∧
    decodeSlot 0 0b0000001000_0000_000000_000000001000000000000001 none = .ok (.trap 0 0x8001) ∧
    decodeSlot 0 0b0000001001_0011_000000000000000000000000000000 none = .ok (.rft 3) ∧
    decodeSlot 0 0b0000001010_0000_001001_000000_000000000100101111 none = .ok (.csrr 0 9 0x12F) ∧
    decodeSlot 0 0b0000001011_0000_000000_001001_000000000000100010 none = .ok (.csrw 0 0x022 9) ∧
    decodeSlot 0 0b0000001100_0000_000000_000000000000000000011111 none = .ok (.kwait 0 31) ∧
    decodeSlot 0 0b0000010000_0000_001111_000100_000000000000000000 none = .ok (.dreg 0 15 4) ∧
    decodeSlot 0 0b0000010001_0000_000000_000000000000000000000010 none = .ok (.dmode 0 .rev) ∧
    decodeSlot 0 0b0000010010_0000_000000_000000001111111111111110 none = .ok (.tmark 0 0xFFFE) := by
  and_intros <;> rfl

theorem test_decode_scalar :
    decodeSlot 2 0b0000100000_0101_000011_000001_000010_0000_00000000 none = .ok (.add 5 3 1 2) ∧
    decodeSlot 2 0b0000100010_0101_000011_000001_000010_0000_00000000 none = .ok (.sub 5 3 1 2) ∧
    decodeSlot 2 0b0000100011_0101_000011_000001_000010_0000_00000000 none = .ok (.mul 5 3 1 2) ∧
    decodeSlot 2 0b0000100101_0101_000011_000001_000010_0000_00000000 none = .ok (.and 5 3 1 2) ∧
    decodeSlot 2 0b0000100111_0101_000011_000001_000010_0000_00000000 none = .ok (.or 5 3 1 2) ∧
    decodeSlot 2 0b0000101001_0101_000011_000001_000010_0000_00000000 none = .ok (.xor 5 3 1 2) ∧
    decodeSlot 2 0b0000101011_0101_000011_000001_000010_0000_00000000 none = .ok (.shl 5 3 1 2) ∧
    decodeSlot 2 0b0000101101_0101_000011_000001_000010_0000_00000000 none = .ok (.shr 5 3 1 2) ∧
    decodeSlot 2 0b0000101111_0101_000011_000001_000010_0000_00000000 none = .ok (.sar 5 3 1 2) ∧
    decodeSlot 2 0b0000100001_0000_000011_000001_100000000000000001 none = .ok (.addImm 0 3 1 (.short 0x20001)) ∧
    decodeSlot 2 0b0000100110_0000_000011_000001_100000000000000001 none = .ok (.andImm 0 3 1 (.short 0x20001)) ∧
    decodeSlot 2 0b0000101000_0000_000011_000001_100000000000000001 none = .ok (.orImm 0 3 1 (.short 0x20001)) ∧
    decodeSlot 2 0b0000101010_0000_000011_000001_100000000000000001 none = .ok (.xorImm 0 3 1 (.short 0x20001)) ∧
    decodeSlot 2 0b0000100001_0000_000011_000001_000000000000000000 (some 0x8000000000F) =
      .ok (.addImm 0 3 1 (.long 0x8000000000F)) ∧
    decodeSlot 2 0b0000101100_0000_000011_000001_000000000000111111 none = .ok (.shlImm 0 3 1 (.short 63)) ∧
    decodeSlot 2 0b0000101110_0000_000011_000001_000000000000111111 none = .ok (.shrImm 0 3 1 (.short 63)) ∧
    decodeSlot 2 0b0000110000_0000_000011_000001_000000000000111111 none = .ok (.sarImm 0 3 1 (.short 63)) ∧
    decodeSlot 2 0b0000100100_0000_000011_000001_000010_0000_00000010 none = .ok (.mulh 0 3 1 2 .su) ∧
    decodeSlot 2 0b0000110001_0000_000011_000001_000010_0000_00000000 none = .ok (.min 0 3 1 2 .s) ∧
    decodeSlot 2 0b0000110010_0000_000011_000001_000010_0000_00000001 none = .ok (.max 0 3 1 2 .u) ∧
    decodeSlot 2 0b0000110011_0000_000011_000001_000010_000111_0000_00 none = .ok (.sel 0 3 7 1 2) ∧
    decodeSlot 2 0b0000110100_0000_000100_000001_000010_0000_00001001 none = .ok (.cmp 0 4 1 2 .geu) ∧
    decodeSlot 2 0b0000110110_0000_000001_100000000000000000000001 none = .ok (.li 0 1 (.short 0x800001)) ∧
    decodeSlot 2 0b0000110111_0000_000001_100000000000000000000001 none = .ok (.lih 0 1 0x800001) ∧
    decodeSlot 2 0b0000111000_0000_000011_000001_000000_0000_00000000 none = .ok (.clz 0 3 1) ∧
    decodeSlot 2 0b0000111001_0000_000011_000001_000000_0000_00000000 none = .ok (.popc 0 3 1) := by
  and_intros <;> rfl

theorem test_decode_scalar_access :
    decodeSlot 2 0b0000111100_0000_000101_000001_11111111111111_0100 none = .ok (.lds 0 5 1 (.short (-1)) .n8) ∧
    decodeSlot 2 0b0000111101_0000_000101_000001_01111111111111_0010 none = .ok (.sts 0 1 (.short 0x1FFF) 5 .s16) :=
  ⟨rfl, rfl⟩

theorem test_decode_memory :
    decodeSlot 3 0b0001000000_0010_000011_000001_00000000000010_0000 none = .ok (.vld 2 3 1 (.short 2) .none) ∧
    decodeSlot 3 0b0001000000_0010_000011_000001_00000000000000_1000 (some 64) = .ok (.vld 2 3 1 (.long 64) .bf16) ∧
    decodeSlot 3 0b0001000001_0000_111111_000001_000010_10000000_0101 none = .ok (.vldt 0 63 1 0x80 2 .n16) ∧
    decodeSlot 3 0b0001000010_0000_000011_000001_00000000000001_0111 none = .ok (.vst 0 1 (.short 1) 3 .f32) ∧
    decodeSlot 3 0b0001000011_0000_100001_000001_000010_0110_00010110 none = .ok (.vatom 0 33 1 2 .n32 .swap true) ∧
    decodeSlot 3 0b0001000100_0000_100001_000001_100010_1001_00000000 none = .ok (.vgath 0 33 1 34 .e4m3) ∧
    decodeSlot 3 0b0001000101_0000_100001_000001_100010_0001_00000000 none = .ok (.vscat 0 1 34 33 .s8) := by
  and_intros <;> rfl

theorem test_decode_vector :
    decodeSlot 5 0b0001100000_0110_100001_100010_100011_0111_00000000 none = .ok (.vadd 6 33 34 35 .f32) ∧
    decodeSlot 5 0b0001100001_0110_100001_100010_100011_0111_00000000 none = .ok (.vsub 6 33 34 35 .f32) ∧
    decodeSlot 5 0b0001100010_0110_100001_100010_100011_0111_00000000 none = .ok (.vmul 6 33 34 35 .f32) ∧
    decodeSlot 5 0b0001100100_0110_100001_100010_100011_0111_00000000 none = .ok (.vmin 6 33 34 35 .f32) ∧
    decodeSlot 5 0b0001100101_0110_100001_100010_100011_0111_00000000 none = .ok (.vmax 6 33 34 35 .f32) ∧
    decodeSlot 5 0b0001100011_0000_100001_100010_100011_100100_1000_00 none = .ok (.vfma 0 33 34 35 36 .bf16) ∧
    decodeSlot 5 0b0001100110_0000_100001_100010_000000_0011_00000000 none = .ok (.vabs 0 33 34 .s32) ∧
    decodeSlot 5 0b0001100111_0000_000110_100010_100011_0111_00001010 none = .ok (.vcmp 0 6 34 35 .f32 .un) ∧
    decodeSlot 5 0b0001101000_0000_100001_100010_100011_001001_0000_00 none = .ok (.vsel 0 33 9 34 35 .none) ∧
    decodeSlot 5 0b0001101001_0000_100001_000100_000000_0110_00000000 none = .ok (.vbcast 0 33 4 .n32) := by
  and_intros <;> rfl

theorem test_decode_vector_b :
    decodeSlot 5 0b0001110000_0000_100001_100010_000000_1010_01111100 none = .ok (.vcvt 0 33 34 .e5m2 .f32 12) ∧
    decodeSlot 5 0b0001110001_0000_100001_100010_000000_1000_00000000 none = .ok (.vexp2 0 33 34 .bf16) ∧
    decodeSlot 5 0b0001110010_0000_100001_100010_000000_1000_00000000 none = .ok (.vlog2 0 33 34 .bf16) ∧
    decodeSlot 5 0b0001110011_0000_100001_100010_000000_1000_00000000 none = .ok (.vrcp 0 33 34 .bf16) ∧
    decodeSlot 5 0b0001110100_0000_100001_100010_000000_1000_00000000 none = .ok (.vrsq 0 33 34 .bf16) ∧
    decodeSlot 5 0b0001110101_0000_000001_100010_000000_0011_00000000 none = .ok (.vredadd 0 1 34 .s32) ∧
    decodeSlot 5 0b0001110110_0000_100001_100010_100011_0000_00000000 none = .ok (.vperm 0 33 34 35 .none) := by
  and_intros <;> rfl

theorem test_decode_engine :
    decodeSlot 6 0b0010000000_0000_0101_100000000001_000011_00000000 none = .ok (.sarm 0 5 0x801 3) ∧
    decodeSlot 6 0b0010000001_0000_000001_0010_0011_0100_000101_000100 none = .ok (.mxmm 0 1 2 3 4 5 false true) ∧
    decodeSlot 6 0b0010000010_0000_000011_000000000000000000001000 none = .ok (.acq 0 3 8) ∧
    decodeSlot 6 0b0010000011_0000_000000_000011_000000_0000_00000000 none = .ok (.arls 0 3) ∧
    decodeSlot 6 0b0010000100_0000_000000_000011_000000_0000_00000000 none = .ok (.azero 0 3) ∧
    decodeSlot 6 0b0010000101_0000_100001_000011_000000_0000_00000001 none = .ok (.ard 0 33 3 true) ∧
    decodeSlot 6 0b0010000110_0000_000001_0010_0010_0100_111111_000001 none =
      .ok (.acvt 0 1 2 .derive 4 63 true false) ∧
    decodeSlot 6 0b0010001000_0000_000001_0010_0000_0000_000101_000000 none = .ok (.ltbuild 0 1 2 5) ∧
    decodeSlot 6 0b0010001001_0000_000001_0010_0011_0100_000101_110100 none =
      .ok (.ltlook 0 1 2 3 4 5 false true .b4 true) ∧
    decodeSlot 6 0b0010001010_0000_000000_000001_000010_0000_00000000 none = .ok (.ltinv 0 1 2) ∧
    decodeSlot 6 0b0010001011_0000_000001_0010_0000_0000_000101_000000 none = .ok (.ltspill 0 1 2 5) ∧
    decodeSlot 6 0b0010001100_0000_000001_0010_0000_0000_000101_000000 none = .ok (.ltfill 0 1 2 5) ∧
    decodeSlot 6 0b0010001101_0000_000011_000001_000000_0000_00000000 none = .ok (.ltstat 0 3 1) := by
  and_intros <;> rfl

theorem test_decode_copy_exchange :
    decodeSlot 7 0b0010100000_0100_000001_000010_000011_10101_101010_0 none = .ok (.cpld 4 1 2 3 21 42) ∧
    decodeSlot 7 0b0010100001_0100_000001_000010_000011_10101_101010_0 none = .ok (.cpst 4 1 2 3 21 42) ∧
    decodeSlot 7 0b0010100010_0100_000001_000010_000011_10101_101010_0 none = .ok (.cpga 4 1 2 3 21 42) ∧
    decodeSlot 7 0b0010100011_0100_000001_000010_000011_10101_101010_0 none = .ok (.cpsc 4 1 2 3 21 42) ∧
    decodeSlot 7 0b0010100100_0100_000001_000010_000011_10101_101010_0 none = .ok (.cpfill 4 1 2 3 21 42) ∧
    decodeSlot 7 0b0010100101_0100_000001_000010_000011_10101_101010_0 none = .ok (.cpsq 4 1 2 3 21 42) ∧
    decodeSlot 7 0b0010100110_0100_000001_000010_000011_10101_101010_0 none = .ok (.cpat 4 1 2 3 21 42) ∧
    decodeSlot 7 0b0010101000_0000_10101_10_00000000000000000000000 none = .ok (.fenci 0 21 .sysMod) ∧
    decodeSlot 7 0b0010101001_0000_10101_00_00000000000000000000000 none = .ok (.fencw 0 21) ∧
    decodeSlot 7 0b0010110000_0000_000001_000010_0011_10101_000_000000 none = .ok (.xch 0 3 1 2 21) ∧
    decodeSlot 7 0b0010110001_0000_000001_000010_0011_10101_110_000000 none = .ok (.xcc 0 3 1 2 21 .imin) ∧
    decodeSlot 7 0b0010110010_0000_000001_000010_0011_10101_001_000000 none = .ok (.xsib 0 3 1 2 21 true) ∧
    decodeSlot 7 0b0010110011_0000_100000000001_000010_10101_001_0000 none = .ok (.xgs 0 0x801 2 21 true) ∧
    decodeSlot 7 0b0010110100_0000_100000000001_000000_10101_000_0000 none = .ok (.xbar 0 0x801 21) ∧
    decodeSlot 7 0b0010110101_0000_000001_000010_0011_10101_101_000000 none = .ok (.xat 0 3 1 2 21 .xor) := by
  and_intros <;> rfl

theorem test_decode_nop :
    decodeSlot 0 0b0000000000_1111_000000000000000000000000000000 none = .ok (.nop 15) ∧
    decodeSlot 1 0b0000000000_1111_000000000000000000000000000000 none = .ok (.nop 15) ∧
    decodeSlot 2 0b0000000000_1111_000000000000000000000000000000 none = .ok (.nop 15) ∧
    decodeSlot 3 0b0000000000_1111_000000000000000000000000000000 none = .ok (.nop 15) ∧
    decodeSlot 4 0b0000000000_1111_000000000000000000000000000000 none = .ok (.nop 15) ∧
    decodeSlot 5 0b0000000000_1111_000000000000000000000000000000 none = .ok (.nop 15) ∧
    decodeSlot 6 0b0000000000_1111_000000000000000000000000000000 none = .ok (.nop 15) ∧
    decodeSlot 7 0b0000000000_1111_000000000000000000000000000000 none = .ok (.nop 15) := by
  and_intros <;> rfl

/-- The worked encoding of 07: the header and the slots of
`.quiet; li x5, 0x1234_5678_9ABC_DEF0 || vadd.f32 v2, v0, v1 || idle 3`. -/
theorem test_worked_encoding :
    let slot (k : Nat) : Nat :=
      if k = 1 then 0x0D8_0501_2345 else if k = 4 then 0x180_0200_1700 else if k = 7 then 0x678_9ABC_DEF0 else 0
    headerOk 0x1F07 slot = true ∧ hdrQ 0x1F07 = true ∧ hdrIdle 0x1F07 = 3 ∧
      longFor 0x1F07 slot 1 = some 0x6789ABCDEF0 ∧
      decodeSlot 1 (slot 1) (longFor 0x1F07 slot 1) = .ok (.li 0 5 (.long 0x12345 0x6789ABCDEF0)) ∧
      liVal (.long 0x12345 0x6789ABCDEF0) = 0x123456789ABCDEF0 ∧
      decodeSlot 4 (slot 4) none = .ok (.vadd 0 2 0 1 .f32) ∧ isCarrier 0x1F07 7 = true ∧
      headerOk 0x4F07 slot = false ∧ decodeSlot 4 0x180_0200_1E00 none = .error 2 := by
  refine ⟨?_, ?_, ?_, ?_, rfl, ?_, rfl, ?_, ?_, rfl⟩ <;> decide +kernel

/-- The causes of 07 R175: a reserved opcode, an opcode of another slot, a TY that is not accepted, a reserved bit, a
register beyond its file, an odd pair, and cause 0x02 before cause 0x03. -/
theorem test_refused_words :
    decodeSlot 0 0b0000001101_0000_000000000000000000000000000000 none = .error 1 ∧
      decodeSlot 1 0b0000111100_0000_000101_000001_00000000000000_0100 none = .error 1 ∧
      decodeSlot 4 0b0001110001_0000_000001_000010_000000_0111_00000000 none = .error 1 ∧
      decodeSlot 4 0b0001100000_0000_000001_000010_000011_0001_00000000 none = .error 2 ∧
      decodeSlot 6 0b0010000010_0000_000011_000000000000000000000011 none = .error 2 ∧
      decodeSlot 1 0b0000100000_0000_000011_000001_000010_0000_00000001 none = .error 3 ∧
      decodeSlot 1 0b0000100000_0000_100000_000001_000010_0000_00000000 none = .error 3 ∧
      decodeSlot 1 0b0000110100_0000_000011_000001_000010_0000_00000000 none = .error 3 ∧
      decodeSlot 7 0b0000000000_0000_000000000000000000000000000001 none = .error 3 ∧
      decodeSlot 1 0b0000100000_0000_100000_000001_000010_1110_00000001 none = .error 2 := by
  and_intros <;> rfl

/-! ### One step on small states (expected values from 03 and 08 to 13) -/

/-- X[1] and X[2] of a bundle's operands. -/
def xs (a b : Word) (k : Fin 8) : State := at' k fun c => putX (putX c 1 a) 2 b

/-- V[1] and V[2] of a bundle's operands, every lane alike; `p2` holds lane 0 alone. -/
def vs (a b : BitVec 32) (k : Fin 8) : State :=
  at' k fun c => { c with
    v := (c.v.set 1 (ofLanes fun _ => a)).set 2 (ofLanes fun _ => b), p := c.p.set 2 1 }

/-- The effects that an issue leaves to its beats. -/
def effs (o : Host.Outcome State Fault Refusal) : List Eff :=
  match o with
  | .next t => (t.ctx 0 0).timed.map Timed.eff
  | _ => []

/-- The scalar that an issue leaves to land. -/
def gives (o : Host.Outcome State Fault Refusal) : Option Word :=
  match effs o with
  | [.xw _ v] => some v
  | _ => none

/-- Lane `i` of the vector that an issue leaves to land. -/
def laneOf (o : Host.Outcome State Fault Refusal) (i : Nat) : Option (BitVec 32) :=
  match effs o with
  | .vw _ _ v :: _ => some (lane v i)
  | _ => none

theorem test_add_wraps : (landed (exec (.add 0 3 1 2) (xs 0xFFFFFFFFFFFFFFFF 2 1))).x.get 3 = 0 ∧
    gives (exec (.add 0 3 1 2) (xs 0xFFFFFFFFFFFFFFFF 2 1)) = some 1 := by decide +kernel

theorem test_add_immediate_is_signed : gives (exec (.addImm 0 3 1 (.short 0x3FFFF)) (xs 5 0 1)) = some 4 := by
  decide +kernel

theorem test_sub_wraps : gives (exec (.sub 0 3 1 2) (xs 3 5 1)) = some 0xFFFFFFFFFFFFFFFE := by decide +kernel

theorem test_mul : gives (exec (.mul 0 3 1 2) (xs 0xFFFFFFFF 0xFFFFFFFF 1)) = some 0xFFFFFFFE00000001 := by
  decide +kernel

theorem test_mulh : gives (exec (.mulh 0 3 1 2 .u) (xs (-1) (-1) 1)) = some 0xFFFFFFFFFFFFFFFE ∧
    gives (exec (.mulh 0 3 1 2 .s) (xs (-1) (-1) 1)) = some 0 ∧
    gives (exec (.mulh 0 3 1 2 .su) (xs (-1) (-1) 1)) = some 0xFFFFFFFFFFFFFFFF := by decide +kernel

theorem test_shifts_take_six_bits : gives (exec (.shl 0 3 1 2) (xs 1 65 1)) = some 2 ∧
    gives (exec (.shr 0 3 1 2) (xs 0x8000000000000000 63 1)) = some 1 ∧
    gives (exec (.sar 0 3 1 2) (xs (-8) 65 1)) = some 0xFFFFFFFFFFFFFFFC := by decide +kernel

theorem test_counts : gives (exec (.clz 0 3 1) (xs 1 0 1)) = some 63 ∧
    gives (exec (.clz 0 3 1) (xs 0 0 1)) = some 64 ∧ gives (exec (.popc 0 3 1) (xs 0xFF00 0 1)) = some 8 := by
  decide +kernel

theorem test_min_by_keyword : gives (exec (.min 0 3 1 2 .s) (xs (-1) 1 1)) = some 0xFFFFFFFFFFFFFFFF ∧
    gives (exec (.min 0 3 1 2 .u) (xs (-1) 1 1)) = some 1 := by decide +kernel

theorem test_li_and_lih : gives (exec (.li 0 1 (.short 0x800001)) (xs 0 0 1)) = some 0xFFFFFFFFFF800001 ∧
    gives (exec (.lih 0 1 2) (xs 1 0 1)) = some 0x1000002 := by decide +kernel

theorem test_cmp_complements : effs (exec (.cmp 0 4 1 2 .ltu) (xs 1 (-1) 1)) =
    [.pw 5 (BitVec.allOnes 512) 0, .pw 4 (BitVec.allOnes 512) (BitVec.allOnes 512)] := by decide +kernel

theorem test_write_of_x0_discarded : (landed (exec (.csrr 0 0 0x000) (xs 1 1 0))).x.get 0 = 0 ∧
    ((plain 1).ctx 0 0).view.xr 0 = 0 := by decide +kernel

theorem test_load_sign_extends :
    ((({ ctx0 with
      spad := [(8, 0x80)], cbc := 2, timed := [⟨2, 0, 2, 0, .ldx 3 8 1 true⟩] } : Context).beat 0).ctx.timed.map
        fun t => (t.due, t.eff)) = [(4, .xw 3 0xFFFFFFFFFFFFFF80)] := by decide +kernel

theorem test_store_is_little_endian : effs (exec (.sts 0 1 (.short 1) 2 .n16) (xs 8 0x1234 2)) =
    [.store [(10, 0x34), (11, 0x12)] []] := by decide +kernel

theorem test_vector_integer_wraps : laneOf (exec (.vadd 0 3 1 2 .s32) (vs 0x7FFFFFFF 1 4)) 511 = some 0x80000000 ∧
    laneOf (exec (.vabs 0 3 1 .s32) (vs 0x80000000 0 4)) 0 = some 0x80000000 := by decide +kernel

theorem test_vector_float : laneOf (exec (.vadd 2 3 1 2 .f32) (vs 0x3F800000 0x40000000 4)) 0 = some 0x40400000 ∧
    laneOf (exec (.vmul 2 3 1 2 .bf16) (vs 0x40003F80 0x40404040 4)) 0 = some 0x40C04040 := by decide +kernel

/-- 03 R106 to R108: log2(1) is +0, the reciprocal of -0 is -inf, and the root of a negative number the canonical NaN.
-/
theorem test_transcendentals : laneOf (exec (.vlog2 2 3 1 .f32) (vs 0x3F800000 0 5)) 0 = some 0 ∧
    laneOf (exec (.vrcp 2 3 1 .f32) (vs 0x80000000 0 5)) 0 = some 0xFF800000 ∧
    laneOf (exec (.vrsq 2 3 1 .f32) (vs 0xBF800000 0 5)) 0 = some 0x7FC00000 ∧
    laneOf (exec (.vexp2 2 3 1 .f32) (vs 0x43000000 0 5)) 0 = some 0x7F800000 := by decide +kernel

/-- 03 R92: 127.4 converted to `.s8` gives 127 and counts one saturation in its lane. -/
theorem test_convert_saturates : (match effs (exec (.vcvt 2 3 1 .s8 .f32 5) (vs 0x42FECCCD 0 5)) with
      | [.cnt c n _, .vw _ _ v] => some (c, n, lane v 0)
      | _ => none) = some (5, 1, 127) := by decide +kernel

theorem test_unordered_compare : (match effs (exec (.vcmp 0 4 1 2 .f32 .un) (vs 0x7FC00000 0 4)) with
      | [.pw a _ x, .pw b _ y] => some (a, x.toNat, b, y.toNat)
      | _ => none) = some (5, 0, 4, 2 ^ 512 - 1) := by decide +kernel

theorem test_reduction : gives (exec (.vredadd 0 3 1 .n32) (vs 0x80000001 0 5)) = some 512 := by decide +kernel

/-- 08 R180: a target that is no multiple of 48 raises alignment. -/
theorem test_ret_faults : (tstatOf (exec (.ret 0 1) (xs 47 0 0))).toNat % 256 = 3 ∧
    (tstatOf (exec (.ret 0 1) (xs (48 * 43690) 0 0))).toNat % 256 = 4 := by decide +kernel

theorem test_software_trap : (tstatOf (exec (.trap 0 7) (plain 0))).toNat = 0x30 ∧
    (match exec (.trap 0 7) (plain 0) with
      | .next t => (t.ctx 0 0).tinfo
      | _ => 0) = 7 := by decide +kernel

theorem test_acq_takes_aligned_group :
    (match exec (.acq 0 3 4) (at' 6 fun c => { c with held := [(0, 1)] }) with
      | .next t => (t.ctx 0 0).held
      | _ => []) = [(0, 1), (4, 4)] := by decide +kernel

/-- 03, after R100: a contribution of 13 * 2^-1 is 6.5, and 1.0 with it 7.5. -/
theorem test_contribution : fpLane .f32 (fun r => (r 0x3F800000).add (r 0x40D00000)) = 0x40F00000 := by decide +kernel

/-! ### States that meet the hypotheses: slots 0 to 2 -/

/-- A state with nothing in flight issues, whatever the operands. -/
theorem plain_ready (k : Fin 8) (n : Nat) (h : (plain k).cur = some ⟨0, 0⟩ ∧
    ((plain k).ctx 0 0).phase = .issuing k ∧ ((plain k).ctx 0 0).view.guard 0 = true ∧
    ((plain k).ctx 0 0).halting = false ∧ ((plain k).ctx 0 0).heldAt ((plain k).ctx 0 0).cbc ≤ 95) :
    (plain k).Ready 0 0 k 0 n :=
  ready_of ⟨h.1, h.2.1, h.2.2.1, fun e => absurd (h.2.2.2.1.symm.trans e) (by decide), h.2.2.2.2⟩

theorem witness_ScalarOperations :
    (plain 1).Ready 0 0 1 0 0 ∧ (plain 1).Ready 0 0 1 0 2 ∧ (plain 2).Ready 0 0 2 0 0 :=
  ⟨plain_ready 1 0 (by decide +kernel), plain_ready 1 2 (by decide +kernel), plain_ready 2 0 (by decide +kernel)⟩

theorem witness_SelectByPredicate : (plain 1).Ready 0 0 1 0 0 := witness_ScalarOperations.1

theorem witness_LoadImmediateAndCompare : (plain 1).Ready 0 0 1 0 0 ∧ (14 : Fin 16).val % 2 = 0 :=
  ⟨witness_ScalarOperations.1, by decide⟩

/-- The state that an answer holds. -/
def nextOf (o : Host.Outcome State Fault Refusal) : State :=
  match o with
  | .next t => t
  | _ => State.reset

/-- What an issue leaves of the phase of seat 0 of brick 0. -/
def phaseOf (o : Host.Outcome State Fault Refusal) : Phase := ((nextOf o).ctx 0 0).phase

theorem witness_SlotOutcomes : slots (.add 0 3 1 2) ≠ [] ∧ (plain 1).Issues 0 0 1 ∧
    (∃ t, exec (.add 0 3 1 2) (plain 1) = .next t) ∧ phaseOf (exec (.add 0 3 1 2) (plain 1)) = nextPhase 1 :=
  ⟨by decide, issues_of (by decide +kernel), ⟨_, rfl⟩, by decide +kernel⟩

theorem witness_SlotFrame : slots (.xat 0 0 1 2 3 .add) ≠ [] ∧ (plain 7).Issues 0 0 7 ∧
    (∃ t, exec (.nop 0) (plain 7) = .next t ∧ (t.ctx 0 0).phase = nextPhase 7) :=
  ⟨by decide, issues_of (by decide +kernel), ⟨_, rfl, by decide +kernel⟩⟩

theorem witness_GuardOffAndNop : (plain 1).Issues 0 0 1 ∧ ((plain 1).ctx 0 0).Fits ((plain 1).ctx 0 0).cbc ∧
    wholeGuard (.add 1 3 1 2) = some 1 ∧ ((plain 1).ctx 0 0).view.guard 1 = false ∧
    laneGuard (.vadd 1 3 1 2 .f32) = some 1 ∧ ((plain 1).ctx 0 0).view.pr 1 = 0 :=
  ⟨issues_of (by decide +kernel), ⟨by decide +kernel, by decide +kernel⟩, rfl, by decide +kernel, rfl,
    by decide +kernel⟩

theorem witness_GuardOffAndNop_csrw : (plain 0).Issues 0 0 0 ∧ ((plain 0).ctx 0 0).Fits ((plain 0).ctx 0 0).cbc ∧
    ((plain 0).ctx 0 0).view.guard 1 = false ∧ csrReadOnly (0x041 : BitVec 12).toNat = false ∧
    csrTape (0x041 : BitVec 12).toNat = true ∧ ((plain 0).ctx 0 0).dmode = .off ∧
    csrTape (0x020 : BitVec 12).toNat = false ∧ csrReadOnly (0x020 : BitVec 12).toNat = false :=
  ⟨issues_of (by decide +kernel), ⟨by decide +kernel, by decide +kernel⟩, by decide +kernel⟩

/-- 96 results that land at beat 5. -/
def full : State := at' 1 fun c => { c with cbc := 1, lset := List.replicate 96 ⟨0, 1, 5, none⟩ }

theorem witness_IssueRefusals_landing_set : full.Issues 0 0 1 ∧ (full.ctx 0 0).view.guard 0 = true ∧
    (full.ctx 0 0).halting = false ∧ (full.ctx 0 0).heldAt (full.ctx 0 0).cbc = 96 :=
  ⟨issues_of (by decide +kernel), by decide +kernel⟩

/-- A product there would hold an entry, were there room. -/
theorem witness_IssueRefusals_entry : slots (.mul 0 3 1 2) ≠ [] ∧
    (let roomy := full.setCtx 0 0 { full.ctx 0 0 with lset := [], halting := false }
     ∃ d e, exec (.mul 0 3 1 2) roomy = .next (roomy.issued 0 0 1 d) ∧ d.lset = [e] ∧ (full.ctx 0 0).cbc < e.last) :=
  ⟨by decide, _, _, scalarOp_next (issues_of (by decide +kernel)) (by decide +kernel) 3 3 _
    ⟨by decide +kernel, by decide +kernel⟩, rfl, by decide +kernel⟩

/-- A `halt` stands in slot 0 of the bundle. -/
def halts (k : Fin 8) : State := at' k fun c => { c with halting := true }

theorem witness_IssueRefusals_halt : (halts 7).Ready 0 0 7 0 0 ∧ ((halts 7).ctx 0 0).halting = true :=
  ⟨ready_of (by decide +kernel), by decide +kernel⟩

/-- Token 3 is in the state `x`, in a subcube of 2 dimensions; X[4] names dimension 1 as that of an `xsib`. -/
def token (k : Fin 8) (x : Token) : State :=
  at' k fun c => { putX c 4 (2 ^ 56) with tok := c.tok.set 3 x, crd := 0x2000 }

theorem witness_IssueRefusals_token : (token 7 .outstanding).Ready 0 0 7 0 0 ∧
    ((token 7 .outstanding).ctx 0 0).halting = false ∧ ((token 7 .outstanding).ctx 0 0).tok.get 3 = .outstanding ∧
    ((token 7 .outstanding).ctx 0 0).ndim ≤ (2 : Fin 16).val ∧
    2 ^ ((token 7 .outstanding).ctx 0 0).ndim ≤ (4 : BitVec 12).toNat ∧
    (1 : Fin 16).val < ((token 7 .outstanding).ctx 0 0).ndim ∧
    ((token 7 .outstanding).xin 0 0 4).toNat / 2 ^ 56 % 16 < ((token 7 .outstanding).ctx 0 0).ndim ∧
    (3 : BitVec 12).toNat < 2 ^ ((token 7 .outstanding).ctx 0 0).ndim :=
  ⟨ready_of (by decide +kernel), by decide +kernel⟩

/-- The selector of an `xsib` names dimension 2 of two. -/
theorem witness_IssueRefusals_selector :
    let s := at' 7 fun c => { putX c 4 (2 * 2 ^ 56) with crd := 0x2000 }
    s.Ready 0 0 7 0 0 ∧ (s.ctx 0 0).halting = false ∧ (1 : Fin 16).val < (s.ctx 0 0).ndim ∧
      (s.ctx 0 0).ndim ≤ (s.xin 0 0 4).toNat / 2 ^ 56 % 16 :=
  ⟨ready_of (by decide +kernel), by decide +kernel⟩

/-- The last bundle of the share, and the one after it (R36). -/
theorem witness_ControlTransfers_branches : (plain 0).Ready 0 0 0 0 0 ∧
    48 * (43689 : BitVec 16).toNat + 48 ≤ ((plain 0).ctx 0 0).imemShare ∧
    ((plain 0).ctx 0 0).imemShare < 48 * (43690 : BitVec 16).toNat + 48 :=
  ⟨plain_ready 0 0 (by decide +kernel), by decide +kernel⟩

theorem witness_ControlTransfers_loops : (plain 0).Ready 0 0 0 0 0 ∧ ((plain 0).ctx 0 0).lc = 0 ∧
    (at' 0 fun c => { c with lc := 1 }).Ready 0 0 0 0 0 ∧ ((at' 0 fun c => { c with lc := 1 }).ctx 0 0).lc ≠ 0 ∧
    48 * (43689 : BitVec 16).toNat + 48 ≤ ((at' 0 fun c => { c with lc := 1 }).ctx 0 0).imemShare ∧
    ((at' 0 fun c => { c with lc := 1 }).ctx 0 0).imemShare < 48 * (43690 : BitVec 16).toNat + 48 :=
  ⟨plain_ready 0 0 (by decide +kernel), by decide +kernel, ready_of (by decide +kernel), by decide +kernel⟩

/-- A pin of two bundles at the last bundle but one, whose second is beyond the share. -/
theorem witness_ControlTransfers_pin :
    let s := at' 0 fun c => { c with pc := 48 * 43688 }
    s.Ready 0 0 0 0 0 ∧ (s.ctx 0 0).pc + 48 + 48 * 1 ≤ (s.ctx 0 0).imemShare ∧
      (s.ctx 0 0).imemShare < (s.ctx 0 0).pc + 48 + 48 * 2 :=
  ⟨ready_of (by decide +kernel), by decide +kernel⟩

theorem witness_ControlTransfers_effects :
    (⟨0, 0, 0, 0, .rotate⟩ : Timed).eff = .rotate ∧ (⟨0, 0, 0, 0, .setLc 4⟩ : Timed).eff = .setLc 4 := ⟨rfl, rfl⟩

/-- A slip of one beat. -/
def late : State := at' 0 fun c => { c with slipOffset := 1 }

theorem witness_TimetableCheck : late.Ready 0 0 0 0 0 ∧
    (late.ctx 0 0).slipAt (late.brick 0).gbc (late.ctx 0 0).cbc = 1 ∧
    (1 : Word).toNat ≤ min ((late.xin 0 0 0).toNat + (1 : BitVec 18).toNat) (2 ^ 64 - 1) ∧
    min ((late.xin 0 0 0).toNat + (0 : BitVec 18).toNat) (2 ^ 64 - 1) < (1 : Word).toNat :=
  ⟨ready_of (by decide +kernel), by decide +kernel⟩

/-- Token 3 names a copy whose defer ends before beat `n`. -/
def copying (n : Nat) : State := at' 0 fun c =>
  { c with cbc := 5, tok := c.tok.set 3 .outstanding, ops := [Op.blank 1 .cpld 3 n 0] }

theorem witness_ConsumeTokenHaltAndTrap_tokens : (token 0 .free).Ready 0 0 0 0 0 ∧
  ((token 0 .free).ctx 0 0).tok.get 3 = .free ∧
    (token 0 .good).Ready 0 0 0 0 0 ∧ ((token 0 .good).ctx 0 0).tok.get 3 = .good ∧
    (token 0 (.error 2)).Ready 0 0 0 0 0 ∧ ((token 0 (.error 2)).ctx 0 0).tok.get 3 = .error 2 ∧
    (copying 5).Ready 0 0 0 0 0 ∧ ((copying 5).ctx 0 0).tok.get 3 = .outstanding ∧
    ((copying 5).ctx 0 0).unstarted 3 = true ∧
    (copying 4).Ready 0 0 0 0 0 ∧ ((copying 4).ctx 0 0).tok.get 3 = .outstanding ∧
    ((copying 4).ctx 0 0).unstarted 3 = false :=
  ⟨ready_of (by decide +kernel), by decide +kernel, ready_of (by decide +kernel), by decide +kernel,
    ready_of (by decide +kernel), by decide +kernel, ready_of (by decide +kernel), by decide +kernel,
    by decide +kernel, ready_of (by decide +kernel), by decide +kernel⟩

/-- One result in flight, and a group held. -/
def busy : State := at' 0 fun c => { c with cbc := 1, lset := [⟨0, 1, 1, none⟩] }
def holding : State := at' 0 fun c => { c with held := [(8, 2)] }

theorem witness_ConsumeTokenHaltAndTrap_halts : busy.Ready 0 0 0 0 0 ∧ (busy.ctx 0 0).counted (busy.ctx 0 0).cbc ≠ 0 ∧
    holding.Ready 0 0 0 0 0 ∧ (holding.ctx 0 0).counted (holding.ctx 0 0).cbc = 0 ∧
    (holding.ctx 0 0).held = (8, 2) :: [] ∧
    (plain 0).Ready 0 0 0 0 0 ∧ ((plain 0).ctx 0 0).counted ((plain 0).ctx 0 0).cbc = 0 ∧
    ((plain 0).ctx 0 0).held = [] :=
  ⟨ready_of (by decide +kernel), by decide +kernel, ready_of (by decide +kernel), by decide +kernel,
    by decide +kernel, plain_ready 0 0 (by decide +kernel), by decide +kernel⟩

/-- Forward-taped mode. -/
def taping : State := at' 0 fun c => { c with dmode := .fwd, tapel := 64 }

theorem witness_ControlRegisters : (plain 0).Ready 0 0 0 0 0 ∧ (0x012 : BitVec 12) ≠ 0x010 ∧
    (0x012 : BitVec 12) ≠ 0x013 ∧ csrReadOnly (0x020 : BitVec 12).toNat = false ∧
    csrTape (0x020 : BitVec 12).toNat = false ∧ csrReadOnly (0x041 : BitVec 12).toNat = false ∧
    csrTape (0x041 : BitVec 12).toNat = true ∧ ((plain 0).ctx 0 0).dmode = .off ∧
    csrReadOnly (0x000 : BitVec 12).toNat = true ∧ taping.Issues 0 0 0 ∧ (taping.ctx 0 0).dmode ≠ .off := by
  refine ⟨plain_ready 0 0 (by decide +kernel), ?_, ?_, ?_, ?_, ?_, ?_, ?_, ?_, issues_of (by decide +kernel), ?_⟩ <;>
    decide +kernel

/-- The effects that the clauses on a due beat speak of, alone and in pairs. -/
def ctlAt (l : List Eff) : Context :=
  { ctx0 with cbc := 5, wcol := true, lc := 7, rrb := 3, timed := l.map fun e => ⟨5, 0, 0, 0, e⟩ }

theorem witness_ControlRegisters_due :
    (∀ t ∈ (ctlAt []).timed, t.due ≠ (ctlAt []).cbc) ∧
    (ctlAt [.markPush 7]).timed.filter (fun u => u.due == (ctlAt [.markPush 7]).cbc) = [⟨5, 0, 0, 0, .markPush 7⟩] ∧
    (ctlAt [.cnt 2 3 4]).timed.filter (fun u => u.due == (ctlAt [.cnt 2 3 4]).cbc) = [⟨5, 0, 0, 0, .cnt 2 3 4⟩] ∧
    (ctlAt [.setLc 6, .rotate]).timed.filter (fun u => u.due == (ctlAt [.setLc 6, .rotate]).cbc) =
      [⟨5, 0, 0, 0, .setLc 6⟩, ⟨5, 0, 0, 0, .rotate⟩] ∧
    (ctlAt [.xw 3 1, .xw 3 2]).timed = [⟨5, 0, 0, 0, .xw 3 1⟩, ⟨5, 0, 0, 0, .xw 3 2⟩] ∧
    (⟨5, 0, 0, 0, .xw 3 1⟩ : Timed) ≠ ⟨5, 0, 0, 0, .xw 3 2⟩ ∧ ∀ l, (ctlAt l).late = [] := by
  refine ⟨?_, ?_, ?_, ?_, rfl, by decide, fun _ => rfl⟩ <;> decide +kernel

theorem witness_ControlRegisters_alone :
    (∀ e ∈ [Eff.csr 0x020 9, .csrTime 3 0x010, .rotate, .setLc 6, .setMode .fwd, .setRegion 2 1],
      (ctlAt [e]).Alone ⟨5, 0, 0, 0, e⟩) := by
  intro e he
  simp only [List.mem_cons, List.not_mem_nil, or_false] at he
  rcases he with rfl | rfl | rfl | rfl | rfl | rfl <;>
    (constructor <;> decide +kernel)

/-- Regions 0 and 1 of the image: an FP32 region of 64 bytes from 128 with FP32 cells from 256, and one with no
length. -/
def region : BitVec 128 := BitVec.ofNat 128 (128 + 64 * 2 ^ 32 + 256 * 2 ^ 64 + 7 * 2 ^ 92)
def regionState (x : Word) : State := at' 0 fun c => { putX c 1 x with regions := [some region, some 0] }

theorem witness_DifferentiableSwitches_dreg :
    (regionState 2).Ready 0 0 0 0 0 ∧ 1 < ((regionState 2).xin 0 0 1).toNat ∧
    taping.Ready 0 0 0 0 0 ∧ (taping.xin 0 0 1).toNat ≤ 1 ∧ (taping.ctx 0 0).dmode ≠ .off ∧
    (regionState 0).Ready 0 0 0 0 0 ∧ ((regionState 0).xin 0 0 1).toNat = 0 ∧
    ((regionState 0).ctx 0 0).dmode = .off ∧
    (regionState 1).Ready 0 0 0 0 0 ∧ ((regionState 1).xin 0 0 1).toNat = 1 ∧
    ((regionState 1).ctx 0 0).dmode = .off ∧ ((regionState 1).ctx 0 0).regions.getD 2 none = none ∧
    ((regionState 1).ctx 0 0).regions.getD 1 none = some 0 ∧
    (regionShape 0 ((regionState 1).ctx 0 0).spadShare && ((regionState 1).ctx 0 0).regionClear 1 0) = false ∧
    ((regionState 1).ctx 0 0).regions.getD 0 none = some region ∧
    (regionShape region ((regionState 1).ctx 0 0).spadShare &&
      ((regionState 1).ctx 0 0).regionClear 0 region) = true :=
  ⟨ready_of (by decide +kernel), by decide +kernel, ready_of (by decide +kernel), by decide +kernel,
    by decide +kernel, ready_of (by decide +kernel), by decide +kernel, by decide +kernel,
    ready_of (by decide +kernel), by decide +kernel⟩

/-- The tape window from 0 to 64, its cursor and the mode. -/
def tape (m : Mode) (cursor : BitVec 27) : State :=
  at' 0 fun c => { c with dmode := m, tapel := 64, tapec := cursor }

theorem witness_DifferentiableSwitches_dmode : (tape .off 64).Ready 0 0 0 0 0 ∧
    ((tape .off 64).ctx 0 0).windowFault = none ∧ (plain 0).Ready 0 0 0 0 0 ∧
    ((plain 0).ctx 0 0).windowFault = some 0 :=
  ⟨ready_of (by decide +kernel), by decide +kernel, plain_ready 0 0 (by decide +kernel), by decide +kernel⟩

/-- The window from `lo` to `hi` with its cursor, in a context that `f` makes. -/
def windowOf (lo hi cur : BitVec 27) (f : Context → Context) : Context :=
  f { ctx0 with tapeb := lo, tapel := hi, tapec := cur }

/-- Each check of the window at a value that breaks it: empty, the cursor on either side, the share, a tile, an enabled
region, a store still to perform, a copy in flight, a cursor that is no multiple of 8; and one that passes all. -/
theorem witness_DifferentiableSwitches_window :
    let spans := [(128, 64), (256, 64)]
    let region0 := windowOf 0 0x1000 0 fun c => { c with ag := c.ag.set 0 (agEnable region) }
    let store := windowOf 0x40 0x80 0x40 fun c => { c with timed := [⟨3, 0, 0, 0, .store [(0x48, 1)] []⟩] }
    let copy := windowOf 0x40 0x80 0x40 fun c => { c with ops := [{ Op.blank 1 .cpld 3 4 1 with b := 0x78, c := 64 }] }
    (windowOf 64 64 64 id).tapel.toNat ≤ (windowOf 64 64 64 id).tapeb.toNat ∧
    (windowOf 64 128 0 id).tapec.toNat < (windowOf 64 128 0 id).tapeb.toNat ∧
    (windowOf 64 128 129 id).tapel.toNat < (windowOf 64 128 129 id).tapec.toNat ∧
    (windowOf 0 (2 ^ 26 + 64) 0 fun c => { c with seatf := 2 }).spadShare < 2 ^ 26 + 64 ∧
    (windowOf 0 0x1040 8 fun c => { c with tiles := [0x1000] }).windowFault = some 0x1000 ∧
    region0.windowFault = some 128 ∧ (region0.ag.get 0).getLsbD 97 = true ∧
    store.windowFault = some 0x48 ∧ copy.windowFault = some 0x78 ∧ spans.length = 2 ∧
    (windowOf 64 128 68 id).windowFault = some 68 ∧ (windowOf 64 128 64 id).windowFault = none := by decide +kernel

theorem witness_DifferentiableSwitches_tmark :
    (tape .off 0).Ready 0 0 0 0 2 ∧ ((tape .off 0).ctx 0 0).dmode = .off ∧
    (tape .fwd 56).Ready 0 0 0 0 2 ∧ ((tape .fwd 56).ctx 0 0).dmode = .fwd ∧
    (((tape .fwd 56).ctx 0 0).tapec.toNat + tapeMoves ((tape .fwd 56).ctx 0 0).timed : Int) + 8 ≤ 64 ∧
    (tape .fwd 64).Ready 0 0 0 0 2 ∧
    (64 : Int) < ((tape .fwd 64).ctx 0 0).tapec.toNat + tapeMoves ((tape .fwd 64).ctx 0 0).timed + 8 ∧
    (tape .rev 8).Ready 0 0 0 0 2 ∧ ((tape .rev 8).ctx 0 0).dmode = .rev ∧
    (0 : Int) ≤ ((tape .rev 8).ctx 0 0).tapec.toNat + tapeMoves ((tape .rev 8).ctx 0 0).timed - 8 ∧
    (tape .rev 0).Ready 0 0 0 0 2 ∧
    ((tape .rev 0).ctx 0 0).tapec.toNat + tapeMoves ((tape .rev 0).ctx 0 0).timed - 8 < (0 : Int) :=
  ⟨ready_of (by decide +kernel), by decide +kernel, ready_of (by decide +kernel), by decide +kernel,
    by decide +kernel, ready_of (by decide +kernel), by decide +kernel, ready_of (by decide +kernel),
    by decide +kernel, by decide +kernel, ready_of (by decide +kernel), by decide +kernel⟩

/-- X[1] holds an address of the bundle's access. -/
def access (k : Fin 8) (a : Word) : State := at' k fun c => putX c 1 a

theorem witness_ScalarAccess :
    (access 2 0x8000000).Ready 0 0 2 0 0 ∧
    ((access 2 0x8000000).ctx 0 0).spadShare ≤
      ((access 2 0x8000000).xin 0 0 1 + dispVal (scalarBytes .none) (.short 0)).toNat ∧
    (access 2 0x7FFFFFC).Ready 0 0 2 0 0 ∧
    ((access 2 0x7FFFFFC).xin 0 0 1 + dispVal (scalarBytes .none) (.short 0)).toNat <
      ((access 2 0x7FFFFFC).ctx 0 0).spadShare ∧
    ((access 2 0x7FFFFFC).xin 0 0 1 + dispVal (scalarBytes .none) (.short 0)).toNat % scalarBytes .none ≠ 0 ∧
    (access 2 0x8000000).Ready 0 0 2 0 3 ∧
    ((access 2 0x8000000).xin 0 0 1 + dispVal (scalarBytes .none) (.short (-1))).toNat = 2 ^ 27 - 8 ∧
    ((access 2 0x8000000).ctx 0 0).spadShare = 2 ^ 27 ∧ ((access 2 0x8000000).ctx 0 0).dmode = .off :=
  ⟨ready_of (by decide +kernel), by decide +kernel, ready_of (by decide +kernel), by decide +kernel,
    by decide +kernel, ready_of (by decide +kernel), by decide +kernel⟩

/-- An address that is aligned though its long displacement of 3 bytes is not (07 R166). -/
theorem witness_ScalarAccess_displacement : (access 2 5).Ready 0 0 2 0 0 ∧
    ((access 2 5).xin 0 0 1 + dispVal (scalarBytes .none) (.long 3)).toNat % scalarBytes .none = 0 ∧
    (dispVal (scalarBytes .none) (.long 3)).toInt % scalarBytes .none ≠ 0 ∧
    (dispVal (scalarBytes .none) (.short 1)).toInt % scalarBytes .none = 0 ∧
    (dispVal (scalarBytes .none) (.long 16)).toInt % scalarBytes .none = 0 :=
  ⟨ready_of (by decide +kernel), by decide +kernel⟩

/-- Region 0 enabled, a tape window from 0x1000 to 0x1040, and X[1] = 128, an element of the region. -/
def grad (m : Mode) (cursor : BitVec 27) (a : Word) : State := at' 2 fun c =>
  { putX c 1 a with
    ag := c.ag.set 0 (agEnable region), dmode := m, tapeb := 0x1000, tapel := 0x1040, tapec := cursor }

theorem witness_ScalarAccessDifferentiable_addresses :
    ((grad .fwd 0x1000 128).xin 0 0 1 + dispVal (scalarBytes .s32) (.short 0)).toNat = 128 ∧
    ((grad .fwd 0x1000 128).ctx 0 0).covered 128 4 ≠ [] ∧
    ((((grad .fwd 0x1000 128).ctx 0 0).covered 128 8).map Elem.addr).Nodup ∧
    ((grad .fwd 0x1000 128).ctx 0 0).windowHit 128 8 = none ∧
    (((grad .fwd 0x1000 128).ctx 0 0).covered 128 8).length = 2 := by decide +kernel

theorem witness_ScalarAccessDifferentiable_modes :
    (grad .fwd 0x1030 128).Ready 0 0 2 0 3 ∧ ((grad .fwd 0x1030 128).ctx 0 0).dmode = .fwd ∧
    (((grad .fwd 0x1030 128).ctx 0 0).tapec.toNat + tapeMoves ((grad .fwd 0x1030 128).ctx 0 0).timed : Int) + 16 ≤
      0x1040 ∧
    (grad .fwd 0x1038 128).Ready 0 0 2 0 3 ∧
    (0x1040 : Int) <
      ((grad .fwd 0x1038 128).ctx 0 0).tapec.toNat + tapeMoves ((grad .fwd 0x1038 128).ctx 0 0).timed + 16 ∧
    (grad .rev 0x1010 128).Ready 0 0 2 0 3 ∧ ((grad .rev 0x1010 128).ctx 0 0).dmode = .rev ∧
    (0x1000 : Int) ≤
      ((grad .rev 0x1010 128).ctx 0 0).tapec.toNat + tapeMoves ((grad .rev 0x1010 128).ctx 0 0).timed - 16 ∧
    (grad .rev 0x1008 128).Ready 0 0 2 0 3 ∧
    ((grad .rev 0x1008 128).ctx 0 0).tapec.toNat + tapeMoves ((grad .rev 0x1008 128).ctx 0 0).timed - 16 <
      (0x1000 : Int) :=
  ⟨ready_of (by decide +kernel), by decide +kernel, by decide +kernel, ready_of (by decide +kernel),
    by decide +kernel, ready_of (by decide +kernel), by decide +kernel, by decide +kernel,
    ready_of (by decide +kernel), by decide +kernel⟩

/-- A byte covers no element of the region whole; a word covers one. -/
theorem witness_ScalarAccessDifferentiable_width :
    (((grad .rev 0x1010 128).ctx 0 0).covered 128 1).filter (fun e => decide (e.width ≤ 1)) = [] ∧
    ((grad .rev 0x1010 128).ctx 0 0).covered 128 1 ≠ [] ∧
    (((grad .rev 0x1010 128).ctx 0 0).covered 128 4).filter (fun e => decide (e.width ≤ 4)) ≠ [] := by
  decide +kernel

/-- From 0x800 an access touches no element of the region. -/
theorem witness_ScalarAccessDifferentiable_apart : (grad .rev 0x1010 0x800).Ready 0 0 2 0 3 ∧
    ((grad .rev 0x1010 0x800).xin 0 0 1 + dispVal (scalarBytes .none) (.short 0)).toNat = 0x800 ∧
    ((grad .rev 0x1010 0x800).ctx 0 0).covered 0x800 (scalarBytes .none) = [] ∧
    ((grad .rev 0x1010 0x800).ctx 0 0).windowHit 0x800 (scalarBytes .none) = none :=
  ⟨ready_of (by decide +kernel), by decide +kernel⟩

theorem witness_ScalarAccessDifferentiable_window :
    (grad .fwd 0x1000 0x1038).Ready 0 0 2 0 0 ∧
    ((grad .fwd 0x1000 0x1038).xin 0 0 1 + dispVal (scalarBytes .none) (.short 0)).toNat = 0x1038 ∧
    ((grad .fwd 0x1000 0x1038).ctx 0 0).dmode ≠ .off ∧
    ((grad .fwd 0x1000 0x1038).ctx 0 0).tapeb.toNat < ((grad .fwd 0x1000 0x1038).ctx 0 0).tapel.toNat ∧
    0x1038 < ((grad .fwd 0x1000 0x1038).ctx 0 0).tapel.toNat ∧
    ((grad .fwd 0x1000 0x1038).ctx 0 0).tapeb.toNat < 0x1038 + 8 :=
  ⟨ready_of (by decide +kernel), by decide +kernel⟩

/-! ### States that meet the hypotheses: slots 3 to 7 -/

/-- V[2] counts lanes, `p2` holds lanes 3 and 5, and X[1] = a. -/
def lanesAt (k : Fin 8) (a : Word) : State := at' k fun c =>
  { putX c 1 a with v := c.v.set 2 (ofLanes fun i => BitVec.ofNat 32 i), p := c.p.set 2 0x28 }

theorem witness_VectorLoads_in_share : (lanesAt 3 (2 ^ 27 - 2048)).ReadyLanes 0 0 3 0 (BitVec.allOnes 512) 6 ∧
    ((lanesAt 3 (2 ^ 27 - 2048)).ctx 0 0).dmode ≠ .rev ∧
    ((lanesAt 3 (2 ^ 27 - 2048)).ctx 0 0).LanesInShare (BitVec.allOnes 512) (.contig (2 ^ 27 - 2048)) 4 ∧
    ((lanesAt 3 (2 ^ 27 - 2048)).xin 0 0 1 + dispVal 4 (.short 0)).toNat = 2 ^ 27 - 2048 ∧
    ((lanesAt 3 (2 ^ 27 - 2048)).ctx 0 0).LanesInShare 0x28
      (.indexed (2 ^ 27 - 24) ((lanesAt 3 (2 ^ 27 - 2048)).vin 0 0 2)) 4 :=
  ⟨readyLanes_of (by decide +kernel), by decide +kernel, by unfold Context.LanesInShare; decide +kernel,
    by decide +kernel, by unfold Context.LanesInShare; decide +kernel⟩

theorem witness_VectorLoads_beyond :
    (lanesAt 3 (2 ^ 27 - 2044)).ReadyLanes 0 0 3 0 (BitVec.allOnes 512) 0 ∧
    ((lanesAt 3 (2 ^ 27 - 2044)).ctx 0 0).FirstBeyond (BitVec.allOnes 512)
      (.contig ((lanesAt 3 (2 ^ 27 - 2044)).xin 0 0 1 + dispVal 4 (.short 0)).toNat) 4 511 ∧
    ((lanesAt 3 (2 ^ 27 - 20)).ctx 0 0).FirstBeyond 0x28
      (.indexed ((lanesAt 3 (2 ^ 27 - 20)).xin 0 0 1).toNat ((lanesAt 3 (2 ^ 27 - 20)).vin 0 0 2)) 4 5 ∧
    (lanesAt 3 (2 ^ 27 - 20)).ReadyLanes 0 0 3 2 0x28 0 ∧
    ((lanesAt 3 2).ctx 0 0).LanesInShare (BitVec.allOnes 512) (.contig 2) 4 ∧
    ((lanesAt 3 2).xin 0 0 1 + dispVal 4 (.short 0)).toNat % 4 ≠ 0 ∧
    (lanesAt 3 2).ReadyLanes 0 0 3 0 (BitVec.allOnes 512) 0 :=
  ⟨readyLanes_of (by decide +kernel), by unfold Context.FirstBeyond; decide +kernel,
    by unfold Context.FirstBeyond; decide +kernel, readyLanes_of (by decide +kernel),
    by unfold Context.LanesInShare; decide +kernel, by decide +kernel, readyLanes_of (by decide +kernel)⟩

theorem witness_VectorLoads_displacement : (lanesAt 3 1).ReadyLanes 0 0 3 2 0x28 0 ∧
    ((lanesAt 3 1).ctx 0 0).LanesInShare 0x28 (.contig ((lanesAt 3 1).xin 0 0 1 + dispVal 4 (.long 3)).toNat) 4 ∧
    ((lanesAt 3 1).xin 0 0 1 + dispVal 4 (.long 3)).toNat % 4 = 0 ∧ (dispVal 4 (.long 3)).toInt % 4 ≠ 0 :=
  ⟨readyLanes_of (by decide +kernel), by unfold Context.LanesInShare; decide +kernel, by decide +kernel⟩

theorem witness_VectorStores : (lanesAt 3 64).ReadyLanes 0 0 3 2 0x28 6 ∧ ((lanesAt 3 64).ctx 0 0).dmode = .off ∧
    ((lanesAt 3 64).ctx 0 0).LanesInShare 0x28 (.contig ((lanesAt 3 64).xin 0 0 1 + dispVal 4 (.short 0)).toNat) 4 ∧
    ((lanesAt 3 64).ctx 0 0).LanesInShare 0x28 (.indexed 64 ((lanesAt 3 64).vin 0 0 2)) (atomBytes .n32) ∧
    ((lanesAt 3 64).xin 0 0 1).toNat = 64 :=
  ⟨readyLanes_of (by decide +kernel), by decide +kernel, by unfold Context.LanesInShare; decide +kernel,
    by unfold Context.LanesInShare; decide +kernel, by decide +kernel⟩

theorem witness_VectorStores_faults :
    let s := lanesAt 3 (2 ^ 27 - 20)
    let t := lanesAt 3 66
    (s.ReadyLanes 0 0 3 2 0x28 0 ∧
      (s.ctx 0 0).FirstBeyond 0x28 (.contig (s.xin 0 0 1 + dispVal 4 (.short 0)).toNat) 4 5 ∧
      (s.ctx 0 0).FirstBeyond 0x28 (.indexed (s.xin 0 0 1).toNat (s.vin 0 0 2)) 4 5) ∧
    t.ReadyLanes 0 0 3 2 0x28 0 ∧
      (t.ctx 0 0).LanesInShare 0x28 (.contig (t.xin 0 0 1 + dispVal 4 (.short 0)).toNat) 4 ∧
      (t.ctx 0 0).LanesInShare 0x28 (.indexed (t.xin 0 0 1).toNat (t.vin 0 0 2)) 4 ∧
      (t.xin 0 0 1).toNat % 4 ≠ 0 ∧ vecBytes .n32 = 4 ∧ atomBytes .n32 = 4 :=
  ⟨⟨readyLanes_of (by decide +kernel), by unfold Context.FirstBeyond; decide +kernel,
      by unfold Context.FirstBeyond; decide +kernel⟩, readyLanes_of (by decide +kernel),
    by unfold Context.LanesInShare; decide +kernel, by unfold Context.LanesInShare; decide +kernel, by decide +kernel⟩

/-- Lanes 3 and 5 active, with V[2] their numbers; region 0 enabled, a tape window from 0x1000 to 0x1040. -/
def gradLanes (m : Mode) (cursor : BitVec 27) (a : Word) : State := at' 3 fun c =>
  { putX c 1 a with
    v := c.v.set 2 (ofLanes fun i => BitVec.ofNat 32 i), p := c.p.set 2 0x28
    ag := c.ag.set 0 (agEnable region), dmode := m, tapeb := 0x1000, tapel := 0x1040, tapec := cursor }

/-- From 116 the two lanes cover elements of the region; from 176 the lower alone; from 0x800 neither. -/
theorem witness_VectorAccessDifferentiable_covers :
    let c := (gradLanes .fwd 0x1000 116).ctx 0 0
    let ix (a : Nat) := LaneAddrs.indexed a ((gradLanes .fwd 0x1000 116).vin 0 0 2)
    let lanes := (List.range 512).filter (act 0x28)
    lanes = [3, 5] ∧ (c.laneElems 0x28 (.contig 116) 4).length = 2 ∧ (c.laneElems 0x28 (ix 116) 4).length = 2 ∧
      (c.laneElems 0x28 (.contig 116) 4).Pairwise (fun x y => x.2.2.addr ≤ y.2.2.addr) ∧
      c.laneElems 0x28 (.contig 0x800) 4 = [] ∧ c.laneElems 0x28 (ix 0x800) 4 = [] ∧
      (∀ i ∈ lanes, c.windowHit ((LaneAddrs.contig 116).at 4 i) 4 = none) ∧
      (∀ i ∈ lanes, c.windowHit ((ix 116).at 4 i) 4 = none) ∧
      (∀ i ∈ lanes, c.covered ((LaneAddrs.contig 116).at 4 i) 4 ≠ []) ∧
      c.covered ((LaneAddrs.contig 176).at 4 3) 4 ≠ [] ∧ c.covered ((LaneAddrs.contig 176).at 4 5) 4 = [] ∧
      (c.laneElems 0x28 (.contig 128) 1).any (fun x => decide (x.2.2.width ≤ 1)) = false := by decide +kernel

theorem witness_VectorAccessDifferentiable_modes :
    (∀ m ∈ [Mode.off, .fwd, .rev], ((gradLanes m 0x1030 116).ctx 0 0).dmode = m) ∧
    (gradLanes .fwd 0x1030 116).ReadyLanes 0 0 3 2 0x28 6 ∧ (gradLanes .rev 0x1010 116).ReadyLanes 0 0 3 2 0x28 6 ∧
    ((gradLanes .fwd 0x1030 116).ctx 0 0).LanesInShare 0x28
      (.contig ((gradLanes .fwd 0x1030 116).xin 0 0 1 + dispVal 4 (.short 0)).toNat) 4 ∧
    ((gradLanes .fwd 0x1030 116).ctx 0 0).LanesInShare 0x28
      (.indexed 116 ((gradLanes .fwd 0x1030 116).vin 0 0 2)) 4 ∧
    ((gradLanes .fwd 0x1030 116).xin 0 0 1).toNat = 116 ∧ (dispVal 4 (.short 0)).toInt % 4 = 0 ∧
    (((gradLanes .fwd 0x1030 116).ctx 0 0).tapec.toNat +
      tapeMoves ((gradLanes .fwd 0x1030 116).ctx 0 0).timed : Int) + 16 = 0x1040 ∧
    (0x1040 : Int) < ((gradLanes .fwd 0x1038 116).ctx 0 0).tapec.toNat +
      tapeMoves ((gradLanes .fwd 0x1038 116).ctx 0 0).timed + 16 ∧
    ((gradLanes .rev 0x1010 116).ctx 0 0).tapec.toNat +
      tapeMoves ((gradLanes .rev 0x1010 116).ctx 0 0).timed - 16 = (0x1000 : Int) ∧
    ((gradLanes .rev 0x1008 116).ctx 0 0).tapec.toNat +
      tapeMoves ((gradLanes .rev 0x1008 116).ctx 0 0).timed - 16 < (0x1000 : Int) :=
  ⟨by decide +kernel, readyLanes_of (by decide +kernel), readyLanes_of (by decide +kernel),
    by unfold Context.LanesInShare; decide +kernel, by unfold Context.LanesInShare; decide +kernel, by decide +kernel⟩

/-- Lane 3 reaches the first word of the window, lane 5 the third. -/
theorem witness_VectorAccessDifferentiable_window :
    let c := (gradLanes .fwd 0x1000 (0x1000 - 12)).ctx 0 0
    let la := LaneAddrs.contig (0x1000 - 12)
    (gradLanes .fwd 0x1000 (0x1000 - 12)).ReadyLanes 0 0 3 2 0x28 0 ∧ c.dmode ≠ .off ∧
      c.windowHit (la.at 4 3) 4 = some 0x1000 ∧ c.windowHit (la.at 4 5) 4 = some 0x1008 ∧
      ((gradLanes .fwd 0x1000 (0x1000 - 12)).xin 0 0 1 + dispVal 4 (.short 0)).toNat = 0x1000 - 12 ∧
      atomBytes .n32 = 4 ∧
      (LaneAddrs.indexed (0x1000 - 12) ((gradLanes .fwd 0x1000 (0x1000 - 12)).vin 0 0 2)).at 4 3 = 0x1000 :=
  ⟨readyLanes_of (by decide +kernel), by decide +kernel⟩

/-- A landing tile from 4096 with tag 7; X[1] = a, and X[2] = e is the tag that a read expects. -/
def tagged (a e : Word) : State := at' 3 fun c => { putX (putX c 1 a) 2 e with tiles := [4096], tags := [(0, 7)] }

theorem witness_TaggedRead_no_tile : (tagged 0 7).ReadyLanes 0 0 3 0 (BitVec.allOnes 512) 4 ∧
    act (BitVec.allOnes 512) 0 = true ∧
    ((tagged 0 7).ctx 0 0).LanesInShare (BitVec.allOnes 512) (.contig 0) 4 ∧
    ((tagged 0 7).xin 0 0 1 + (0 : BitVec 8).signExtend 64 * BitVec.ofNat 64 4).toNat = 0 ∧
    ((tagged 0 7).ctx 0 0).tileOf 0 = none :=
  ⟨readyLanes_of (by decide +kernel), by decide +kernel, by unfold Context.LanesInShare; decide +kernel,
    by decide +kernel⟩

theorem witness_TaggedRead_tile : (tagged 6144 7).ReadyLanes 0 0 3 0 (BitVec.allOnes 512) 4 ∧
    ((tagged 6144 7).ctx 0 0).LanesInShare (BitVec.allOnes 512) (.contig 6144) 4 ∧
    ((tagged 6144 7).ctx 0 0).tileOf 6144 = some 0 ∧ ((tagged 6144 7).ctx 0 0).tiles[0]? = some 4096 ∧
    (∀ j, j < 512 → act (BitVec.allOnes 512) j = true →
      4096 ≤ (LaneAddrs.contig 6144).at 4 j ∧ (LaneAddrs.contig 6144).at 4 j + 4 ≤ 4096 + 4096) :=
  ⟨readyLanes_of (by decide +kernel), by unfold Context.LanesInShare; decide +kernel, by decide +kernel⟩

/-- From 6148 the last lane is the first to leave the tile, by its whole width. -/
theorem witness_TaggedRead_leaves : (tagged 6148 7).ReadyLanes 0 0 3 0 (BitVec.allOnes 512) 4 ∧
    ((tagged 6148 7).ctx 0 0).tileOf 6148 = some 0 ∧ act (BitVec.allOnes 512) 511 = true ∧
    4096 + 4096 < (LaneAddrs.contig 6148).at 4 511 + 4 ∧
    (∀ n, n < 511 → act (BitVec.allOnes 512) n = true → (LaneAddrs.contig 6148).at 4 n + 4 ≤ 4096 + 4096) :=
  ⟨readyLanes_of (by decide +kernel), by decide +kernel⟩

/-- The tag expected, one ahead, the last that waits, and the first that faults. -/
theorem witness_TaggedRead_tags :
    let dist (e : Word) := (((tagged 4096 e).xin 0 0 2).truncate 32 - mapGet 0 ((tagged 4096 e).ctx 0 0).tags 0 :
      BitVec 32).toNat
    dist 7 = 0 ∧ dist 8 = 1 ∧ dist (7 + (2 ^ 31 - 1)) = 2 ^ 31 - 1 ∧ dist (7 + 2 ^ 31) = 2 ^ 31 ∧
      dist 6 = 2 ^ 32 - 1 := by decide +kernel

theorem witness_TaggedRead_checks : (tagged (2 ^ 27 - 2044) 7).ReadyLanes 0 0 3 0 (BitVec.allOnes 512) 0 ∧
    ((tagged (2 ^ 27 - 2044) 7).ctx 0 0).FirstBeyond (BitVec.allOnes 512)
      (.contig ((tagged (2 ^ 27 - 2044) 7).xin 0 0 1 + (0 : BitVec 8).signExtend 64 * BitVec.ofNat 64 4).toNat) 4 511 ∧
    (tagged 4098 7).ReadyLanes 0 0 3 0 (BitVec.allOnes 512) 0 ∧
    ((tagged 4098 7).ctx 0 0).LanesInShare (BitVec.allOnes 512) (.contig 4098) 4 ∧
    ((tagged 4098 7).xin 0 0 1 + (0 : BitVec 8).signExtend 64 * BitVec.ofNat 64 4).toNat = 4098 :=
  ⟨readyLanes_of (by decide +kernel), by unfold Context.FirstBeyond; decide +kernel,
    readyLanes_of (by decide +kernel), by unfold Context.LanesInShare; decide +kernel, by decide +kernel⟩

theorem plain_lanes (k : Fin 8) (n : Nat) (h : (plain k).cur = some ⟨0, 0⟩ ∧
    ((plain k).ctx 0 0).phase = .issuing k ∧ ((plain k).ctx 0 0).view.pr 0 = BitVec.allOnes 512 ∧
    ((plain k).ctx 0 0).halting = false ∧ ((plain k).ctx 0 0).heldAt ((plain k).ctx 0 0).cbc ≤ 95) :
    (plain k).ReadyLanes 0 0 k 0 (BitVec.allOnes 512) n :=
  readyLanes_of ⟨h.1, h.2.1, h.2.2.1, by decide +kernel, h.2.2.2.1, h.2.2.2.2⟩

theorem witness_VectorArithmetic : (plain 4).ReadyLanes 0 0 4 0 (BitVec.allOnes 512) 1 ∧
    (plain 4).ReadyLanes 0 0 4 0 (BitVec.allOnes 512) 3 ∧ (lanesAt 5 0).ReadyLanes 0 0 5 2 0x28 3 ∧
    (Ty.n32 = .s32 ∨ Ty.n32 = .n32) ∧ (Ty.bf16 = .f32 ∨ Ty.bf16 = .bf16) :=
  ⟨plain_lanes 4 1 (by decide +kernel), plain_lanes 4 3 (by decide +kernel), readyLanes_of (by decide +kernel),
    by decide, by decide⟩

/-- Inputs that the numeric clauses speak of: a NaN, an infinity, a subnormal and a normal number of each format; a
tie, a number below it and one above, at the least normal significand and at the greatest; an overflow. -/
theorem witness_VectorArithmetic_numbers :
    (f32v 0x7FC00000 = .nan ∧ f32v 0xFF800000 = .inf true ∧ f32v 1 = .fin false 1 (-149) ∧
      f32v 0x3F800000 = .fin false (2 ^ 23) (-23)) ∧
    (b16v 0x7FC0 = .nan ∧ b16v 0xFF80 = .inf true ∧ b16v 1 = .fin false 1 (-133) ∧
      b16v 0x3F80 = .fin false (2 ^ 7) (-7) ∧ (0x7FC0 : Nat) < 2 ^ 16) ∧
    ((2 ^ 23 < 2 ^ (fp32.mb + 1) ∧ 1 < 2 ^ 1 ∧ fp32.qmin ≤ (-1 : Int) + 1 ∧ 2 ^ fp32.mb ≤ 2 ^ 23) ∧
      (2 ^ 24 - 1 < 2 ^ (fp32.mb + 1) ∧ 2 ^ fp32.mb ≤ 2 ^ 24 - 1) ∧ (0 < 2 ^ (fp32.mb + 1) ∧ fp32.qmin = -149) ∧
      (2 ^ 8 - 1 < 2 ^ (bf16.mb + 1) ∧ bf16.qmin ≤ (-1 : Int) + 1 ∧ 2 ^ bf16.mb ≤ 2 ^ 8 - 1)) ∧
    (1 : Nat) ≠ 0 ∧ (128 : Int) ≤ 128 + Nat.log2 1 ∧ (511 : Nat) < 512 := by decide +kernel

theorem witness_VectorMinMaxAbsMoves : (plain 5).ReadyLanes 0 0 5 0 (BitVec.allOnes 512) 1 ∧
    (plain 5).ReadyLanes 0 0 5 0 (BitVec.allOnes 512) 3 ∧ (Ty.f32 = .f32 ∨ Ty.f32 = .bf16) ∧ Ty.f32 ≠ .bf16 :=
  ⟨plain_lanes 5 1 (by decide +kernel), plain_lanes 5 3 (by decide +kernel), by decide, by decide⟩

theorem witness_VectorMinMaxAbsMoves_order : FV.lt (.fin true 1 0) (.fin false 0 5) = true ∧
    FV.lt (.inf true) (.fin true 1 0) = true ∧ FV.lt (.fin false 3 (-1)) (.fin false 1 1) = true := by decide

/-- One value written twice, and the two zeros. -/
theorem witness_VectorMinMaxAbsMoves_equal :
    ∀ p ∈ [(FV.fin false 1 1, FV.fin false 2 0), (.fin true 0 0, .fin false 0 0), (.inf true, .inf true)],
      p.1 ≠ .nan ∧ p.2 ≠ .nan ∧ p.1.lt p.2 = false ∧ p.2.lt p.1 = false := by decide

theorem witness_VectorCompareConvertReduceTranscend : (plain 5).ReadyLanes 0 0 5 0 (BitVec.allOnes 512) 1 ∧
    (plain 5).ReadyLanes 0 0 5 0 (BitVec.allOnes 512) 2 ∧ (plain 5).ReadyLanes 0 0 5 0 (BitVec.allOnes 512) 9 ∧
    (plain 5).ReadyLanes 0 0 5 0 (BitVec.allOnes 512) 7 ∧ (14 : Fin 16).val % 2 = 0 :=
  ⟨plain_lanes 5 1 (by decide +kernel), plain_lanes 5 2 (by decide +kernel), plain_lanes 5 9 (by decide +kernel),
    plain_lanes 5 7 (by decide +kernel), by decide⟩

/-- Inputs of the numeric clauses: a clip, the greatest finite code, a tie and a number below it, a subnormal that goes
to zero; integers at their limits and one beyond; and arguments of the four functions at the edges of their ranges. -/
theorem witness_VectorCompareConvertReduceTranscend_numbers :
    (dstOf .e4m3 = .flt fe4m3 ∧ dstOf .s8 = .int 8 true ∧ (255 : Nat) < 2 ^ 8) ∧
    ((fe4m3.decode fe4m3.maxCode).lt (.fin false 449 0) = true ∧
      ¬(fe4m3.decode fe4m3.maxCode).lt (.fin false 448 0) = true ∧
      ¬(fe4m3.decode fe4m3.maxCode).lt (.fin false (14 * 2 ^ 1 + 1) 0) = true ∧
      14 < 2 ^ (fe4m3.mb + 1) ∧ fe4m3.qmin ≤ (0 : Int) + 1 ∧ 2 ^ fe4m3.mb ≤ 14 ∧ fe4m3.width < 16 ∧
      16 ≤ bf16.width ∧ (fp32.decode fp32.maxCode).lt (.fin false 1 128) = true ∧
      (FV.fin false 1 (-150)).lt (.fin false 1 (fp32.qmin + fp32.mb)) = true) ∧
    ((2 ^ 23 : Nat) < 2 ^ 24 ∧ 0 < 2 ^ 0 ∧ (-149 : Int) ≤ 0 + 0 ∧ (127 : Nat) * 2 ^ 0 < 128 ∧
      (128 : Nat) ≤ 128 * 2 ^ 0) ∧
    f32v 0x7FC00000 = .nan ∧ ((f32v 0x43000000).lt (.fin false 128 0) = false ∧ f32v 0x43000000 ≠ .nan) ∧
    (f32v 0xC3170000).lt (.fin true 150 0) = true ∧ (f32v 0x80000001).lt (.fin false 0 0) = true ∧
    f32v 0x7F800000 = .inf false ∧ f32v 0xFF800000 = .inf true := by decide +kernel

/-- Arguments of the reference algorithms: 1.0, whose k is 64; 2^-7 between two values of k, of which the even one is
taken; a subnormal, which is shifted by 23; and -1.0. -/
theorem witness_VectorCompareConvertReduceTranscend_algorithms :
    (f32v 0x3F800000 = .fin false (2 ^ 23) (-23) ∧ f32v 0x3C000000 = .fin false (2 ^ 23) (-30) ∧
      f32v 0x00000001 = .fin false 1 (-149) ∧ f32v 0xBF800000 = .fin true (2 ^ 23) (-23)) ∧
    [0x3F800000#32, 0x3C000000, 1, 0xBF800000].map (fun x =>
      (f32v x).lt (.fin false 128 0) && !(f32v x).lt (.fin true 150 0)) = [true, true, true, true] ∧
    ((2 * (2 : Int) ^ 23 * 2 ^ ((-23 : Int) + 6).toNat - 2 * 64 * 2 ^ (-((-23 : Int) + 6)).toNat).natAbs <
        2 ^ (-((-23 : Int) + 6)).toNat ∧
      (2 * (2 : Int) ^ 23 * 2 ^ ((-30 : Int) + 6).toNat - 2 * 0 * 2 ^ (-((-30 : Int) + 6)).toNat).natAbs =
        2 ^ (-((-30 : Int) + 6)).toNat) ∧
    ((2 : Nat) ^ 23 ≤ 2 ^ 23 * 2 ^ 0 ∧ (2 : Nat) ^ 23 * 2 ^ 0 < 2 ^ 24 ∧ (2 : Nat) ^ 23 ≤ 1 * 2 ^ 23 ∧
      1 * (2 : Nat) ^ 23 < 2 ^ 24) := by decide +kernel

/-- Near 1.0 the table's entry is exact: log2(2.0) = 1.0; and 2^1 = 2.0, 1/2 = 0.5, 4^(-1/2) = 0.5. -/
theorem test_reference_algorithms : log2 0x40000000 = 0x3F800000 ∧ exp2 0x3F800000 = 0x40000000 ∧
    rcp 0x40000000 = 0x3F000000 ∧ rsq 0x40800000 = 0x3F000000 := by decide +kernel

/-- A stream register by its fields (10 R223): scratchpad, row layout. -/
def stream (fmt rows cols stride : Nat) (armed : Bool) : BitVec 192 :=
  BitVec.ofNat 192 (fmt * 2 ^ 55 + rows * 2 ^ 64 + cols * 2 ^ 80 + stride * 2 ^ 96 + (if armed then 2 ^ 191 else 0))

/-- The image's descriptors 0 and 1: FP32, and one with no rows. -/
def arming : State := at' 6 fun c => { putX c 1 64 with streams := [stream 7 2 8 32 false, stream 7 0 8 32 false] }

theorem witness_ArmStream : arming.Ready 0 0 6 0 0 ∧ (arming.ctx 0 0).streams[(2 : BitVec 12).toNat]? = none ∧
    (arming.ctx 0 0).streams[(0 : BitVec 12).toNat]? = some (stream 7 2 8 32 false) ∧
    ({ strm (stream 7 2 8 32 false) with base := 64 } : Strm).cause (strmReserved (stream 7 2 8 32 false))
      (arming.ctx 0 0).spadShare (arming.ctx 0 0).tiles.length = none ∧
    ((stream 7 2 8 32 false).toNat + (arming.xin 0 0 1).toNat) % 2 ^ 52 = 64 ∧
    (arming.ctx 0 0).streams[(1 : BitVec 12).toNat]? = some (stream 7 0 8 32 false) ∧
    ({ strm (stream 7 0 8 32 false) with base := 64 } : Strm).cause (strmReserved (stream 7 0 8 32 false))
      (arming.ctx 0 0).spadShare (arming.ctx 0 0).tiles.length = some 2 :=
  ⟨ready_of (by decide +kernel), by decide +kernel⟩

/-- S[1] to S[6] are armed for the engine, and banks 0 to 3 are held. -/
def engine : State := at' 6 fun c =>
  { c with
    s := ((((c.s.set 1 (stream 8 64 144 288 true)).set 2 (stream 8 32 144 288 true)).set 3
      (stream 7 64 32 128 true)).set 4 (stream 1 64 32 32 true)).set 5 (stream 6 512 16 64 true) |>.set 6
      (stream 4 32 16 32 true)
    held := [(0, 4)] }

/-- Two BF16 streams of 64 and 32 lines over 144 positions. -/
theorem witness_MatrixMultiply :
    let p := engine.sin 0 0 1
    let r := engine.sin 0 0 2
    engine.Ready 0 0 6 0 15 ∧
      firstCheck ((engine.ctx 0 0).mxmmChecks p r 1 2 (engine.xin 0 0 1).toNat false) = none ∧
      kbeat p r = some 144 ∧ p.lines = 64 ∧ r.lines = 32 ∧ (p.len + 144 - 1) / 144 = 1 ∧
      (engine.ctx 0 0).Pops false 0 (engine.ctx 0 0) := by
  refine ⟨ready_of (by decide +kernel), ?_, ?_, ?_, ?_, ?_, .inl ⟨rfl, rfl, rfl⟩⟩ <;> decide +kernel

/-- No stream armed; and FP8 streams whose scales come from the queue, S[1] and S[2], with what it holds and what is in
flight. -/
def popping (sq : List (BitVec 2048)) (ops : List Op) : State := at' 6 fun c =>
  { (engine.ctx 0 0) with
    phase := c.phase, sq := sq, ops := ops
    s := ((engine.ctx 0 0).s.set 1 (stream 9 4 32 32 true + BitVec.ofNat 192 (2 * 2 ^ 128))).set 2
      (stream 9 4 32 32 true + BitVec.ofNat 192 (2 * 2 ^ 128)) }

/-- A `cpsq` still to come. -/
def queueing : List Op := [Op.blank 1 .cpsq 3 0 0]

theorem witness_MatrixMultiply_pops :
    let checks (s : State) := (s.ctx 0 0).mxmmChecks (s.sin 0 0 1) (s.sin 0 0 2) 1 2 (s.xin 0 0 1).toNat false
    ((plain 6).Ready 0 0 6 0 0 ∧ firstCheck (checks (plain 6)) = some (6, 0x10, 1)) ∧
    firstCheck (checks (popping [] [])) = some (0x0B, 0, 0) ∧
    ((popping [] queueing).Ready 0 0 6 0 0 ∧ firstCheck (checks (popping [] queueing)) = none ∧
      ((popping [] queueing).ctx 0 0).sq = []) ∧
    (popping [5, 6] []).Ready 0 0 6 0 15 ∧ firstCheck (checks (popping [5, 6] [])) = none ∧
    ((popping [5, 6] []).ctx 0 0).Pops true 5 { (popping [5, 6] []).ctx 0 0 with sq := [6] } :=
  ⟨⟨plain_ready 6 0 (by decide +kernel), by decide +kernel⟩, by decide +kernel,
    ⟨ready_of (by decide +kernel), by decide +kernel, by decide +kernel⟩, ready_of (by decide +kernel),
    by decide +kernel, .inr ⟨rfl, _, rfl, rfl⟩⟩

/-- A region of 64 bytes that a span meets, and one that meets the window. -/
theorem witness_MatrixMultiply_spans :
    let c := windowOf 64 128 64 fun c => { c with ag := c.ag.set 0 (agEnable region) }
    c.streamRegion [(0, 64), (100, 40)] = some 0 ∧ c.spanWindow [(0, 64), (100, 40)] = none ∧
      ({ c with dmode := .fwd } : Context).spanWindow [(0, 64), (100, 40)] = some 100 ∧
      ({ c with dmode := .fwd } : Context).dmode ≠ .off := by decide +kernel

/-- Every bank of a quarter's share held. -/
def exhausted : State := at' 6 fun c => { putX c 1 2048 with seatf := 2, held := [(0, 2048)] }

theorem witness_AccumulatorBanks : (plain 6).Ready 0 0 6 0 1 ∧ ((plain 6).ctx 0 0).freeGroup 8 = some 0 ∧
    exhausted.Ready 0 0 6 0 0 ∧ (exhausted.ctx 0 0).freeGroup 8 = none ∧
    (exhausted.ctx 0 0).bankShare ≤ (exhausted.xin 0 0 1).toNat ∧
    engine.Ready 0 0 6 0 4 ∧ (engine.xin 0 0 1).toNat < (engine.ctx 0 0).bankShare ∧
    0 < mapGet 0 (engine.ctx 0 0).held (engine.xin 0 0 1).toNat ∧
    (engine.ctx 0 0).engineWrites (engine.ctx 0 0).cbc 0 4 = false ∧
    (access 6 8191).Ready 0 0 6 0 0 ∧ ((access 6 8191).xin 0 0 1).toNat < ((access 6 8191).ctx 0 0).bankShare ∧
    mapGet 0 ((access 6 8191).ctx 0 0).held ((access 6 8191).xin 0 0 1).toNat = 0 ∧
    (engine.ctx 0 0).HoldsBanks 3 1 :=
  ⟨plain_ready 6 1 (by decide +kernel), by decide +kernel, ready_of (by decide +kernel), by decide +kernel,
    by decide +kernel, ready_of (by decide +kernel), by decide +kernel, by decide +kernel, by decide +kernel,
    ready_of (by decide +kernel), by decide +kernel, by decide +kernel,
    by unfold Context.HoldsBanks; decide +kernel⟩

/-- Bank 0 to 3 are being freed until beat 4: the first free group of four is the next. A write of the engine that is
still to come to banks 0 to 3; a group beyond the share, and one that is not held. -/
theorem witness_AccumulatorBanks_groups :
    let freed : Context := { ctx0 with timed := [⟨4, 0, 6, 0, .freeBanks 0 4⟩] }
    let written : State := at' 6 fun c =>
      { engine.ctx 0 0 with
        phase := c.phase, cmds := [{ Cmd.blank 1 .mxmm 0 0 1 15 with p := stream 8 64 144 288 true }] }
    freed.freeGroup 4 = some 4 ∧ (4 % 4 = 0 ∧ 4 + 4 ≤ freed.bankShare ∧
      ∀ i, i < 4 → freed.holds (4 + i) = false ∧ freed.freeing (4 + i) = false) ∧
    (written.Ready 0 0 6 0 0 ∧ (written.ctx 0 0).engineWrites (written.ctx 0 0).cbc 0 4 = true ∧
      0 < mapGet 0 (written.ctx 0 0).held 0 ∧ (written.xin 0 0 1).toNat = 0) ∧
    firstCheck ((plain 6).ctx 0 0 |>.bankChecks 5 1) = some (8, 0, 5) ∧
    firstCheck ((exhausted.ctx 0 0).bankChecks 2048 1) = some (4, 0, 2048) :=
  ⟨by decide +kernel, by decide +kernel, ⟨ready_of (by decide +kernel), by decide +kernel⟩, by decide +kernel⟩

theorem witness_ConvertAccumulators :
    let checks (s : State) (n : Fin 16) (sc : AcvtScale) :=
      (s.ctx 0 0).acvtChecks (s.sin 0 0 n) n.val (s.xin 0 0 1).toNat sc
    (engine.Ready 0 0 6 0 6 ∧ firstCheck (checks engine 3 .noscale) = none ∧
      (engine.ctx 0 0).Pops false 0 (engine.ctx 0 0)) ∧
    ((plain 6).Ready 0 0 6 0 0 ∧ firstCheck (checks (plain 6) 3 .noscale) = some (6, 0x10, 3)) ∧
    firstCheck (checks engine 3 .derive) = some (6, 0x15, 3) ∧
    ((popping [] queueing).Ready 0 0 6 0 0 ∧ firstCheck (checks (popping [] queueing) 3 .sq) = none ∧
      ((popping [] queueing).ctx 0 0).sq = []) ∧
    (popping [5, 6] []).Ready 0 0 6 0 6 ∧ firstCheck (checks (popping [5, 6] []) 3 .sq) = none ∧
    ((popping [5, 6] []).ctx 0 0).Pops true 5 { (popping [5, 6] []).ctx 0 0 with sq := [6] } :=
  ⟨⟨ready_of (by decide +kernel), by decide +kernel, .inl ⟨rfl, rfl, rfl⟩⟩,
    ⟨plain_ready 6 0 (by decide +kernel), by decide +kernel⟩, by decide +kernel,
    ⟨ready_of (by decide +kernel), by decide +kernel⟩, ready_of (by decide +kernel), by decide +kernel,
    .inr ⟨rfl, _, rfl, rfl⟩⟩

/-- 512 tables or records up to the end of the share. -/
def tablesAt (x : Word) : State := at' 6 fun c => { (engine.ctx 0 0) with phase := c.phase, x := c.x.set 1 x }

theorem witness_TableCommandsAndStatus :
    let s := tablesAt 7680
    let c := s.ctx 0 0
    s.Ready 0 0 6 0 4 ∧ firstCheck (c.buildChecks (s.sin 0 0 4) 4 7680) = none ∧
    firstCheck (c.spillChecks (s.sin 0 0 5) 5 7680) = none ∧ firstCheck (c.fillChecks (s.sin 0 0 5) 5 7680) = none ∧
    (s.xin 0 0 1).toNat = 7680 ∧ 7680 + (s.sin 0 0 4).lines * (s.sin 0 0 4).groups = c.tableShare ∧
    7680 + (s.sin 0 0 5).lines = c.tableShare ∧
    (tablesAt 8191).Ready 0 0 6 0 0 ∧ ((tablesAt 8191).xin 0 0 1).toNat < ((tablesAt 8191).ctx 0 0).tableShare ∧
    (tablesAt 8192).Ready 0 0 6 0 0 ∧ ((tablesAt 8192).ctx 0 0).tableShare ≤ ((tablesAt 8192).xin 0 0 1).toNat := by
  refine ⟨ready_of (by decide +kernel), ?_, ?_, ?_, ?_, ?_, ?_, ready_of (by decide +kernel), ?_,
    ready_of (by decide +kernel), ?_⟩ <;> decide +kernel

/-- One table too many, a stream of the wrong kind, and one that is not armed. -/
theorem witness_TableCommandsAndStatus_stops :
    let s := tablesAt 7681
    let c := s.ctx 0 0
    s.Ready 0 0 6 0 0 ∧ firstCheck (c.buildChecks (s.sin 0 0 4) 4 7681) = some (4, 0, 8192) ∧
    firstCheck (c.spillChecks (s.sin 0 0 4) 4 0) = some (6, 0x1A, 4) ∧
    firstCheck (c.fillChecks (s.sin 0 0 7) 7 0) = some (6, 0x10, 7) ∧
    (s.sin 0 0 4).isActivation = true ∧ (s.sin 0 0 5).isRecords = true :=
  ⟨ready_of (by decide +kernel), by decide +kernel⟩

theorem witness_TableLookup :
    let checks (s : State) (sq : Bool) :=
      (s.ctx 0 0).lookChecks (s.sin 0 0 6) (s.sin 0 0 4) 6 4 (s.xin 0 0 1).toNat 4 false sq
    let s := tablesAt (7680 * 2 ^ 32)
    let with' (sq : List (BitVec 2048)) (ops : List Op) : State :=
      at' 6 fun c => { (s.ctx 0 0) with phase := c.phase, sq := sq, ops := ops }
    (s.Ready 0 0 6 0 11 ∧ firstCheck (checks s false) = none ∧ (s.ctx 0 0).Pops false 0 (s.ctx 0 0)) ∧
    ((tablesAt (2 ^ 32 * 7681)).Ready 0 0 6 0 0 ∧
      firstCheck (checks (tablesAt (2 ^ 32 * 7681)) false) = some (4, 0, 8192)) ∧
    firstCheck (checks (tablesAt (2 ^ 13)) false) = some (4, 0, 2 ^ 13) ∧
    firstCheck (checks s true) = some (0x0B, 0, 0) ∧
    ((with' [] queueing).Ready 0 0 6 0 0 ∧ firstCheck (checks (with' [] queueing) true) = none ∧
      ((with' [] queueing).ctx 0 0).sq = []) ∧
    (with' [5, 6] []).Ready 0 0 6 0 11 ∧ firstCheck (checks (with' [5, 6] []) true) = none ∧
    ((with' [5, 6] []).ctx 0 0).Pops true 5 { (with' [5, 6] []).ctx 0 0 with sq := [6] } :=
  ⟨⟨ready_of (by decide +kernel), by decide +kernel, .inl ⟨rfl, rfl, rfl⟩⟩,
    ⟨ready_of (by decide +kernel), by decide +kernel⟩, by decide +kernel, by decide +kernel,
    ⟨ready_of (by decide +kernel), by decide +kernel⟩, ready_of (by decide +kernel), by decide +kernel,
    .inr ⟨rfl, _, rfl, rfl⟩⟩

/-- X[1] and X[2] name tables; table 5 is valid. -/
def invalidating (a n : Word) : State := at' 6 fun c =>
  { putX (putX c 1 a) 2 n with tables := [(5, { Table.zero with meta0 := 1 })] }

theorem witness_InvalidateTables : (invalidating 5 0).Ready 0 0 6 0 0 ∧ ((invalidating 5 0).xin 0 0 2).toNat = 0 ∧
    (invalidating 8190 2).Ready 0 0 6 0 0 ∧
    ((invalidating 8190 2).xin 0 0 1).toNat + ((invalidating 8190 2).xin 0 0 2).toNat =
      ((invalidating 8190 2).ctx 0 0).tableShare ∧
    (invalidating 8190 3).Ready 0 0 6 0 0 ∧ ((invalidating 8190 3).xin 0 0 2).toNat ≠ 0 ∧
    ((invalidating 8190 3).ctx 0 0).tableShare <
      ((invalidating 8190 3).xin 0 0 1).toNat + ((invalidating 8190 3).xin 0 0 2).toNat ∧
    mapWf Table.zero ((invalidating 5 1).ctx 0 0).tables = true :=
  ⟨ready_of (by decide +kernel), by decide +kernel, ready_of (by decide +kernel), by decide +kernel,
    ready_of (by decide +kernel), by decide +kernel⟩

/-- The operands of a copy: X[1], X[2] and X[3]; a landing tile at 4096. -/
def copyOf (a b w : Word) : State := at' 7 fun c => { putX (putX (putX c 1 a) 2 b) 3 w with tiles := [4096] }

theorem witness_CopyIssue_linear : (copyOf 64 4096 0x1001000).ReadyOp 0 0 7 0 4 63 ∧
    linearOk ((copyOf 64 4096 0x1001000).xin 0 0 3).toNat true = true ∧
    ((copyOf 64 4096 0x1001000).ctx 0 0).SpanOk 4096 4096 64 ∧
    ((copyOf 64 4096 0x1001000).xin 0 0 3).getLsbD 24 = true ∧
    ((copyOf 64 4096 0x1001000).ctx 0 0).outsideTile 4096 4096 = none ∧
    ((copyOf 64 4096 0x1001000).ctx 0 0).windowHit 4096 4096 = none ∧
    (copyOf 64 (2 ^ 27 - 64) 64).ReadyOp 0 0 7 0 4 0 ∧
    linearOk ((copyOf 64 (2 ^ 27 - 64) 64).xin 0 0 3).toNat false = true ∧
    ((copyOf 64 (2 ^ 27 - 64) 64).ctx 0 0).SpanOk (2 ^ 27 - 64) 64 64 ∧
    ((copyOf 0 0 0).xin 0 0 3).toNat % 2 ^ 24 = 0 ∧ (copyOf 0 0 32).ReadyOp 0 0 7 0 4 1 ∧
    ((copyOf 0 0 32).xin 0 0 3).toNat % 2 ^ 24 % 64 ≠ 0 :=
  ⟨readyOp_of (by decide +kernel), by decide +kernel, by unfold Context.SpanOk; decide +kernel, by decide +kernel,
    by decide +kernel, by decide +kernel, readyOp_of (by decide +kernel), by decide +kernel,
    by unfold Context.SpanOk; decide +kernel, by decide +kernel, readyOp_of (by decide +kernel), by decide +kernel⟩

theorem witness_CopyIssue_others : (copyOf 8 4096 0x1001008).ReadyOp 0 0 7 0 4 0 ∧
    gatherOk ((copyOf 8 4096 0x1001008).xin 0 0 3).toNat true = true ∧
    ((copyOf 8 4096 0x1001008).ctx 0 0).SpanOk 8 64 8 ∧ ((copyOf 8 4096 0x1001008).ctx 0 0).SpanOk 4096 512 64 ∧
    ((copyOf 8 4096 0x1001008).ctx 0 0).outsideTile 4096 512 = none ∧
    gatherOk ((copyOf 8 4096 0x1008).xin 0 0 3).toNat false = true ∧ (copyOf 8 4096 0x1008).ReadyOp 0 0 7 0 4 0 ∧
    (copyOf 0 64 1).ReadyOp 0 0 7 0 4 0 ∧ ((copyOf 0 64 1).ctx 0 0).SpanOk 64 256 64 ∧
    (copyOf 64 0 0).ReadyOp 0 0 7 0 4 0 ∧ (copyOf 0 0 2).ReadyOp 0 0 7 0 4 0 ∧
    (copyOf 64 4096 0x130).ReadyOp 0 0 7 0 4 0 ∧
    atomicOk ((copyOf 64 4096 0x130).xin 0 0 3).toNat = true ∧
    ((copyOf 64 4096 0x130).ctx 0 0).SpanOk 4096 64 64 ∧
    ((copyOf 64 4096 0x130).ctx 0 0).windowHit 4096 64 = none :=
  ⟨readyOp_of (by decide +kernel), by decide +kernel, by unfold Context.SpanOk; decide +kernel,
    by unfold Context.SpanOk; decide +kernel, by decide +kernel, by decide +kernel, readyOp_of (by decide +kernel),
    readyOp_of (by decide +kernel), by unfold Context.SpanOk; decide +kernel, readyOp_of (by decide +kernel),
    readyOp_of (by decide +kernel), readyOp_of (by decide +kernel), by decide +kernel,
    by unfold Context.SpanOk; decide +kernel, by decide +kernel⟩

/-- One word beyond its limits of each kind, a span beyond the share, one that is not aligned, a global address that is
not, a tagged load outside every landing tile, and one that would reach the closed window: a check of each list acts. -/
theorem witness_CopyIssue_stops :
    let c := (copyOf 64 4096 0x1001000).ctx 0 0
    let closed : Context := { c with dmode := .fwd, tapeb := 4096, tapel := 4160 }
    (copyOf 8 (2 ^ 27 - 64) 128).ReadyOp 0 0 7 0 4 0 ∧
    linearOk 0x4000001 false = false ∧ linearOk 0x1001000 false = false ∧ gatherOk 0x41001 true = false ∧
    atomicOk 0x137 = false ∧ c.spadShare < (2 ^ 27 - 64) + 128 ∧ (4100 : Nat) % 64 ≠ 0 ∧ (8 : Nat) % 64 ≠ 0 ∧
    c.outsideTile 4096 4160 = some 8192 ∧ closed.windowHit 4032 128 = some 4096 ∧ closed.windowHit 4032 64 = none ∧
    closed.dmode ≠ .off ∧
    firstCheck [(decide ¬((2 : Nat) ≤ 1), 0x04, 0, 2), (decide ((8 : Nat) % 64 ≠ 0), 3, 0, 8)] = some (4, 0, 2) := by
  refine ⟨readyOp_of (by decide +kernel), ?_⟩
  and_intros <;> decide +kernel

/-- A load in flight on token 3. -/
def loading : State := at' 7 fun c =>
  { c with cbc := 5, tok := c.tok.set 3 .outstanding, ops := [Op.blank 1 .cpld 3 4 0] }

theorem witness_CopyIssue_fence : (plain 7).ReadyOp 0 0 7 0 4 0 ∧
    (((plain 7).ctx 0 0).ops.filter ((plain 7).fenceCovers 0 (((plain 7).ctx 0 0).named 4) .ctx)).map Op.id = [] ∧
    loading.ReadyOp 0 0 7 0 4 0 ∧
    ((loading.ctx 0 0).ops.filter (loading.fenceCovers 0 ((loading.ctx 0 0).named 4) .ctx)).map Op.id ≠ [] :=
  ⟨readyOp_of (by decide +kernel), by decide +kernel, readyOp_of (by decide +kernel), by decide +kernel⟩

/-- A brick of a subcube of 2 dimensions at COORD 1; X[2] and X[3] are the words of an exchange of 64 bytes into the
landing tile, and X[4] the source word of an `xsib`, with SB = 1. -/
def exchanging : State := at' 7 fun c =>
  { putX (putX (putX c 2 (64 * 2 ^ 32)) 3 4096) 4 (64 * 2 ^ 32 + 2 ^ 56) with crd := 0x2001, tiles := [4096] }

theorem witness_ExchangeIssue_words : exchanging.ReadyOp 0 0 7 0 5 0 ∧ (1 : Fin 16).val < (exchanging.ctx 0 0).ndim ∧
    srcOk (exchanging.xin 0 0 2).toNat false false = true ∧ destOk (exchanging.xin 0 0 3).toNat true = true ∧
    (exchanging.ctx 0 0).SpanOk 0 64 64 ∧ (exchanging.ctx 0 0).SpanOk 4096 64 64 ∧
    (exchanging.ctx 0 0).outsideTile 4096 64 = none ∧
    srcOk (exchanging.xin 0 0 4).toNat true false = true ∧
    (exchanging.xin 0 0 4).toNat / 2 ^ 56 % 16 < (exchanging.ctx 0 0).ndim ∧
    nbit (exchanging.ctx 0 0).coord ((exchanging.xin 0 0 4).toNat / 2 ^ 56 % 16) = false ∧
    (exchanging.xin 0 0 (2 + 1)) = exchanging.xin 0 0 3 :=
  ⟨readyOp_of (by decide +kernel), by decide +kernel, by decide +kernel, by decide +kernel,
    by unfold Context.SpanOk; decide +kernel, by unfold Context.SpanOk; decide +kernel, by decide +kernel⟩

theorem witness_ExchangeIssue_masks : (3 : BitVec 12).toNat < 2 ^ (exchanging.ctx 0 0).ndim ∧ (3 : BitVec 12) ≠ 0 ∧
    (0 : BitVec 12).toNat < 2 ^ (exchanging.ctx 0 0).ndim := by decide +kernel

/-- An `xat` of 64 bytes of `.n32` from 0 to 4096. -/
def remote : State := at' 7 fun c =>
  { putX (putX c 2 (64 * 2 ^ 32 + 6 * 2 ^ 60)) 3 4096 with crd := 0x2001 }

theorem witness_ExchangeIssue_xat : remote.ReadyOp 0 0 7 0 5 0 ∧ (1 : Fin 16).val < (remote.ctx 0 0).ndim ∧
    etyOf (remote.xin 0 0 2).toNat = some .n32 ∧ srcOk (remote.xin 0 0 2).toNat false true = true ∧
    atomTyOk .n32 .xor = true ∧ destOk (remote.xin 0 0 3).toNat false = true ∧
    (remote.ctx 0 0).SpanOk 0 64 64 ∧ (remote.ctx 0 0).SpanOk 4096 64 64 := by
  refine ⟨readyOp_of (by decide +kernel), ?_, ?_, ?_, ?_, ?_, by unfold Context.SpanOk; decide +kernel,
    by unfold Context.SpanOk; decide +kernel⟩ <;> decide +kernel

/-- The mask of dimensions 0, 1 and 3: at each of them the Gray code may turn, at the last also where no rank is met. -/
theorem witness_ExchangeIssue_gray :
    let dims := (List.range 12).filter fun d => (0b1011 : BitVec 12).getLsbD d
    let rank (coord u : Nat) : Bool := ((dims.drop u).filter fun d => coord.testBit d).length % 2 == 1
    dims = [0, 1, 3] ∧ rank 1 0 = true ∧ (rank 3 0 = false ∧ rank 3 1 = true) ∧
      (rank 0 0 = false ∧ rank 0 1 = false ∧ rank 0 2 = false ∧ 2 + 1 = dims.length) := by decide

/-- A dimension that the subcube lacks, words beyond their limits, spans beyond the share and outside the tiles, and two
that overlap: a check of each list acts. -/
theorem witness_ExchangeIssue_stops :
    let c := exchanging.ctx 0 0
    exchanging.ReadyOp 0 0 7 0 5 0 ∧ 2 ^ c.ndim ≤ 2 ^ (2 : Fin 16).val ∧ 2 ^ c.ndim ≤ (4 : BitVec 12).toNat ∧
    srcOk (32 + 64 * 2 ^ 32) false false = false ∧ destOk (4096 + 2 ^ 32) false = false ∧
    c.spadShare < 2 ^ 27 - 64 + 128 ∧ c.outsideTile 8192 64 = some 8192 ∧ (0 ≠ 64 ∧ 0 < 64 + 128 ∧ 64 < 0 + 128) ∧
    atomTyOk .f32 .xor = false ∧ etyOf (64 * 2 ^ 32 + 5 * 2 ^ 60) = none :=
  ⟨readyOp_of (by decide +kernel), by decide +kernel⟩

/-! ### States that meet the hypotheses: the step, beats, traps, time -/

/-- A context in a phase, and the step's cursor on it. -/
def phased (p : Phase) (f : Context → Context) : State := { hold { f ctx0 with phase := p } with cur := some ⟨0, 0⟩ }

/-- The context's own, without a cursor. -/
def idle (f : Context → Context) : State := hold (f ctx0)

/-- Bytes of one bundle at address 0. -/
def code (bundle : Nat) : List Host.Cell := setBytes [] 0 (toBytes 48 bundle)

/-- The bundle of 07's worked encoding: header, slot 1, slot 4 and the carrier in slot 7. -/
def worked : Nat := 0x6789abcdef000000000000000000000001800200170000000000000000000000000d8050123450000000000000001f07

theorem witness_StepRunsDecoded_slot :
    let s := at' 1 fun c => { c with imem := code worked }
    let s7 := at' 7 fun c => { c with imem := code worked }
    let bad := at' 0 fun c => { c with imem := code (0x00D * 2 ^ 66) }
    (s.power ≠ .off ∧ s.Issues 0 0 1 ∧
      slotInstr (s.ctx 0 0).bundle 1 = some (.ok (.li 0 5 (.long 0x12345 0x6789ABCDEF0)))) ∧
    (s7.power ≠ .off ∧ s7.Issues 0 0 7 ∧ slotInstr (s7.ctx 0 0).bundle 7 = none) ∧
    (bad.power ≠ .off ∧ bad.Issues 0 0 0 ∧ slotInstr (bad.ctx 0 0).bundle 0 = some (.error 1)) :=
  ⟨⟨by decide +kernel, issues_of (by decide +kernel), rfl⟩, ⟨by decide +kernel, issues_of (by decide +kernel), rfl⟩,
    ⟨by decide +kernel, issues_of (by decide +kernel), rfl⟩⟩

theorem witness_StepRunsDecoded_others :
    ((phased .beatDue id).power ≠ .off ∧ (phased .beatDue id).cur = some ⟨0, 0⟩ ∧
      ((phased .beatDue id).ctx 0 0).phase = .beatDue) ∧
    ({ idle id with agenda := [.gbcTick 0] }.power ≠ .off ∧ { idle id with agenda := [.gbcTick 0] }.cur = none) ∧
    ({ State.reset with power := .off, inbox := [some .powerUp] }.inbox = some .powerUp :: []) ∧
    ({ State.reset with power := .off } : State).inbox = [] := by decide +kernel

/-- A trailing-idle beat that an arrival belongs to, and one that comes on the agenda when none is due. -/
theorem witness_StepRunsDecoded_idle :
    let s := { idle fun c => { c with idleLeft := 2, qi := 1 } with agenda := [.trailingIdleBeat 0 0] }
    s.cur = none ∧ s.idleDue 0 0 = true ∧ { idle id with agenda := [.trailingIdleBeat 0 0] }.idleDue 0 0 = false := by
  decide +kernel

theorem test_step_of_a_word :
    step (State.reset.withFetchWord 44 0b0000110110_0000_000001_100000000000000000000001) =
      exec (.li 0 1 (.short 0x800001))
        (State.reset.withFetchWord 44 0b0000110110_0000_000001_100000000000000000000001) := rfl

theorem test_table_word :
    decodeTableWord 44 0b0000110110_0000_000001_100000000000000000000001 = some (.li 0 1 (.short 0x800001)) ∧
      decodeTableWord 44 0b0001100011_0000_000001_000010_000011_000100_0111_00 = some (.vfma 0 1 2 3 4 .f32) := by
  decide +kernel

theorem witness_DecodeEncode : wellFormed (.vatom 3 63 31 62 .n32 .swap true) = true ∧
    (3 : Fin 8) ∈ slots (.vatom 3 63 31 62 .n32 .swap true) ∧
    (0b0000100000_0000_000011_000001_000010_0000_00000000 < 2 ^ 44 ∧
      decodeSlot 2 0b0000100000_0000_000011_000001_000010_0000_00000000 none = .ok (.add 0 3 1 2)) :=
  ⟨rfl, by decide, by decide, rfl⟩

/-- Two results for X[3], one lane for V[40] and one for P[9], due now. -/
def landing : Context :=
  { ctx0 with
    timed := [⟨0, 0, 1, 0, .xw 3 7⟩, ⟨0, 0, 2, 0, .xw 3 8⟩, ⟨0, 0, 4, 0, .vw 40 1 (ofLanes fun _ => 5)⟩,
      ⟨0, 0, 5, 0, .pw 9 1 1⟩] }

/-- A stream register that lands, and one that nothing names. -/
theorem witness_BeatLandsRegisters_streams :
    let c := { ctx0 with timed := [⟨0, 0, 6, 0, .sw 3 7⟩] }
    (∀ t v, t ∈ c.timed ∧ t.due = c.cbc → t.eff ≠ .sw 4 v) ∧
      ∀ t' v', t' ∈ c.timed ∧ t'.due = c.cbc → t'.eff = .sw 3 v' → t' = ⟨0, 0, 6, 0, .sw 3 7⟩ :=
  ⟨fun t v h => by simp_all, fun t v h _ => by simp_all⟩

theorem witness_BeatLandsRegisters :
    (∀ t, t ∈ landing.timed ∧ t.due = landing.cbc → ∀ v, t.eff ≠ .xw 4 v) ∧
    (∀ t' v', t' ∈ landing.timed ∧ t'.due = landing.cbc → t'.eff = .xw 3 v' →
      t' = ⟨0, 0, 2, 0, .xw 3 8⟩ ∨ t'.key < (⟨0, 0, 2, 0, .xw 3 8⟩ : Timed).key) ∧
    (∀ t', t' ∈ landing.timed → t'.eff ≠ .xw 3 7 → t'.eff ≠ .xw 3 8 →
      t' = ⟨0, 0, 4, 0, .vw 40 1 (ofLanes fun _ => 5)⟩ ∨ t' = ⟨0, 0, 5, 0, .pw 9 1 1⟩) := by
  refine ⟨?_, ?_, ?_⟩
  · rintro t ⟨h, -⟩ v
    simp only [landing, List.mem_cons, List.not_mem_nil, or_false] at h
    rcases h with rfl | rfl | rfl | rfl <;> exact fun h => by cases h
  · rintro t v ⟨h, -⟩ he
    simp only [landing, List.mem_cons, List.not_mem_nil, or_false] at h
    rcases h with rfl | rfl | rfl | rfl
    · exact .inr (by decide)
    · exact .inl rfl
    · cases he
    · cases he
  · intro t h h1 h2
    simp only [landing, List.mem_cons, List.not_mem_nil, or_false] at h
    rcases h with rfl | rfl | rfl | rfl
    · exact absurd rfl h1
    · exact absurd rfl h2
    · exact .inl rfl
    · exact .inr rfl

/-- Lane 0 of V[40] and of P[9] twice; and two results that meet nowhere, with no `csrw` due. -/
theorem witness_BeatLandsRegisters_lanes :
    let twice : List Timed := [⟨0, 0, 4, 0, .vw 40 1 0⟩, ⟨0, 0, 5, 0, .vw 40 3 0⟩, ⟨0, 0, 1, 0, .pw 9 1 1⟩,
      ⟨0, 0, 2, 0, .pw 9 1 0⟩]
    let apart : List Timed := [⟨0, 0, 1, 0, .xw 3 7⟩, ⟨0, 0, 4, 0, .vw 40 1 0⟩]
    let meets (t t' : Timed) : Prop :=
      (∃ n v v', n ≠ 0 ∧ t.eff = .xw n v ∧ t'.eff = .xw n v') ∨
      (∃ n m m' v v' i, i < 512 ∧ act m i = true ∧ act m' i = true ∧
        ((t.eff = .vw n m v ∧ t'.eff = .vw n m' v') ∨ 1 < n ∧ ∃ p p', t.eff = .pw n m p ∧ t'.eff = .pw n m' p'))
    (twice.map Timed.slot = [4, 5, 1, 2] ∧ (∀ t ∈ twice, t.due = ctx0.cbc) ∧ act 1 0 = true ∧ act 3 0 = true) ∧
    (apart.filter fun t => t.due == ctx0.cbc).Pairwise (fun t t' => ¬meets t t') ∧
    ∀ t ∈ apart, ∀ n v, t.eff ≠ .csr n v := by
  refine ⟨⟨rfl, by decide +kernel, by decide +kernel, by decide +kernel⟩, ?_, ?_⟩
  · refine List.Pairwise.filter _ (List.Pairwise.cons ?_ (List.pairwise_singleton _ _))
    intro t' h
    have : t' = ⟨0, 0, 4, 0, .vw 40 1 0⟩ := by simpa using h
    subst this
    rintro (⟨n, v, v', _, h1, h2⟩ | ⟨n, m, m', v, v', i, _, _, _, (⟨h1, _⟩ | ⟨_, p, p', h1, _⟩)⟩)
    · cases h2
    · cases h1
    · cases h1
  · intro t h n v
    simp only [List.mem_cons, List.not_mem_nil, or_false] at h
    rcases h with rfl | rfl <;> exact fun h => by cases h

theorem test_later_slot_wins : ((landing.beat 0).ctx.x.get 3 = 8 ∧ (landing.beat 0).ctx.wcol = true) ∧
    ((landing.beat 0).ctx.p.get 9).toNat = 1 := by decide +kernel

/-- A store due now, and a table that watches the byte that it writes. -/
def storing : Context :=
  { ctx0 with timed := [⟨0, 0, 2, 0, .store [(64, 9), (64, 8)] []⟩], spad := [(3, 1)] }

theorem witness_BeatWritesScratchpad : Memory.wf storing.spad = true ∧ storing.phase3 = [] ∧ storing.phase2 = [] ∧
    (∀ t, t ∈ storing.timed → t = ⟨0, 0, 2, 0, .store [(64, 9), (64, 8)] []⟩) ∧ storing.pendTables = [] ∧
    ctx0.timed = [] ∧ ({ ctx0 with phase2 := [(1, 128, 5)] } : Context).phase2 = [(1, 128, 5)] :=
  ⟨by decide +kernel, rfl, rfl, fun t h => by simpa [storing] using h, rfl, rfl, rfl⟩

theorem test_store_order : getB (storing.beat 0).ctx.spad 64 = 8 ∧ getB (storing.beat 0).ctx.spad 3 = 1 := by
  decide +kernel

/-- A table that watches byte 64, which the store reaches. -/
theorem witness_BeatWritesScratchpad_table :
    let t : Table := { Table.zero with meta0 := 1 + 2 * 2 ^ 29, meta1 := 1 }
    let c := { storing with tables := [(5, t)] }
    c.pendTables = [] ∧ (64, (9 : Byte)) ∈ [((64 : Nat), (9 : Byte)), (64, 8)] ∧ (c.table 5).watches 64 = true ∧
      (c.table 5).valid = true := by decide +kernel

/-- The effect `e` alone is due. -/
def one (e : Eff) (f : Context → Context) : Context := f { ctx0 with timed := [⟨0, 0, 3, 0, e⟩] }

theorem alone_of {c : Context} {t : Timed} (h : c.timed = [t] ∧ t.due = c.cbc ∧ c.phase2 = [] ∧ c.phase3 = [] ∧
    Memory.wf c.spad = true ∧ mapWf 0 c.banks = true ∧ mapWf Table.zero c.tables = true) : c.Alone t := by
  obtain ⟨h1, h2, h3, h4, h5, h6, h7⟩ := h
  exact ⟨by simp [h1, h2], h3, h4, h5, h6, h7⟩

/-- Lanes 3 and 5, apart; lanes 0 and 1, at one address. -/
theorem witness_BeatLoadsAndAtomics :
    (one (.ldx 3 0 8 true) id).Alone ⟨0, 0, 3, 0, .ldx 3 0 8 true⟩ ∧
    (one (.ldv 2 0x28 (.contig 0) 4 true 5) id).Alone ⟨0, 0, 3, 0, .ldv 2 0x28 (.contig 0) 4 true 5⟩ ∧
    (one (.atom 0x28 (.contig 0) .n32 .add 0 (some 2)) id).Alone
      ⟨0, 0, 3, 0, .atom 0x28 (.contig 0) .n32 .add 0 (some 2)⟩ ∧
    (one (.atom 3 (.indexed 0 0) .bf16 .add 0 none) id).Alone ⟨0, 0, 3, 0, .atom 3 (.indexed 0 0) .bf16 .add 0 none⟩ ∧
    (∀ i, i < 512 → act 0x28 i = true → i = 3 ∨ i = 5) ∧
    (LaneAddrs.contig 0).at 4 3 + 4 ≤ (LaneAddrs.contig 0).at 4 5 ∧
    (∀ i, i < 512 → act 3 i = true → i = 0 ∨ i = 1) ∧ (act 3 0 = true ∧ act 3 1 = true) ∧
    (LaneAddrs.indexed 0 0).at 2 0 = (LaneAddrs.indexed 0 0).at 2 1 :=
  ⟨alone_of (by decide +kernel), alone_of (by decide +kernel), alone_of (by decide +kernel),
    alone_of (by decide +kernel), by decide +kernel⟩

/-- A tape with one record, of the element at 128 or of a mark, and its element with a cell at 256. -/
def taped (e : Eff) (rec : Nat) : Context :=
  one e fun c => { c with
    spad := setBytes [] 0x1000 (toBytes 8 rec), tapeb := 0x1000, tapel := 0x1040, tapec := 0x1008 }

def elem : Elem := ⟨128, 0, 4, 256, false⟩

theorem witness_BeatTape :
    (taped (.markPush 7) 0).Alone ⟨0, 0, 3, 0, .markPush 7⟩ ∧ (taped (.markPush 7) 0).tapec.toNat + 8 < 2 ^ 27 ∧
    (taped (.markPop 7) (2 ^ 27 + 7 * 2 ^ 32)).Alone ⟨0, 0, 3, 0, .markPop 7⟩ ∧
    getN (taped (.markPop 7) (2 ^ 27 + 7 * 2 ^ 32)).spad 0x1000 8 = 2 ^ 27 + 7 * 2 ^ 32 ∧
    (taped (.store [(128, 1)] [elem]) 0).Alone ⟨0, 0, 3, 0, .store [(128, 1)] [elem]⟩ ∧
    (∀ e ∈ [elem], e.addr < 2 ^ 27 ∧ e.region < 16 ∧ e.width ≤ 4) ∧
    (∀ p ∈ [((128 : Nat), (1 : Byte))], p.1 < (taped (.store [(128, 1)] [elem]) 0).tapec.toNat ∨
      (taped (.store [(128, 1)] [elem]) 0).tapec.toNat + 8 ≤ p.1) :=
  ⟨alone_of (by decide +kernel), by decide +kernel, alone_of (by decide +kernel), by decide +kernel,
    alone_of (by decide +kernel), by decide +kernel⟩

theorem witness_BeatTape_reverse :
    let narrow : Eff := .revStore [⟨elem, false, 3, 0⟩] [] none 5
    let wide : Eff := .revStore [⟨elem, true, 3, 0⟩] [] (some (.v 2 0x28)) 5
    let scalar : Eff := .revStore [⟨elem, true, 0, 0⟩] [] (some (.x 2)) 4
    (taped narrow 128).Alone ⟨0, 0, 3, 0, narrow⟩ ∧ (taped wide 128).Alone ⟨0, 0, 3, 0, wide⟩ ∧
    (taped scalar 128).Alone ⟨0, 0, 3, 0, scalar⟩ ∧ 8 ≤ (taped wide 128).tapec.toNat ∧
    (getN (taped wide 128).spad 0x1000 8 / 2 ^ 27 % 2 = 0 ∧ getN (taped wide 128).spad 0x1000 8 % 2 ^ 27 = elem.addr) ∧
    (taped wide 136).Alone ⟨0, 0, 3, 0, wide⟩ ∧ getN (taped wide 136).spad 0x1000 8 % 2 ^ 27 ≠ elem.addr ∧
    (taped wide (128 + 2 ^ 27)).Alone ⟨0, 0, 3, 0, wide⟩ ∧
    getN (taped wide (128 + 2 ^ 27)).spad 0x1000 8 / 2 ^ 27 % 2 = 1 ∧
    (elem.cell + 4 ≤ elem.addr ∨ elem.addr + elem.width ≤ elem.cell) ∧
    elem.addr + elem.width ≤ (taped wide 128).tapec.toNat - 8 ∧
    [RevElem.mk elem false 3 0].Pairwise (fun x y =>
      x.elem.addr + x.elem.width ≤ y.elem.addr ∨ y.elem.addr + y.elem.width ≤ x.elem.addr) :=
  ⟨alone_of (by decide +kernel), alone_of (by decide +kernel), alone_of (by decide +kernel), by decide +kernel,
    by decide +kernel, alone_of (by decide +kernel), by decide +kernel, alone_of (by decide +kernel),
    by decide +kernel⟩

/-- Two records below TAPEC, of the element at 128 and of that at 136: both whole, with a byte outside every region. -/
theorem witness_BeatTape_wholes :
    let es : List RevElem := [⟨elem, true, 3, 0⟩, ⟨⟨136, 0, 4, 260, false⟩, true, 5, 0⟩]
    let bytes : List (Nat × Byte) := [(140, 9)]
    let eff (d : Option RevDest) : Eff := .revStore es bytes d 5
    let c (d : Option RevDest) : Context := one (eff d) fun c => { c with
      spad := setBytes [] 0x1000 (toBytes 8 136 ++ toBytes 8 128), tapeb := 0x1000, tapel := 0x1040, tapec := 0x1010 }
    let spans : List (Nat × Nat) := [(128, 4), (136, 4), (256, 4), (260, 4), (0x1000, 16)]
    (c (some (.v 2 0x28))).Alone ⟨0, 0, 3, 0, eff (some (.v 2 0x28))⟩ ∧
    (c (some (.x 2))).Alone ⟨0, 0, 3, 0, eff (some (.x 2))⟩ ∧ (c none).Alone ⟨0, 0, 3, 0, eff none⟩ ∧
    8 * es.length ≤ (c none).tapec.toNat ∧
    spans.Pairwise (fun x y => x.1 + x.2 ≤ y.1 ∨ y.1 + y.2 ≤ x.1) ∧
    (∀ p ∈ bytes, ∀ x ∈ spans, p.1 < x.1 ∨ x.1 + x.2 ≤ p.1) ∧
    getN (c none).spad 0x1008 8 = 128 ∧ getN (c none).spad 0x1000 8 = 136 :=
  ⟨alone_of (by decide +kernel), alone_of (by decide +kernel), alone_of (by decide +kernel), by decide +kernel⟩

theorem witness_BeatTape_cells :
    (one (.accum [⟨256, false, false, 1⟩, ⟨256, false, false, 2⟩]) id).Alone
      ⟨0, 0, 3, 0, .accum [⟨256, false, false, 1⟩, ⟨256, false, false, 2⟩]⟩ ∧
    (one (.accum [⟨256, true, true, 1⟩]) id).Alone ⟨0, 0, 3, 0, .accum [⟨256, true, true, 1⟩]⟩ ∧
    (elem.abf16 = false ∧ ({ elem with abf16 := true } : Elem).width = 4 ∧ 0x7F80 < 0xFFC0 % 2 ^ 15 ∧
      0x7F80 % 2 ^ 15 = 0x7F80) :=
  ⟨alone_of (by decide +kernel), alone_of (by decide +kernel), by decide⟩

/-- Effects on the banks, and sums that reach and pass the limits of INT32. -/
theorem witness_BeatEngines_banks :
    (one (.zeroBanks 0 8) fun c => { c with banks := [(3, 1)] }).Alone ⟨0, 0, 3, 0, .zeroBanks 0 8⟩ ∧
    (one (.freeBanks 0 8) id).Alone ⟨0, 0, 3, 0, .freeBanks 0 8⟩ ∧
    (one (.readBank 2 3 true) fun c => { c with banks := [(3, 1)] }).Alone ⟨0, 0, 3, 0, .readBank 2 3 true⟩ ∧
    (∀ d ∈ [(2 : Int) ^ 31 - 1, 2 ^ 31, -2 ^ 31, -2 ^ 31 - 1],
      (one (.contribs [⟨0, 511, true, .int d 4⟩]) id).timed = [⟨0, 0, 3, 0, .contribs [⟨0, 511, true, .int d 4⟩]⟩] ∧
        d.natAbs < 2 ^ 64) ∧
    (one (.contribs [⟨0, 511, true, .int (2 ^ 31) 4⟩]) id).Alone
      ⟨0, 0, 3, 0, .contribs [⟨0, 511, true, .int (2 ^ 31) 4⟩]⟩ :=
  ⟨alone_of (by decide +kernel), alone_of (by decide +kernel), alone_of (by decide +kernel), by decide +kernel,
    alone_of (by decide +kernel)⟩

/-- A later-issued contribution kept over 1.0, and a command issued before the contribution that is still to come to its
bank. -/
theorem witness_BeatEngines_order :
    let x : Contrib := ⟨2, 5, false, .fp 0x40000000⟩
    let e : LateSum := ⟨1, 0x3F800000, ⟨2, 5, false, .fp 0x40400000⟩⟩
    let m : Cmd := { Cmd.blank 1 .mxmm 3 3 1 30 with p := stream 7 16 32 128 true, bank := 2 }
    let c (l : List LateSum) (due issue : Nat) : Context :=
      { ctx0 with cbc := due, timed := [⟨due, issue, 6, 0, .contribs [x]⟩], late := l, cmds := [m] }
    (c [e] 0 0).Alone ⟨0, 0, 6, 0, .contribs [x]⟩ ∧ (0 : Nat) < e.issue ∧ x.elem < 512 ∧
    (c [] 9 5).Alone ⟨9, 5, 6, 0, .contribs [x]⟩ ∧ m.owes 5 9 x.bank = true ∧ m.owes 5 9 3 = false ∧
    m.owes 5 30 x.bank = false ∧ m.owes 3 9 x.bank = false ∧ ctx0.late = [] ∧ ctx0.cmds = [] :=
  ⟨alone_of (by decide +kernel), by decide, by decide, alone_of (by decide +kernel), by decide +kernel⟩

/-- 03 R100: the sums of a position are made in order of issue: 1.0, the earlier 2.0, then 3.0 gives 6.0. -/
theorem test_sums_in_order_of_issue :
    let e : LateSum := ⟨1, 0x3F800000, ⟨2, 5, false, .fp 0x40400000⟩⟩
    let c := { ctx0 with timed := [⟨0, 0, 6, 0, .contribs [⟨2, 5, false, .fp 0x40000000⟩]⟩], late := [e] }
    lane (bankOf (c.beat 0).ctx.banks 2) 5 = 0x40C00000 := by decide +kernel

/-- Counter 4 at its LIMIT of 0, with and without a saturation trap that is pending already, and far below it. -/
theorem witness_BeatEngines_counters :
    let c (p : List PendTrap) (limit : BitVec 48) :=
      one (.cnt 4 1 7) fun c => { c with pending := p, limit := c.limit.set 4 limit }
    ((c [] 0).Alone ⟨0, 0, 3, 0, .cnt 4 1 7⟩ ∧ (c [⟨0x28, 1⟩] 0).Alone ⟨0, 0, 3, 0, .cnt 4 1 7⟩ ∧
      (c [] 9).Alone ⟨0, 0, 3, 0, .cnt 4 1 7⟩) ∧
    (((c [] 0).count.get 4).toNat ≤ ((c [] 0).limit.get 4).toNat ∧
      ((c [] 0).limit.get 4).toNat < (((c [] 0).beat 0).ctx.count.get 4).toNat) ∧
    (c [] 0).pending.find? (fun p => p.code == 0x28) = none ∧
    (c [⟨0x28, 1⟩] 0).pending.find? (fun p => p.code == 0x28) = some ⟨0x28, 1⟩ ∧
    ¬((c [] 9).limit.get 4).toNat < (((c [] 9).beat 0).ctx.count.get 4).toNat :=
  ⟨⟨alone_of (by decide +kernel), alone_of (by decide +kernel), alone_of (by decide +kernel)⟩, by decide +kernel⟩

/-- Commands on the streams of `engine`: BF16 lines of 288 positions, whose first step ends inside a block, and an
FP32 write-back. -/
def mxCmd : Cmd := { Cmd.blank 1 .mxmm 0 0 2 16 with p := stream 8 4 288 576 true, q := stream 8 2 288 576 true }
def wbCmd : Cmd := { Cmd.blank 1 .acvt 0 0 1 6 with p := stream 7 2 32 128 true }

theorem witness_BeatEngines_commands :
    (one (.mxStep 1 0) fun c => { c with cmds := [mxCmd] }).Alone ⟨0, 0, 3, 0, .mxStep 1 0⟩ ∧
    (one (.mxStep 1 1) fun c => { c with cmds := [mxCmd] }).Alone ⟨0, 0, 3, 0, .mxStep 1 1⟩ ∧
    (one (.mxStep 1 0) fun c => { c with cmds := [mxCmd] }).cmd 1 = some mxCmd ∧
    (kbeat (strm mxCmd.p) (strm mxCmd.q) = some 144 ∧ (strm mxCmd.p).global = false ∧ (strm mxCmd.q).global = false ∧
      (strm mxCmd.p).lines = 4 ∧ (strm mxCmd.q).lines = 2 ∧ (strm mxCmd.p).len = 288 ∧ 32 * (144 / 32) ≤ 128 ∧
        128 < 144) ∧
    (one (.writeBack 1) fun c => { c with cmds := [wbCmd] }).Alone ⟨0, 0, 3, 0, .writeBack 1⟩ ∧
    (one (.writeBack 1) fun c => { c with cmds := [wbCmd] }).cmd 1 = some wbCmd ∧
    ((strm wbCmd.p).layout = 0 ∧ (strm wbCmd.p).isMx = false ∧ (strm wbCmd.p).bits % 8 = 0 ∧ wbCmd.scale = .noscale) ∧
    (strm (stream 11 1 32 32 true)).isMx = true :=
  ⟨alone_of (by decide +kernel), alone_of (by decide +kernel), by decide +kernel, by decide +kernel,
    alone_of (by decide +kernel), by decide +kernel⟩

/-- Destinations of the write-back in each layout: a column of BF16, MXINT4 by rows and by columns, and MXINT8 in digit
planes, with scales popped and derived. -/
theorem witness_BeatEngines_formats :
    let at2 (layout : Nat) (x : BitVec 192) : BitVec 192 := x + BitVec.ofNat 192 (layout * 2 ^ 53)
    let mx (x : BitVec 192) : BitVec 192 := x + BitVec.ofNat 192 (2 ^ 128 + 4096 * 2 ^ 132)
    let dests := [(at2 1 (stream 8 3 2 32 true), AcvtScale.noscale), (mx (stream 11 3 33 64 true), .sq),
      (mx (at2 1 (stream 11 3 33 64 true)), .derive), (mx (at2 2 (stream 13 2 32 32 true)), .derive),
      (stream 10 3 2 32 true, .sq)]
    ∀ x ∈ dests,
      let m := { Cmd.blank 1 .acvt 0 0 1 6 with p := x.1, scale := x.2, sq := 130 }
      let c := one (.writeBack 1) fun c => { c with cmds := [m] }
      c.timed = [⟨0, 0, 3, 0, .writeBack 1⟩] ∧ c.cmd 1 = some m ∧
        (((strm m.p).layout = 2 ∧ (strm m.p).isMx = true) ∨ ((strm m.p).layout < 2 ∧ (strm m.p).bits ≠ 6)) := by
  decide +kernel

/-- Blocks for the scale that is derived and for the sum: a NaN, infinities, zeros, and numbers of two levels. -/
theorem witness_BeatEngines_blocks :
    let level (x : FV) (L : Int) : Prop := ∃ n m e, x = .fin n m e ∧ m ≠ 0 ∧ e + Nat.log2 m = L
    let zero (x : FV) : Prop := ∃ n e, x = .fin n 0 e
    let xs : List FV := [.fin false 5 1, .fin true 1 0, .fin true 0 7]
    (∃ x ∈ xs, level x 3) ∧ (∀ x ∈ xs, zero x ∨ ∃ L', L' ≤ 3 ∧ level x L') ∧ .nan ∉ xs ∧
    (∀ x ∈ [FV.fin false 0 3], zero x) ∧ (.nan ∉ [FV.inf true] ∧ .inf true ∈ [FV.inf true]) ∧
    ((strm mxCmd.p).isMx = false ∧ (strm (stream 13 1 32 32 true)).isMx = true) := by
  refine ⟨⟨_, .head _, false, 5, 1, rfl, by decide, by decide⟩, ?_, by simp, ?_, by simp, by decide +kernel⟩
  · intro x h
    simp only [List.mem_cons, List.not_mem_nil, or_false] at h
    rcases h with rfl | rfl | rfl
    · exact .inr ⟨3, by decide, false, 5, 1, rfl, by decide, by decide⟩
    · exact .inr ⟨0, by decide, true, 1, 0, rfl, by decide, by decide⟩
    · exact .inl ⟨true, 7, rfl⟩
  · intro x h
    exact ⟨false, 3, by simpa using h⟩

/-- A line of four activations, their table, a spill of one record, and a lookup of them by 4-bit weights. -/
def actStream : BitVec 192 := stream 1 1 4 32 true
def tableCmd (k : CmdKind) (p : BitVec 192) : Cmd := { Cmd.blank 1 k 0 0 1 4 with p := p, q := actStream, wb := .b4 }
def act0 : Table := buildTable [] (strm actStream) 3 0 0

theorem witness_BeatTables_commands :
    let with' (e : Eff) (m : Cmd) := one e fun c => { c with cmds := [m] }
    let build := tableCmd .ltbuild actStream
    let spill := tableCmd .ltspill (stream 6 1 16 64 true)
    (one (.prepTables 5 2 (some 3)) id).Alone ⟨0, 0, 3, 0, .prepTables 5 2 (some 3)⟩ ∧
    (one (.prepTables 5 2 none) id).Alone ⟨0, 0, 3, 0, .prepTables 5 2 none⟩ ∧
    (one (.store [(64, 1)] []) fun c => { c with pendTables := [⟨2, 5, act0, false⟩] }).Alone
      ⟨0, 0, 3, 0, .store [(64, 1)] []⟩ ∧
    (∀ p ∈ [(⟨2, 5, act0, false⟩ : PendTable)], p.due ≠ ctx0.cbc) ∧
    (with' (.buildStep 1 0) build).Alone ⟨0, 0, 3, 0, .buildStep 1 0⟩ ∧
      (with' (.buildStep 1 0) build).cmd 1 = some build ∧
    (with' (.spillStep 1 0) spill).Alone ⟨0, 0, 3, 0, .spillStep 1 0⟩ ∧
      (with' (.spillStep 1 0) spill).cmd 1 = some spill ∧
    (with' (.fillStep 1 0) spill).Alone ⟨0, 0, 3, 0, .fillStep 1 0⟩ ∧ (with' (.fillStep 1 0) spill).cmd 1 = some spill ∧
    (one (.fillCheck 1 0 [(5, 0)]) id).Alone ⟨0, 0, 3, 0, .fillCheck 1 0 [(5, 0)]⟩ :=
  ⟨alone_of (by decide +kernel), alone_of (by decide +kernel), alone_of (by decide +kernel), by decide +kernel,
    alone_of (by decide +kernel), by decide +kernel, alone_of (by decide +kernel), by decide +kernel,
    alone_of (by decide +kernel), by decide +kernel, alone_of (by decide +kernel)⟩

/-- With the table in register 0 the lookup finds no fault; without it the first table that it looks at is one. -/
theorem witness_BeatTables_lookup :
    let look := tableCmd .ltlook (stream 4 1 16 32 true)
    let c (l : List (Nat × Table)) := one (.lookStep 1 0) fun c => { c with cmds := [look], tables := l }
    let fault (l : List (Nat × Table)) := tableFault [] (strm look.p) (strm look.q) 4 0 0 0 ((c l).table 0)
    (c [(0, act0)]).Alone ⟨0, 0, 3, 0, .lookStep 1 0⟩ ∧ (c [(0, act0)]).cmd 1 = some look ∧
    (c []).Alone ⟨0, 0, 3, 0, .lookStep 1 0⟩ ∧ (strm look.p).lines ≤ 32 ∧ (strm look.q).groups = 1 ∧
    fault [(0, act0)] = none ∧ fault [] = some (0x10, 1, 0) :=
  ⟨alone_of (by decide +kernel), by decide +kernel, alone_of (by decide +kernel), by decide +kernel⟩

/-- A table that matches, one of other positions, and an index at the limit of a group of four and one below it. -/
theorem witness_BeatTables_faults :
    let t := strm actStream
    let w := strm (stream 4 1 16 32 true)
    let fits (x : Table) : Prop := x.mx = (t.ty == .mx8) ∧ x.sv = (t.ty == .mx8) ∧ x.gran = (t.span 0 0).1 ∧
      x.bmask = (t.span 0 0).2.1 ∧ t.ty ≠ .mx8
    let limit := 2 ^ min act0.groupSize (t.groupLen 0)
    (act0.valid = true ∧ fits act0 ∧ ¬fits { act0 with meta0 := act0.meta0 ^^^ 8 }) ∧
    ((t.groupLen 0 = 4 ∧ limit = 16) ∧ (0 < w.lines ∧ ∀ p, p < 4 → weightIndex [] w 4 0 0 p < limit)) ∧
    (let short := strm (stream 1 1 2 32 true)
     2 ^ min act0.groupSize (short.groupLen 0) = 4 ∧ weightIndex [(4, 4)] w 4 0 0 1 = 4 ∧
      weightIndex [(4, 4)] w 4 0 0 0 = 0) := by decide +kernel

theorem witness_BeatTables_tables :
    let c : Context := { ctx0 with pendTables := [⟨0, 5, act0, true⟩, ⟨2, 6, act0, false⟩] }
    (c.timed = [] ∧ c.phase2 = [] ∧ c.phase3 = [] ∧ mapWf Table.zero c.tables = true ∧
      c.pendTables.filter (fun x => x.due == c.cbc) = [⟨0, 5, act0, true⟩]) ∧
    ((strm actStream).isActivation = true ∧ (strm actStream).base % 32 = 0 ∧ (strm actStream).stride % 32 = 0 ∧
      0 < (strm actStream).lines ∧ 0 < (strm actStream).groups ∧
      ((strm actStream).span 0 0).1 * 32 + 31 < ctx0.spadShare ∧ ((strm actStream).span 0 0).2.2 < ctx0.spadShare) ∧
    ([0, 0, 0, 0].length ≤ 4 ∧ (∀ i, i < 16 → act0.entry i = subsetSum [0, 0, 0, 0] i) ∧
      ∀ i ∈ [15, 0, 1, 2], i < 2 ^ [(0 : Int), 0, 0, 0].length) := by decide +kernel

theorem witness_BeatFixesNextBundle :
    ((phased .beatDue id).ctx 0 0).phase3 = [] ∧
    ((phased .beatDue id).ctx 0 0).run = .running ∧ ((phased .beatDue id).ctx 0 0).halting = false ∧
    ((((phased .beatDue id).ctx 0 0).beat 0).faults = []) ∧
    ((phased .beatDue fun c => { c with halting := true }).ctx 0 0).halting = true ∧
    (((phased .beatDue fun c => { c with halting := true }).ctx 0 0).beat 0).ctx.pending = [] ∧
    (((phased .beatDue fun c => { c with halting := true }).ctx 0 0).beat 0).faults = [] := by decide +kernel

/-- Traps of each kind. -/
theorem witness_TrapTaking :
    ((0x30 < 256 ∧ (7 : Nat) < 256 ∧ (7 : Nat) < 8 ∧ 2 ^ 21 - 48 < 2 ^ 21) ∧
    (0x28 ∈ [0x20, 0x21, 0x22, 0x28] ∧ Prec.boundary ≠ .slot) ∧
    ((plain 3).ctx 0 0).serviced ≠ some (0x20, 3, ((plain 3).ctx 0 0).pc, ((plain 3).ctx 0 0).cbc) ∧
    0x30 ∉ [0x20, 0x21, 0x22, 0x28] ∧
    ((at' 3 fun c => { c with serviced := some (0x20, 3, 0, 0) }).ctx 0 0).serviced = some (0x20, 3, 0, 0) ∧
    ((plain 3).kernel ((plain 3).ctx 0 0).kernel = some kern ∧ (0, 0) ∈ kern.seats)) := by decide +kernel

/-- Records of two tasks, in order; a kernel whose tasks have all reported, with something still to deliver and without;
and one with a task to come. -/
theorem witness_TrapTaking_ends :
    let recs : List (Nat × List Byte) := [(0, [1]), (1, [2])]
    let done := { kern with reports := [(0, [])] }
    let ended := { done with endGbc := some 5 }
    let s (k : Kernel) (l : List Payload) : State :=
      { (idle id).setLink 0 0 { (idle id).link 0 0 with held := l } with kernels := [k] }
    recs.Pairwise (fun x y => x.1 < y.1) ∧
    ((s kern []).kernel kern.id = some kern ∧ kern.lapsed = false ∧ kern.reports.length < kern.seats.length) ∧
    ((s done []).kernel done.id = some done ∧ done.seats.length ≤ done.reports.length ∧
      (s done []).postWaits ended = false ∧ (s done [.bar 1 0]).postWaits ended = true ∧
      (s done [.bar 2 0]).postWaits ended = false) := by decide +kernel

theorem witness_TrapTaking_records : [(0, ([2] : List Byte)), (1, [])].Perm
    { kern with reports := [(1, []), (0, [2])] }.reports := List.Perm.swap ..

/-- The report and the entry both written; the report beyond what is mapped; and one page by itself. -/
theorem witness_TrapTaking_posted :
    let s := idle id
    let entry (n : Nat) : List Byte := completionEntry 5 0 1 2 n 9
    ((s.vwrite 0 0x4000 [1, 2]).bind fun u => u.vwrite 0 0x3000 (entry 2)).isSome = true ∧
    ((s.vwrite 0 (2 ^ 31) [1, 2]).isNone = true ∧ (s.vwrite 0 0x3000 (entry 0)).isSome = true) ∧
    (s.astEntry 0 = some (0x8000, 1) ∧ 0x4000 % 4096 + [(1 : Byte), 2].length ≤ 4096 ∧
      s.translate 0 0 1 0x4000 false true = some 0x4000 ∧ s.genOk 0x4000 0 1 = true ∧
      s.translate 0 0 1 (2 ^ 31) false true = none) := by decide +kernel

/-- Bundles for the checks at entry: a Q bundle, one with a reserved header bit, and one that consumes token 3. -/
def entering (bundle : Nat) (f : Context → Context) : State :=
  idle fun c => f { c with qi := 1, imem := code bundle }

def waits : Nat := 0b0000001100_0000_000000_000000000000000000000011 * 2 ^ 32

/-- A started copy that is in flight on token 3. -/
def flying (c : Context) : Context :=
  { c with cbc := 5, tok := c.tok.set 3 .outstanding, ops := [{ Op.blank 1 .cpld 3 4 0 with started := true }] }

theorem witness_ComingToIssue_entry :
    (idle id).ready 0 0 = true ∧ ((idle id).ctx 0 0).phase = .entry ∧ ((idle id).ctx 0 0).idleLeft = 0 ∧
    ((idle id).ctx 0 0).pending = [] ∧ ((idle id).ctx 0 0).streamFailed = none ∧
    ((idle id).ctx 0 0).qi.toNat < ((idle id).ctx 0 0).qiCount + 1 ∧
    ((entering 1 id).ctx 0 0).qiCount + 1 ≤ ((entering 1 id).ctx 0 0).qi.toNat ∧
    ((entering 1 id).ctx 0 0).header % 2 = 1 ∧
    ((entering 1 fun c => { c with cbc := 1, lset := [⟨0, 1, 1, none⟩] }).ctx 0 0).counted 1 ≠ 0 ∧
    ((entering 1 id).setSeat 0 0 { (entering 1 id).seat 0 0 with preEn := true, preTarget := 1 }).ready 0 0 = true ∧
    (((entering 1 id).setSeat 0 0 { (entering 1 id).seat 0 0 with preEn := true, preTarget := 1 }).seat 0 0).preTarget
      = ((entering 1 id).ctx 0 0).qcnt + 1 := by decide +kernel

theorem witness_ComingToIssue_bundle :
    (entering 0 id).ready 0 0 = true ∧ ((entering 0 id).ctx 0 0).header % 2 = 0 ∧
    ((entering 0 fun c => { c with pc := 48 * 43690 }).ctx 0 0).imemShare < 48 * 43690 + 48 ∧
    ((entering 0 fun c => { c with pc := 48 * 43690 }).ctx 0 0).header % 2 = 0 ∧
    48 * 43689 + 48 ≤ ((entering 0 fun c => { c with pc := 48 * 43689 }).ctx 0 0).imemShare ∧
    freezeFrom ((entering waits flying).ctx 0 0) 0 = some .token ∧
    ((entering waits flying).ready 0 0 = true ∧ ((entering waits flying).ctx 0 0).header % 2 = 0) ∧
    freezeFrom ((entering 0 id).ctx 0 0) 0 = none ∧
    headerOk ((entering 0 id).ctx 0 0).header (slotOf ((entering 0 id).ctx 0 0).bundle) = true ∧
    freezeFrom ((entering 0x20 id).ctx 0 0) 0 = none ∧
    headerOk ((entering 0x20 id).ctx 0 0).header (slotOf ((entering 0x20 id).ctx 0 0).bundle) = false := by
  decide +kernel

/-- A matrix command whose first step is due and whose global stream is not staged. -/
def unstaged (c : Context) : Context :=
  { c with cmds := [{ Cmd.blank 1 .mxmm 0 0 1 15 with p := BitVec.ofNat 192 (2 ^ 52 + 8 * 2 ^ 55 + 2 ^ 64 + 2 ^ 80) }] }

theorem witness_ComingToIssue_others :
    (idle fun c => { c with phase := .split 3 }).ready 0 0 = true ∧
    freezeFrom ((idle fun c => { c with phase := .split 3 }).ctx 0 0) 3 = none ∧
    freezeFrom ((entering waits fun c => { flying c with phase := .split 0 }).ctx 0 0) 0 = some .token ∧
    ((entering 0 fun c => { c with idleLeft := 3 }).ctx 0 0).idleLeft ≠ 0 ∧
    (entering 0 fun c => { c with idleLeft := 3 }).ready 0 0 = true ∧
    ((entering 0 fun c => { c with idleLeft := 3 }).ctx 0 0).streamFrozen = false ∧
    ((entering 0 fun c => { c with idleLeft := 3 }).ctx 0 0).streamFailed = none ∧
    ((entering 0 fun c => unstaged { c with idleLeft := 3 }).ctx 0 0).streamFrozen = true ∧
    ((entering 0 fun c => unstaged { c with idleLeft := 3 }).ctx 0 0).streamFailed = none ∧
    ((entering 0 fun c => unstaged { c with pc := 48 * 43690 }).ctx 0 0).streamFrozen = true ∧
    ((entering 0 fun c => { c with pc := 48 * 43690 }).ctx 0 0).streamFrozen = false := by decide +kernel

/-- A crossing that is pending, alone and beside a stream's step that has failed, at a bundle and at a trailing-idle
beat. -/
theorem witness_ComingToIssue_pending :
    let failing (c : Context) : Context :=
      { c with cmds := (unstaged c).cmds.map fun m => { m with failed := some (0, 0x3000) } }
    let crossing := idle fun c => { c with pending := [⟨0x28, 1⟩] }
    let both := idle fun c => failing { c with pending := [⟨0x28, 1⟩] }
    let idling := idle fun c => failing { c with idleLeft := 3 }
    (crossing.ready 0 0 = true ∧ (crossing.ctx 0 0).idleLeft = 0 ∧ (crossing.ctx 0 0).pending = [⟨0x28, 1⟩] ∧
      (crossing.ctx 0 0).streamFailed = none) ∧
    (both.ready 0 0 = true ∧ (both.ctx 0 0).phase = .entry ∧ (both.ctx 0 0).streamFailed = some 0x3000 ∧
      [(⟨0x28, 1⟩ : PendTrap), ⟨0x22, 0x3000⟩].Nodup ∧ (0x22 : Nat) < 0x28) ∧
    idling.ready 0 0 = true ∧ (idling.ctx 0 0).phase = .entry ∧ (idling.ctx 0 0).idleLeft ≠ 0 ∧
    (idling.ctx 0 0).streamFailed = some 0x3000 := by decide +kernel

/-- A kernel of two tasks on one brick, in seats 0 and 1. -/
def paired (r r1 : Run) : State :=
  let s := (idle fun c => { c with run := r }).setCtx 0 1 { ctx0 with run := r1 }
  { s with kernels := [{ kern with seats := [(0, 0), (0, 1)] }] }

/-- A committed task at GBCS: its sibling committed, or not, or the brick's table bad. -/
theorem witness_ComingToIssue_start :
    let s := paired (.armed true) (.armed true)
    let t := paired (.armed true) (.armed false)
    let bad := s.setBrick 0 { s.brick 0 with tableBad := true }
    (s.power = .on ∧ (s.brick 0).inService = true ∧ (s.brick 0).cycleNow = true ∧ (s.brick 0).owns 0 = true ∧
      (s.ctx 0 0).run = .armed true ∧ (s.ctx 0 0).gbcs ≤ (s.brick 0).gbc ∧ (s.brick 0).tableBad = false) ∧
    (s.kernel (s.ctx 0 0).kernel = some { kern with seats := [(0, 0), (0, 1)] } ∧
      (s.ctx 0 1).kernel = (s.ctx 0 0).kernel ∧ (s.ctx 0 1).run ≠ .armed false ∧ (s.ctx 0 0).run ≠ .armed false) ∧
    (t.kernel (t.ctx 0 0).kernel = some { kern with seats := [(0, 0), (0, 1)] } ∧
      (t.ctx 0 1).kernel = (t.ctx 0 0).kernel ∧ (t.ctx 0 1).run = .armed false) ∧
    (bad.brick 0).tableBad = true ∧ (bad.ctx 0 0).run = .armed true := by decide +kernel

/-- A task on another brick, whose table is bad: before either has started, and once one has; and a task that has
reported. -/
theorem witness_ComingToIssue_bricks :
    let two (r : Run) : State :=
      let s := (idle fun c => { c with run := .armed true }).setCtx 1 0 { ctx0 with run := r }
      { s.setBrick 1 { s.brick 1 with tableBad := true } with kernels := [{ kern with seats := [(0, 0), (1, 0)] }] }
    (((two (.armed true)).brick 0).tableBad = false ∧ ((two (.armed true)).brick 1).tableBad = true ∧
      ((two (.armed true)).ctx 1 0).run = .armed true ∧
      (two (.armed true)).kernel 1 = some { kern with seats := [(0, 0), (1, 0)] }) ∧
    ((two .running).ctx 1 0).kernel = ((two .running).ctx 0 0).kernel ∧ ((two .running).ctx 1 0).run ≠ .empty ∧
    (∀ r ∈ [true, false], ((two .running).ctx 1 0).run ≠ .armed r) ∧
    (∃ r ∈ [(1, ([] : List Byte))], r.1 = 1) := by
  refine ⟨?_, ?_, ?_, ?_, (1, []), by simp, rfl⟩ <;> decide +kernel

/-- A brick that runs a context, at full clock and below it, and one that holds none. -/
theorem witness_ReferenceCount :
    let slow := (idle id).setBrick 0 { (idle id).brick 0 with clock := 31 }
    ((idle id).power ≠ .off ∧ ((idle id).ctx 0 0).run.over = false ∧
      32 ≤ ((idle id).brick 0).clockAcc + ((idle id).brick 0).clock) ∧
    (slow.brick 0).clockAcc + (slow.brick 0).clock < 32 ∧
    ((hold Context.reset).power ≠ .off ∧
      (List.finRange 4).all (fun q => ((hold Context.reset).ctx 0 q).run.over) = true ∧
      (List.finRange 4).all (fun k => ((hold Context.reset).brick 0).quarters.get k != .busy) = true) := by
  decide +kernel

/-- Frozen on token 3 since count 0, at count `n`, with a freeze budget of 5 counts. -/
def frozen (n : Word) (r : Run) : State :=
  let s := entering waits fun c => { flying c with run := r, fbud := 5, frozenSince := some (0, .token) }
  s.setBrick 0 { s.brick 0 with gbc := n }

/-- Queue 0 with its window of `n` counts run. -/
def windowed (n : Nat) : State := (idle id).setQueue 0 { (idle id).queue 0 with window := n }

theorem witness_WaitingFaults :
    (idle id).ready 0 0 = true ∧ ((idle id).ctx 0 0).qi.toNat < ((idle id).ctx 0 0).qiCount + 1 ∧
    ((frozen 5 .running).ctx 0 0).frozenSince = some (0, .token) ∧ ((frozen 5 .running).ctx 0 0).run = .running ∧
    min ((frozen 5 .running).ctx 0 0).fbud.toNat (2 ^ 30) ≤ (((frozen 5 .running).brick 0).gbc - 0).toNat ∧
    (frozen 5 .running).stillFrozen 0 0 = true ∧ (frozen 5 .running).stallDue ((frozen 5 .running).ctx 0 0) = false ∧
    ((frozen 5 (.service 0)).ctx 0 0).run = .service 0 ∧
    min ((frozen 5 (.service 0)).ctx 0 0).fbud.toNat (2 ^ 30) ≤ (((frozen 5 (.service 0)).brick 0).gbc - 0).toNat ∧
    ((frozen 5 (.saving true 3 (some 0))).ctx 0 0).run = .saving true 3 (some 0) ∧
    (((frozen 4 (.service 0)).brick 0).gbc - 0).toNat < min ((frozen 4 (.service 0)).ctx 0 0).fbud.toNat (2 ^ 30) ∧
    2 ^ 20 ≤ ((windowed (2 ^ 20)).queue 0).window ∧ (windowed (2 ^ 20)).stalls 0 = true ∧
    (windowed (2 ^ 20 - 1)).stalls 0 = false ∧ ((windowed (2 ^ 20)).kernels.map Kernel.id).Nodup ∧
    (kern ∈ (windowed (2 ^ 20)).kernels ∧ kern.queue = 0 ∧ kern.endGbc = none) := by decide +kernel

/-- The window has run out over a context that runs, one stopped in this very count and one stopped before it, one saved
and one in trap service. -/
theorem witness_WaitingFaults_stalls :
    let s (r : Run) (g : Word) : State :=
      let u := (windowed (2 ^ 20)).setCtx 0 0 { (windowed 0).ctx 0 0 with run := r }
      u.setBrick 0 { u.brick 0 with gbc := g }
    (s .stopped 0).stalls 0 = true ∧ ((s .stopped 0).ctx 0 0).stopGbc = ((s .stopped 0).brick 0).gbc ∧
    (s .stopped 1).stalls 0 = false ∧ (s (.armed false) 0).stalls 0 = true ∧ (s (.saved 3) 0).stalls 0 = false ∧
    (s (.service 0) 0).stalls 0 = false := by decide +kernel

theorem witness_WaitingFaults_resaved :
    let s := frozen 5 (.service 0)
    (s.seat 0 0).resaved = none ∧ ((s.setSeat 0 0 { s.seat 0 0 with resaved := some 3 }).seat 0 0).resaved ≠ none ∧
      ((idle id).ctx 0 0).streamFailed = none ∧ ((idle id).ctx 0 0).pending = [] := by decide +kernel

/-- Frozen in service of a trap with the code `n`, at slot 3, with a tape of 2 records. -/
def served (n : Nat) (f : Context → Context) : State := idle fun c =>
  f { c with
    run := .service 0, phase := .split 3, tstat := BitVec.ofNat 64 n, dmode := .fwd, tapel := 64, tapec := 16
    tapesa := 0x20000, regions := [] }

theorem witness_TrapServices_overflow :
    let s := served 0x20 id
    let c := s.ctx 0 0
    c.run = .service 0 ∧ c.svcDone = false ∧ c.tstat.toNat % 256 = 0x20 ∧ (c.tapec.toNat - c.tapeb.toNat) / 8 = 2 ∧
      c.op 0 = none ∧
      (s.spillWrite 0 c c.sp (getBytes c.spad c.tapeb.toNat 16 ++ trailer 2)).isSome = true ∧
      ({ s with mem := [] }.spillWrite 0 c c.sp (getBytes c.spad c.tapeb.toNat 16 ++ trailer 2)).isNone = true := by
  decide +kernel

/-- A span of the spill area in one page, under a translation and without one. -/
theorem witness_TrapServices_spill :
    let s := served 0x20 id
    let c := s.ctx 0 0
    [(1 : Byte)] ≠ [] ∧ (c.tapesa.toNat + 8) % 4096 + [(1 : Byte)].length ≤ 4096 ∧
      s.translate 0 c.asid c.gen (c.tapesa.toNat + 8) false true = some 0x20008 ∧
      s.translate 0 c.asid c.gen (c.tapesa.toNat + 8) true false = some 0x20008 ∧
      s.genOk 0x20008 c.asid c.gen = true ∧ c.tapesa.toNat + 8 + 1 ≤ 2 ^ 52 ∧
      { s with mem := [] }.translate 0 c.asid c.gen (c.tapesa.toNat + 8) false true = none := by decide +kernel

/-- An empty tape; a span that ends its page; a page whose generation is no longer that of the context. -/
theorem witness_TrapServices_pages :
    let empty := served 0x20 fun c => { c with tapec := 0 }
    let s := served 0x20 id
    let old := s.setBrick 0 { s.brick 0 with
      gens := [(0, 2)], tlb := [⟨0, 1, 0x20000, 4096, 0x20000, true, true⟩] }
    ((empty.ctx 0 0).svcDone = false ∧ ((empty.ctx 0 0).tapec.toNat - (empty.ctx 0 0).tapeb.toNat) / 8 = 0) ∧
    ((s.ctx 0 0).tapesa.toNat + 0xFF8) % 4096 + 8 = 4096 ∧
    (∀ w ∈ [true, false], old.translate 0 (old.ctx 0 0).asid (old.ctx 0 0).gen ((old.ctx 0 0).tapesa.toNat + 8) (!w) w
      = some 0x20008) ∧ old.genOk 0x20008 (old.ctx 0 0).asid (old.ctx 0 0).gen = false := by decide +kernel

/-- A bundle that pops a mark in slot 0, an empty tape with room for `n` records, and a spilled block of two. -/
def underflowed (n : Nat) : State :=
  let mark : Nat := 0b0000010010_0000_000000_000000000000000000000111 * 2 ^ 32
  let s := served 0x21 fun c => { c with
    phase := .split 0, dmode := .rev, tapel := BitVec.ofNat 27 (8 * n), tapec := 0, sp := 80, imem := code mark }
  { s with mem := setBytes s.mem 0x20010 (toBytes 8 2) }

/-- The block is taken whole, or one record of it. -/
theorem witness_TrapServices_underflow : ∀ n ∈ [8, 1],
    let s := underflowed n
    let c := s.ctx 0 0
    let m := min 2 n
    (c.run = .service 0 ∧ c.svcDone = false ∧ c.tstat.toNat % 256 = 0x21 ∧ c.phase = .split 0 ∧ c.sp ≠ 0 ∧
      (c.tapec.toNat : Int) + tapeMoves c.timed - 8 * c.popsOf 0 < c.tapeb.toNat) ∧
    s.spillRead 0 c (c.sp - 64) 8 = some (toBytes 8 2) ∧ ofBytes (toBytes 8 2) = 2 ∧
    (c.tapel.toNat - c.tapeb.toNat) / 8 - 0 - c.pendingPushes = n ∧ 0 < m ∧
    (s.spillRead 0 c (c.sp - 64 - 8 * m) (8 * m)).isSome = true ∧ (m = 2 → c.sp = 8 * 2 + 64) ∧
    (c.tapeb.toNat : Int) ≤ c.tapec.toNat + tapeMoves c.timed + 8 * m - 8 * c.popsOf 0 ∧
    c.tapec.toNat + 8 * m < 2 ^ 27 ∧ (s.spillWrite 0 c (c.sp - 64 - 8 * m) (trailer (2 - m))).isSome = true ∧
    ({ s with mem := [] }.spillRead 0 c (c.sp - 64) 8).isNone = true := by decide +kernel

/-- Two blocks of one record each, while the pop of an earlier bundle is pending: the first block is not enough, and the
second is taken by the same service. -/
theorem witness_TrapServices_blocks :
    let s0 := underflowed 8
    let cleared := s0.mem.filter fun e => e.1 != 0x20010
    let s1 : State := { s0 with mem := setBytes (setBytes cleared 0x20008 (toBytes 8 1)) 0x20050 (toBytes 8 1) }
    let s := s1.setCtx 0 0 { s1.ctx 0 0 with sp := 144, timed := [⟨9, 0, 0, 0, .markPop 7⟩] }
    let c := s.ctx 0 0
    let new := getBytes s.mem 0x20048 8
    let next := s.setCtx 0 0 { c.writeSpad (bytesAt 0 (new ++ getBytes c.spad 0 (8 * 0))) with
      tapec := c.tapec + BitVec.ofNat 27 (8 * 1), sp := 144 - 8 * 1 - 64, svcDone := false }
    (c.run = .service 0 ∧ c.svcDone = false ∧ c.tstat.toNat % 256 = 0x21 ∧ c.phase = .split 0) ∧
    (c.sp ≠ 0 ∧ (c.tapec.toNat : Int) + tapeMoves c.timed - 8 * c.popsOf 0 < 0 ∧
      s.spillRead 0 c (c.sp - 64) 8 = some (toBytes 8 1) ∧ s.spillRead 0 c (c.sp - 64 - 8) 8 = some new ∧
      min 1 ((c.tapel.toNat - 0) / 8 - 0 - c.pendingPushes) = 1 ∧
      (c.tapec.toNat : Int) + tapeMoves c.timed + 8 * 1 - 8 * c.popsOf 0 < 0) ∧
    (match exec (.tapeUnderflowService 0 0) next with
      | .next t => (t.ctx 0 0).svcDone && (t.ctx 0 0).sp == 0
      | _ => false) = true := by decide +kernel

theorem witness_TrapServices_others :
    ((served 0x21 id).ctx 0 0).sp = 0 ∧ ((served 0x21 id).ctx 0 0).op 0 = none ∧
      ((served 0x22 id).ctx 0 0).tstat.toNat % 256 = 0x22 ∧
    ((served 0x28 id).kernel ((served 0x28 id).ctx 0 0).kernel = some kern ∧ kern.satAbort = false) ∧
    ((served 0x28 fun c => { c with svcDone := true }).ctx 0 0).svcDone = true ∧
    ((served 0x28 fun c => { c with svcDone := true }).ctx 0 0).halting = false := by decide +kernel

/-- A crossing whose kernel asks for its end, a `halt` whose beat is taken, and one split at slot 3. -/
theorem witness_TrapServices_ends :
    let abort := { served 0x28 id with kernels := [{ kern with satAbort := true }] }
    let ending := served 0x28 fun c => { c with svcDone := true, halting := true, phase := .entry }
    let split := served 0x20 fun c => { c with svcDone := true, halting := true }
    (abort.kernel (abort.ctx 0 0).kernel = some { kern with satAbort := true } ∧
      (abort.ctx 0 0).run = .service 0 ∧ (abort.ctx 0 0).svcDone = false ∧
      (abort.ctx 0 0).tstat.toNat % 256 = 0x28) ∧
    ((ending.ctx 0 0).run = .service 0 ∧ (ending.ctx 0 0).svcDone = true ∧ (ending.ctx 0 0).halting = true ∧
      (ending.ctx 0 0).phase = .entry ∧ (ending.ctx 0 0).pending = []) ∧
    ((split.ctx 0 0).run = .service 0 ∧ (split.ctx 0 0).svcDone = true ∧ (split.ctx 0 0).phase ≠ .entry) := by
  decide +kernel

/-! ### States that meet the hypotheses: traffic -/

/-- Operation 1 of a context, an `o` of token 3, at count 9 of its brick, its beat taken or not. -/
def withOp (o : Op) (f : Context → Context) : State :=
  let s := idle fun c => f { c with cbc := 5, tok := c.tok.set 3 .outstanding, ops := [o] }
  s.setBrick 0 { s.brick 0 with gbc := 9 }

/-- A copy of 128 bytes from or to 0x2000, with scratchpad address 4096. -/
def copy (k : OpKind) (w : Word) : Op :=
  { Op.blank 1 k 3 4 1 with a := 0x2000, b := 4096, c := w, started := true }

theorem witness_CopyTraffic_start :
    let s := withOp { copy .cpld 128 with started := false } id
    let c := s.ctx 0 0
    let o := { copy .cpld 128 with started := false }
    c.op 1 = some o ∧ c.run.live = true ∧ o.kind.isCopy = true ∧ o.startBeat < c.cbc ∧ c.ops = [o] := by
  decide +kernel

/-- Each cause first, with those behind it and without those before it; and no cause of the list. -/
theorem witness_CopyTraffic_causes :
    let errs : List (Nat × BitVec 8) := [(0, 3), (1, 5), (2, 1)]
    [4, 6, 1, 5, 7, 3] = [4, 6] ++ (1 : BitVec 8) :: [5, 7, 3] ∧ (∃ e ∈ errs, e.2 = 1) ∧
      (∀ e ∈ errs, e.2 ∉ ([4, 6] : List (BitVec 8))) ∧
      ∀ e ∈ ([] : List (Nat × BitVec 8)), e.2 ∉ ([4, 6, 1, 5, 7, 3] : List (BitVec 8)) := by decide

/-- A span under a translation, in the generation in force or not, and one without a translation. -/
theorem witness_CopyTraffic_spans :
    let s := withOp (copy .cpld 128) id
    let old := s.setBrick 0 { s.brick 0 with gens := [(0, 2)] }
    (s.ctx 0 0).op 1 = some (copy .cpld 128) ∧ ((copy .cpld 128).started = true ∧ (copy .cpld 128).startCycle < 9) ∧
    (copy .cpld 128).pendingSpan 1 = true ∧ (copy .cpld 128).kind ∈ [OpKind.cpld, .cpst, .cpfill, .cpat] ∧
    (copy .cpld 128).a.toNat + 64 < 2 ^ 52 ∧
    s.translate 0 (s.ctx 0 0).asid (s.ctx 0 0).gen 0x2040 true false = some 0x2040 ∧
    s.genOk 0x2040 (s.ctx 0 0).asid (s.ctx 0 0).gen = true ∧
    old.translate 0 (old.ctx 0 0).asid (old.ctx 0 0).gen 0x2040 true false = some 0x2040 ∧
    old.genOk 0x2040 (old.ctx 0 0).asid (old.ctx 0 0).gen = false ∧
    { s with mem := [] }.translate 0 (s.ctx 0 0).asid (s.ctx 0 0).gen 0x2040 true false = none := by decide +kernel

/-- A row of a gather whose address the list holds: beyond the address space, not aligned, with its second span beyond,
and one that is reached. -/
theorem witness_CopyTraffic_rows :
    let word : Word := 1 + 2 * 2 ^ 12
    let s (k : OpKind) (x : Word) :=
      withOp (copy k word) fun c => { c with spad := setBytes [] 0x2000 (toBytes 8 x.toNat) }
    let first (x : Word) : Word := BitVec.ofNat 64 (getN ((s .cpga x).ctx 0 0).spad 0x2000 8)
    let o := copy .cpga word
    (o.pendingSpan 1 = true ∧ o.started = true ∧ o.startCycle < 9 ∧ o.rows = [] ∧ 1 / 2 = 0 ∧ 1 % 2 = 1 ∧
      ((s .cpga 5).ctx 0 0).op 1 = some o ∧ ((s .cpsc 5).ctx 0 0).op 1 = some (copy .cpsc word)) ∧
    2 ^ 52 ≤ (first (2 ^ 52)).toNat ∧ ((first 0x3010).toNat < 2 ^ 52 ∧ (first 0x3010).toNat % 64 ≠ 0) ∧
    ((first (2 ^ 52 - 64)).toNat % 64 = 0 ∧ 2 ^ 52 ≤ (first (2 ^ 52 - 64)).toNat + 64) ∧
    (first 0x3000).toNat + 64 * 1 = 0x3040 ∧
    (s .cpga 0x3000).translate 0 ((s .cpga 0x3000).ctx 0 0).asid ((s .cpga 0x3000).ctx 0 0).gen 0x3040 true false
      = some 0x3040 ∧
    (s .cpsc 0x3000).translate 0 ((s .cpga 0x3000).ctx 0 0).asid ((s .cpga 0x3000).ctx 0 0).gen 0x3040 false true
      = some 0x3040 := by decide +kernel

/-- An atomic, an entry of the scale queue of each source, and an address beyond the address space. -/
theorem witness_CopyTraffic_atomics :
    let o := copy .cpat 0x130
    let s := withOp o id
    let far := { copy .cpld 64 with a := 2 ^ 52 }
    (o.kind = .cpat ∧ o.a.toNat < 2 ^ 52 ∧ o.pendingSpan 0 = true ∧ (s.ctx 0 0).op 1 = some o ∧
      s.translate 0 (s.ctx 0 0).asid (s.ctx 0 0).gen 0x2000 true true = some 0x2000 ∧
      s.genOk 0x2000 (s.ctx 0 0).asid (s.ctx 0 0).gen = true ∧ atomOfCode (o.c.toNat % 8) = some .add ∧
      (o.c.toNat / 16 % 16, Ty.s32) ∈ [(3, Ty.s32), (6, .n32), (7, .f32)]) ∧
    ((copy .cpsq 1).c = 1 ∧ (copy .cpsq 1).pendingSpan 3 = true ∧ (copy .cpsq 0).c ≠ 1 ∧
      (copy .cpsq 0).a.toNat + 64 * 3 < 2 ^ 52) ∧
    (2 ^ 52 ≤ far.a.toNat ∧ far.pendingSpan 0 = true ∧ ((withOp far id).ctx 0 0).op 1 = some far) ∧
    ({ copy .cpsq 0 with data := [(2, 5)] }).data.find? (fun e => e.1 == 2) = some (2, 5) := by decide +kernel

theorem witness_CopyTraffic_landing :
    let o := { copy .cpld 128 with data := [(1, 5)], performed := [1] }
    ((withOp o fun c => { c with phase := .beatDue }).ctx 0 0).op 1 = some o ∧ o.lands = true ∧
    o.data.find? (fun e => e.1 == 1) = some (1, 5) ∧
    (withOp o fun c => { c with phase := .beatDue }).beatNow 0 0 = true ∧
    ((withOp o id).beatNow 0 0 = false ∧ ((withOp o id).ctx 0 0).beatThisCycle = false) ∧
    ((withOp o fun c => { c with beatThisCycle := true }).beatNow 0 0 = false ∧
      ((withOp o fun c => { c with beatThisCycle := true }).ctx 0 0).beatThisCycle = true) := by decide +kernel

/-- Settled operations: with an error, good, and good with a tag. -/
theorem witness_CopyTraffic_completion :
    let bad := { copy .cpst 64 with errs := [(0, 5)] }
    let good := { copy .cpst 64 with performed := [0] }
    let tagged := { copy .cpld (64 + 2 ^ 24 + 7 * 2 ^ 32) with performed := [0], landed := [0] }
    (bad.settled = true ∧ bad.lastCycle < ((withOp bad id).brick 0).gbc ∧ causeOf bad.errs = some 5) ∧
    (good.settled = true ∧ causeOf good.errs = none ∧ good.kind ≠ .cpsq ∧ good.tag = none) ∧
    (tagged.settled = true ∧ causeOf tagged.errs = none ∧ tagged.tag = some 7) ∧
    ((withOp tagged id).ctx 0 0).op 1 = some tagged := by decide +kernel

theorem witness_CopyTraffic_fence_and_queue :
    let f := Op.blank 1 .fence 3 4 1
    let q := { copy .cpsq 0 with performed := [0, 1, 2, 3] }
    (f.kind = .fence ∧ f.covers = [] ∧ ((withOp f id).ctx 0 0).op 1 = some f) ∧
    (q.kind = .cpsq ∧ q.started = true ∧ q.settled = true ∧ q.errs = [] ∧
      ((withOp q fun c => { c with sq := List.replicate 15 0 }).ctx 0 0).sq.length < 16) ∧
    ((withOp q id).ctx 0 0).ops = [q] := by decide +kernel

/-- A global BF16 stream of one line at virtual address 0x3000, and the command that reads it. -/
def globalCmd : Cmd :=
  { Cmd.blank 1 .mxmm 0 0 1 15 with p := BitVec.ofNat 192 (0x3000 + 2 ^ 52 + 8 * 2 ^ 55 + 2 ^ 64 + 144 * 2 ^ 80)
                                    q := stream 8 1 144 288 true }

theorem witness_FetchAndTranslation_fetch :
    let s := idle fun c => { c with cmds := [globalCmd] }
    let c := s.ctx 0 0
    c.cmd 1 = some globalCmd ∧ c.run.live = true ∧ globalCmd.kind = .mxmm ∧ (strm globalCmd.p).global = true ∧
    globalCmd.failed = none ∧ globalCmd.stagedP < globalCmd.steps ∧
    (match s.fetchSpans 0 c (stepSpans (strm globalCmd.p) 144 0) with
      | .ok l => l.length
      | .error _ => 0) = 320 ∧
    (match { s with mem := [] }.fetchSpans 0 c (stepSpans (strm globalCmd.p) 144 0) with
      | .ok _ => 0
      | .error va => va) = 0x3000 := by decide +kernel

theorem witness_FetchAndTranslation_rest :
    let s := withOp (copy .cpst 64) id
    let inv := s.setBrick 0 { s.brick 0 with tlbinv := 2, tlbPending := [(2, 1)] }
    ((s.ctx 0 0).op 1 = some (copy .cpst 64) ∧ (copy .cpst 64).kind.isCopy = true ∧ (copy .cpst 64).fromSpad = false) ∧
    (s.tlbHit 0 0 1 0x2000 = none ∧ (s.walk 0 0x2000).isSome = true ∧ s.physOk 0x2000 = true) ∧
    ({ s with mem := [] }.tlbHit 0 0 1 0x2000 = none ∧ { s with mem := [] }.walk 0 0x2000 = none) ∧
    (inv.stewardUp 0 = true ∧ (inv.brick 0).tlbinv.toNat % 4 ≠ 3 ∧ (inv.brick 0).tlbPending ≠ []) ∧
    (Memory.wf s.mem = true ∧ s.physOk 0x10000 = true ∧ 0x10000 ∈ s.walkAddrs 0 0x2000 ∧
      0x10008 ∉ s.walkAddrs 0 0x2000) := by decide +kernel

/-- A TLB that is full. -/
theorem witness_FetchAndTranslation_full :
    let e := entryOf 0 1 0x8000_0000 (leafOf 0x0F 0x8000_0000)
    let s := (idle id).setBrick 0 { (idle id).brick 0 with tlb := List.replicate 2048 e }
    (2048 ≤ (s.brick 0).tlb.length ∧ s.power ≠ .off) ∧ s.tlbHit 0 0 1 0x2000 = none ∧
      (s.walk 0 0x2000).isSome = true := by decide +kernel

/-- A TLB whose second entry is hit, and one that has none; a step to stage, and its first span's home. -/
theorem witness_FetchAndTranslation_hits :
    let e (va : Nat) : TlbEntry := ⟨0, 1, va, 4096, 0x5000, true, false⟩
    let hits (e : TlbEntry) : Prop := e.asid.toNat = 0 ∧ e.gen.toNat = 1 ∧ e.va ≤ 0x2000 ∧ 0x2000 < e.va + e.size
    let s (l : List TlbEntry) : State := (idle id).setBrick 0 { (idle id).brick 0 with tlb := l }
    (((s [e 0x9000, e 0x2000]).brick 0).tlb = [e 0x9000] ++ e 0x2000 :: [] ∧ (∀ y ∈ [e 0x9000], ¬hits y) ∧
      hits (e 0x2000) ∧ (s [e 0x9000, e 0x2000]).translate 0 0 1 0x2008 true false = some 0x5008 ∧
      (s [e 0x9000, e 0x2000]).translate 0 0 1 0x2008 false true = none) ∧
    (mapWf 0 globalCmd.staged = true ∧ 0x3000 ∈ stepSpans (strm globalCmd.p) 144 0 ∧
      (idle id).translate 0 0 1 0x3000 true false = some 0x3000) := by decide +kernel

/-- 22 R410: four levels under roots at 0x8000, to a page of 4,096 bytes at 0x7000. -/
theorem test_walk_four_levels :
    let m := [(0x8000, 0x30001), (0x30000, 0x32001), (0x32000, 0x34001), (0x34010, 0x7007)].foldl
      (fun m (e : Nat × Nat) => setBytes m e.1 (toBytes 8 e.2)) tables0
    { idle id with mem := m }.walk 0 0x2ABC = some ⟨0x7000, 4096, true, false⟩ := by decide +kernel

/-- Payloads that wait at brick 0 on dimension 0, for the task of kernel 1. -/
def arrived (l : List Payload) (f : Context → Context) : State :=
  let s := idle f
  s.setLink 0 0 { s.link 0 0 with rx := l }

theorem witness_ExchangeTraffic_granules :
    let p : Payload := .granule 1 1 false 64 0 0 4096 5
    let x : Payload := .granule 1 1 true 64 2 0 4096 5
    let own := { Op.blank 1 .xcc 3 0 1 with a := 64 * 2 ^ 32, b := 4096, fn := 2, data := [(0, 7)] }
    ((arrived [p] id).link 0 0).rx = p :: [] ∧ (arrived [p] id).liveTask 0 1 = some 0 ∧
    (arrived [p] id).takesGranule 0 0 = true ∧
    (arrived [p] fun c => { c with beatThisCycle := true }).takesGranule 0 0 = false ∧
    (arrived [p] fun c => { c with run := .ended }).liveTask 0 1 = none ∧
    ((arrived [x] fun c => { c with ops := [own] }).ctx 0 0).ownXcc (0 : Fin 12).val = some own ∧
    own.len = 64 ∧ own.fn = 2 ∧ own.data.find? (fun e => e.1 == 0 / 64) = some (0 / 64, 7) ∧ own.fn ≠ 3 ∧
    (arrived [x] fun c => { c with ops := [own] }).takesGranule 0 0 = true := by
  decide +kernel

theorem witness_ExchangeTraffic_others :
    let d : Payload := .done 1 1 false 64 0 4096 7
    let x : Payload := .xat 1 1 .add .n32 4096 1 [5]
    let b : Payload := .bar 1 0
    let bar := { Op.blank 1 .xbar 3 0 1 with mask := 1 }
    ((arrived [d] id).liveTask 0 1 = some 0 ∧ ((arrived [d] id).ctx 0 0).phase2 = [] ∧
      ((arrived [d] id).ctx 0 0).phase3 = [] ∧ (arrived [d] id).senderOp 0 0 1 1 = none) ∧
    (arrived [d] fun c => { c with run := .killed }).liveTask 0 1 = none ∧
    ((arrived [x] fun c => { c with dmode := .fwd, tapeb := 4096, tapel := 4160 }).ctx 0 0).windowHit 4096 4
      = some 4096 ∧
    ((arrived [x] fun c => { c with run := .stopped }).ctx 0 0).windowHit 4096 4 = none ∧
    ((arrived [x] fun c => { c with run := .stopped }).ctx 0 0).run.applies = true ∧
    (arrived [x] fun c => { c with run := .stopped }).liveTask 0 1 = some 0 ∧
    ((arrived [x] fun c => { c with phase := .beatDue }).ctx 0 0).run.applies = false ∧
    (arrived [x] fun c => { c with phase := .beatDue }).beatNow 0 0 = true ∧
    ((arrived [b] fun c => { c with ops := [bar], dimmap := 0, crd := 0x1000 }).ctx 0 0).barFor (0 : Fin 12).val
      = some (bar, 0) := by decide +kernel

/-- A completion whose sender still holds its operation, which an error has met or not; an `xat` that comes to a
released task. -/
theorem witness_ExchangeTraffic_sender :
    let d : Payload := .done 1 1 false 64 0 4096 7
    let s (spoiled : Bool) : State :=
      let u := (arrived [d] id).setCtx 1 0 { ctx0 with ops := [{ Op.blank 1 .xsend 3 0 1 with spoiled := spoiled }] }
      { u with kernels := [{ kern with seats := [(0, 0), (1, 0)] }] }
    (((s false).link 0 0).rx = d :: [] ∧ (s false).liveTask 0 1 = some 0 ∧ ((s false).ctx 0 0).phase2 = [] ∧
      ((s false).senderOp 0 0 1 1).map (fun o => (o.spoiled, o.kind)) = some (false, .xsend)) ∧
    (((s true).senderOp 0 0 1 1).map Op.spoiled = some true ∧ inModule 0 = true) ∧ inModule 3 = false ∧
    ((arrived [.xat 1 1 .add .n32 4096 1 [5]] fun c => { c with run := .released 3 }).ctx 0 0).run.applies = true ∧
    (arrived [.xat 1 1 .add .n32 4096 1 [5]] fun c => { c with run := .released 3 }).liveTask 0 1 = some 0 := by
  decide +kernel

/-- Two arrivals of `xat` that wait for the beat. -/
theorem witness_ExchangeTraffic_phase3 :
    let x (v : BitVec 32) : RemoteAtom := { addr := 4096, op := .add, ty := .n32, vals := [v, 1], dim := 0, id := 1 }
    Memory.wf ctx0.spad = true ∧ ({ ctx0 with phase3 := [x 5, x 7] } : Context).phase3 = [x 5] ++ [x 7] ∧
    (x 7).vals[1]? = some 1 ∧ (15 : Nat) < 16 := by decide +kernel

/-- 13 R305: sums wrap, and `imax` is signed. -/
theorem test_combines : combineGranule 2 (BitVec.ofNat 512 (2 ^ 32 - 1)) 2 = 1 ∧
    combineGranule 5 (BitVec.ofNat 512 (2 ^ 32 - 1)) 2 = 2 ∧ combineGranule 6 (BitVec.ofNat 512 (2 ^ 32 - 1)) 2 =
      BitVec.ofNat 512 (2 ^ 32 - 1) := by decide +kernel

/-! ### States that meet the hypotheses: launch and contexts -/

/-- Queue 0 with its ring's HEAD at 1, TAIL at 2 and completions 3 to 5 not acknowledged, in a ring of 16. -/
def ringed : State := (idle id).setQueue 0 { (idle id).queue 0 with
  log2n := 4, en := true, headIx := 1, tail := 2, chead := 3, ctail := 5 }

theorem witness_LaunchRegisters_queues : ringed.hostUp = true ∧
    ((17 : BitVec 16) - (ringed.queue 0).headIx).toNat = 16 ∧ ((17 : BitVec 16) - (ringed.queue 0).tail).toNat ≤ 16 ∧
    16 < ((18 : BitVec 16) - (ringed.queue 0).headIx).toNat ∧
    ((5 : BitVec 16) - (ringed.queue 0).chead).toNat = ((ringed.queue 0).ctail - (ringed.queue 0).chead).toNat ∧
    ((ringed.queue 0).ctail - (ringed.queue 0).chead).toNat < ((6 : BitVec 16) - (ringed.queue 0).chead).toNat ∧
    2 ^ (ringed.queue 0).log2n.toNat = 16 := by decide +kernel

/-- Staged tables: the one in force, one of no entries, one with bit 2 set, one of a single entry. -/
def staging (t : BitVec 256) (f : Context → Context) : State :=
  let s := idle f
  s.setBrick 0 { s.brick 0 with staged := t }

theorem witness_LaunchRegisters_tables :
    let all := BitVec.ofNat 256 ((2 ^ 256 - 1) / 15 * 8)
    let busy (s : State) := (List.finRange 4).any fun q =>
      s.holds 0 q && ownedEntries (s.brick 0).staged q.val != ownedEntries (s.brick 0).seattab q.val
    (tableBit2 all = false ∧ tableSpaced all = true ∧ busy (staging all id) = false) ∧
    (staging all id).stewardUp 0 = true ∧ tableBit2 0xC = true ∧ (tableBit2 0x8 = false ∧ tableSpaced 0x8 = false) ∧
    (tableBit2 0 = false ∧ tableSpaced 0 = true ∧ busy (staging 0 id) = true) := by decide +kernel

/-- Contexts that wait for a table: one stopped, one saved in trap service. -/
theorem witness_LaunchRegisters_owed :
    let all := BitVec.ofNat 256 ((2 ^ 256 - 1) / 15 * 8)
    let s (r : Run) : State :=
      let u := staging all fun c => { c with run := r }
      u.setSeat 0 0 { u.seat 0 0 with resumeOwed := true }
    (((s .stopped).seat 0 0).resumeOwed = true ∧ ((s .stopped).seat 0 0).preEn = false ∧
      ((s .stopped).ctx 0 0).run = .stopped) ∧
    (((s (.saved 7)).seat 0 0).resumeOwed = true ∧ ((s (.saved 7)).ctx 0 0).run = .saved 7 ∧
      (((s (.saved 7)).brick 0).genOf ((s (.saved 7)).ctx 0 0).asid).toNat = ((s (.saved 7)).ctx 0 0).gen) ∧
    ((s .stopped).ctx 0 0).recorded = false ∧ ((s .stopped).seat 0 1).resumeOwed = false := by decide +kernel

/-- A seat that the steward has set up for GBCS = g. -/
def setUp (r : Run) (g : Word) (a : Bool) : State :=
  let s := idle fun c => { c with run := r, gbcs := g }
  s.setSeat 0 0 { s.seat 0 0 with armedReg := a }

theorem witness_LaunchRegisters_start :
    ((setUp .empty 0x10000 false).power = .on ∧ ((setUp .empty 0x10000 false).brick 0).inService = true ∧
      (setUp .empty 0x10000 false).armCause 0 0 = 0 ∧ ((setUp .empty 0x10000 false).seat 0 0).ctx.run = .empty) ∧
    (setUp .empty 0xFFFF false).armCause 0 0 = 5 ∧
    (((setUp (.armed false) 1024 true).seat 0 0).armedReg = true ∧
      ((setUp (.armed false) 1024 true).seat 0 0).committed = false ∧
      ((setUp (.armed false) 1024 true).ctx 0 0).gbcs - ((setUp (.armed false) 1024 true).brick 0).gbc = 1024 ∧
      ((setUp (.armed false) 1024 true).ctx 0 0).run = .armed false) ∧
    (((setUp (.armed false) 1023 true).seat 0 0).armedReg = true ∧
      ((setUp (.armed false) 1023 true).seat 0 0).committed = false ∧
      (((setUp (.armed false) 1023 true).ctx 0 0).gbcs -
        ((setUp (.armed false) 1023 true).brick 0).gbc).toNat < 1024) := by
  decide +kernel

/-- Each check of an arm that fails with those before it holding: the placement (a coordinate bit with no dimension),
the table, the scrub, the seat, the lead, and none. -/
theorem witness_LaunchRegisters_causes :
    let ready := setUp .empty 0x10000 false
    let brick (f : Brick → Brick) : State := ready.setBrick 0 (f (ready.brick 0))
    (ready.setCtx 0 0 { ready.ctx 0 0 with crd := 0x1000, scmask := 0 }).armCause 0 0 = 1 ∧
    (brick fun x => { x with tableBad := true }).armCause 0 0 = 2 ∧
    (brick fun x => { x with quarters := Vector.replicate 4 .dirty }).armCause 0 0 = 3 ∧
    (setUp .running 0x10000 false).armCause 0 0 = 4 ∧ (setUp .empty 0xFFFF false).armCause 0 0 = 5 ∧
    ready.armCause 0 0 = 0 ∧ ((ready.brick 0).slew = 0 ∧ (ready.ctx 0 0).gbcs ≠ (ready.brick 0).gbc) := by
  decide +kernel

/-- Quarters dirty, a table that is busy, and more. -/
def quartered (k : Quarter) (f : Context → Context) : State :=
  let s := idle f
  s.setBrick 0 { s.brick 0 with quarters := Vector.replicate 4 k }

/-- A context that had a share of quarter 3, which is dirty. -/
def sharing (r : Run) : State :=
  let s := quartered .dirty fun c => { c with run := r }
  s.setSeat 0 0 { s.seat 0 0 with share := [3] }

/-- An entry of the table in memory and one beyond. -/
theorem witness_ScrubAndGenerations_entry : (idle id).physOk ((idle id).astbase.toNat + 16 * 0 + 8) = true ∧
    { idle id with astbase := 0xFFFFFFFFFF000 }.physOk
      (({ idle id with astbase := 0xFFFFFFFFFF000 } : State).astbase.toNat + 16 * 0 + 8) = false := by decide +kernel

theorem witness_ScrubAndGenerations :
    ((quartered .dirty id).power = .on ∧ ((quartered .dirty id).brick 0).quarters.get 3 = .dirty) ∧
    ((quartered .busy id).brick 0).quarters.get 3 = .busy ∧
    (∀ q, ((quartered .busy fun c => { c with run := .ended }).ctx 0 q).run.over = true) ∧
    (∀ q g, ((quartered .dirty id).ctx 0 q).run ≠ .released g) ∧
    ((sharing (.released 3)).ctx 0 0).run = .released 3 ∧ 3 ∈ ((sharing (.released 3)).seat 0 0).share ∧
    (((sharing .ended).ctx 0 0).run = .ended ∧ 3 ∈ ((sharing .ended).seat 0 0).share) ∧
    (∀ i, mapWf 1 ((idle id).brick i).gens = true) ∧ (∀ i, ((idle id).brick i).genBusy = false) ∧
    (0x1FFFF : Word).getLsbD 16 = true ∧ (idle id).stewardUp 0 = true ∧
    (((idle id).setBrick 0 { (idle id).brick 0 with gens := [(0xFFFF, 0xFFFF)] }).brick 0).genOf 0xFFFF = 0xFFFF ∧
    (((idle id).setBrick 0 { (idle id).brick 0 with genBusy := true, genNext := 2 }).brick 0).genBusy = true ∧
    (∀ p : Fin 8 × Fin 4, ((idle id).ctx p.1 p.2).oldAccess 0 2 = false) := by
  refine ⟨by decide +kernel, by decide +kernel, ?_, ?_, by decide +kernel, by decide +kernel, by decide +kernel, ?_, ?_,
    by decide, by decide +kernel, by decide +kernel, by decide +kernel, ?_⟩
  · intro q
    match q with
    | 0 | 1 | 2 | 3 => decide +kernel
  · intro q g h
    have h1 : ∀ r : Run, (match r with | .running | .empty => true | _ => false) = true → r ≠ .released g := by
      intro r hr e
      rw [e] at hr
      exact Bool.noConfusion hr
    refine h1 _ ?_ h
    match q with
    | 0 | 1 | 2 | 3 => decide +kernel
  · intro i
    match i with
    | 0 | 1 | 2 | 3 | 4 | 5 | 6 | 7 => decide +kernel
  · intro i
    match i with
    | 0 | 1 | 2 | 3 | 4 | 5 | 6 | 7 => decide +kernel
  · have h : (List.finRange 8).all (fun b => (List.finRange 4).all fun q =>
        !((idle id).ctx b q).oldAccess 0 2) = true := by decide +kernel
    rintro ⟨b, q⟩
    have h1 := List.all_eq_true.mp (List.all_eq_true.mp h b (List.mem_finRange b)) q (List.mem_finRange q)
    simpa using h1

/-- A check that fails while a task of kernel 1, which had no share of the quarter, stands on the brick; a brick whose
steward does not run, and a boot that has failed; and a GENADV without GO. -/
theorem witness_ScrubAndGenerations_steward :
    let s := quartered .busy id
    (s.power = .on ∧ s.stewardUp 0 = true ∧ s.stage ≠ 15 ∧ (s.brick 0).quarters.get 3 = .busy) ∧
    (List.finRange 4).all (fun q => (s.ctx 0 q).run.over || !(s.seat 0 q).share.contains 3) = true ∧
    ((s.ctx 0 0).run.over = false ∧ s.kernel (s.ctx 0 0).kernel = some kern ∧ (0, 0) ∈ kern.seats) ∧
    (s.setBrick 0 { s.brick 0 with steward := false }).stewardUp 0 = false ∧ { s with stage := 15 }.stage = 15 ∧
    (5 : Word).getLsbD 16 = false := by decide +kernel

/-! ### States that meet the hypotheses: the root of trust (some under an assumption on a free value) -/

/-- A command of the trust store at 0x100000: its OP, SLOT and counter, for a module with DEVID 0. -/
def command (op slot ctr : Nat) (owner : Option Key) (slots : Vector (Option Key) 16) : State :=
  let s := idle id
  { s with
    owner := owner, slots := slots
    mem := setBytes s.mem 0x100000
      ([0x53, 0x54, 0x59, 0x4C] ++ toBytes 1 op ++ toBytes 1 slot ++ [0, 0] ++ toBytes 8 ctr) }

theorem test_boot_of_no_image (h : Config.imageBodyHash [] = 0) : imageFail 0 [] = 1 := by
  unfold imageFail
  rw [h]
  decide +kernel

theorem test_command_fits : (command 1 0 1 none (Vector.replicate 16 none)).hostUp = true ∧
    (command 1 0 1 none (Vector.replicate 16 none)).areaOk 0x100000 5421 = true := by decide +kernel

/-- A claim of an unowned module, where DEVID is 0. -/
theorem witness_BootAndTrustStore_claim (hd : Config.devid = 0) :
    let s := command 1 0 1 none (Vector.replicate 16 none)
    s.cmdReason (parseCmd (getBytes s.mem 0x100000 5421)) = 0 ∧
      (parseCmd (getBytes s.mem 0x100000 5421)).op = 1 := by
  refine ⟨?_, by decide +kernel⟩
  unfold State.cmdReason
  rw [hd]
  decide +kernel

def owner0 : Key := ⟨[], []⟩

/-- Every signature verifies. -/
theorem signed_of (h1 : ∀ k m s, Config.verifyEd25519 k m s = true) (h2 : ∀ k m s, Config.verifyMlDsa k m s = true)
    (s : State) (c : StoreCmd) (h : s.owner = some owner0) : s.ownerSigned c = true := by
  unfold State.ownerSigned
  rw [h]
  simp [Key.verifies, h1, h2]

/-- Commands of the owner, where DEVID is 0 and its signatures verify: an enrolment in slot 15, a removal, and the end
of ownership. -/
theorem witness_BootAndTrustStore_owner (hd : Config.devid = 0) (h1 : ∀ k m s, Config.verifyEd25519 k m s = true)
    (h2 : ∀ k m s, Config.verifyMlDsa k m s = true) :
    let s (op slot : Nat) := command op slot 1 (some owner0) ((Vector.replicate 16 none).set 3 (some ⟨[1], []⟩))
    let c (op slot : Nat) := parseCmd (getBytes (s op slot).mem 0x100000 5421)
    ((s 2 15).cmdReason (c 2 15) = 0 ∧ (c 2 15).op = 2) ∧ ((s 3 3).cmdReason (c 3 3) = 0 ∧ (c 3 3).op = 3) ∧
      ((s 4 0).cmdReason (c 4 0) = 0 ∧ (c 4 0).op = 4) := by
  intro s c
  have hs (op slot : Nat) : (s op slot).ownerSigned (c op slot) = true := signed_of h1 h2 _ _ rfl
  refine ⟨⟨?_, by decide +kernel⟩, ⟨?_, by decide +kernel⟩, ?_, by decide +kernel⟩
  all_goals
    unfold State.cmdReason
    rw [hs, hd]
    decide +kernel

theorem witness_BootAndTrustStore_refused :
    let s := command 7 0 1 none (Vector.replicate 16 none)
    s.cmdReason (parseCmd (getBytes s.mem 0x100000 5421)) ≠ 0 := by
  intro s
  unfold State.cmdReason
  rw [if_pos (by decide +kernel)]
  decide

theorem witness_BootAndTrustStore_boot : ({ State.reset with power := .off } : State).power = .off ∧
    (State.reset.power = .on ∧ State.reset.stage = 0) ∧ (idle id).stewardUp 0 = true ∧ (idle id).stewardUp 1 = false ∧
    (({ State.reset with stage := 15 } : State).power = .on ∧ ({ State.reset with stage := 15 } : State).stage = 15) :=
  by decide +kernel

/-- An audit log of five entries, the seal of entry 3 the last. -/
def logged (f : State → State) : State :=
  f { idle id with log := List.replicate 5 [], logNext := 5, lastSeal := 3, logSinceSeal := 1 }

theorem witness_LogAndAttestation_ring : (logged id).LogRing ∧
    (logged fun s => { s with log := List.replicate 65536 [], logNext := 65541 }).LogRing :=
  ⟨rfl, List.length_replicate⟩

theorem witness_LogAndAttestation : (logged id).stewardUp 0 = true ∧
    ((logged id).hostUp = true ∧ (logged id).logFull = false ∧ (logged id).logLost = 0) ∧
    ((logged id).brick 0).logtype.toNat < 0x8000 ∧
    0x8000 ≤ (((logged id).setBrick 0 { (logged id).brick 0 with logtype := 0x8000 }).brick 0).logtype.toNat ∧
    (logged fun s => { s with logNext := 64512 }).logFull = true ∧
    ((3 : Word).toNat ≤ (logged id).lastSeal ∧ (logged id).lastSeal < (4 : Word).toNat) ∧
    (logged fun s => { s with sealReq := true }).sealReq = true ∧
    4096 ≤ (logged fun s => { s with logSinceSeal := 4096 }).logSinceSeal ∧
    ((logged id).sealReq = false ∧ (logged id).logSinceSeal < 4096) ∧
    (logged fun s => { s with attBusy := true }).attBusy = true := by decide +kernel

/-! ### States that meet the hypotheses: links and the fleet -/

/-- A flit of a barrier, and the link of dimension 0 of brick 0 at count `g`. -/
def flit0 : Flit := sealFlit { src := 1, dest := 0, dim := 0, seq := 7, crc := 0, payload := .bar 1 0 }
def linked (g : Word) (f : Link → Link) : State :=
  let s := (idle id).setBrick 0 { (idle id).brick 0 with gbc := g }
  s.setLink 0 0 (f (s.link 0 0))

theorem witness_LinkStates_training :
    ((linked 0 id).link 0 0).state = .down ∧ ((linked 0 fun l => { l with state := .up }).link 0 0).state = .up ∧
    ((linked 0 fun l => { l with state := .training }).link 0 0).state = .training ∧
    (let u := linked 0 fun l => { l with state := .training }
     let s := u.setBrick 1 { u.brick 1 with inService := true }
     let t := s.setLink 1 0 { s.link 1 0 with state := .training }
     t.stewardUp 0 = true ∧ t.servedLink 0 0 = true ∧ t.trains (farOf 0 0) 0 = true ∧ s.trains (farOf 0 0) 0 = false) ∧
    (linked 0 id).servedLink 0 0 = false ∧ inModule 0 = true ∧
    (1 : BitVec 12).toNat = (0 : Fin 8).val ^^^ 2 ^ (0 : Fin 12).val ∧
    (2 : BitVec 12).toNat ≠ (0 : Fin 8).val ^^^ 2 ^ (0 : Fin 12).val ∧
    2 ^ 22 ≤ (((linked (2 ^ 22) fun l => { l with state := .training }).brick 0).gbc -
      ((linked (2 ^ 22) fun l => { l with state := .training }).link 0 0).trainSince).toNat ∧
    (((linked (2 ^ 22 - 1) fun l => { l with state := .training }).brick 0).gbc -
      ((linked (2 ^ 22 - 1) fun l => { l with state := .training }).link 0 0).trainSince).toNat < 2 ^ 22 := by
  decide +kernel

theorem witness_LinkStates_downing :
    ((linked 0 fun l => { l with state := .up }).link 0 0).unacked = [] ∧
    ((linked 0 fun l => { l with state := .up, unacked := [flit0] }).link 0 0).unacked ≠ [] ∧
    ((linked (2 ^ 14) fun l => { l with downing := some 0, unacked := [flit0] }).link 0 0).downing = some 0 ∧
    2 ^ 14 ≤ (((linked (2 ^ 14) fun l => { l with downing := some 0 }).brick 0).gbc - 0).toNat ∧
    2 ^ 14 ≤ (((linked (2 ^ 14) fun l => { l with state := .up }).brick 0).gbc -
      ((linked (2 ^ 14) fun l => { l with state := .up }).link 0 0).lastRx).toNat ∧
    ((linked 0 id).link 0 0).state ≠ .absent ∧ ((11 : Word).toNat % 16 < 12 ∧
      (11 : Word).toNat % 16 ≠ (0 : Fin 12).val) ∧
    ((linked 0 fun l => { l with state := .up, active := true, closing := true }).link 0 0).active = true := by
  decide +kernel

theorem witness_LinkStates_lost :
    let s := linked 0 fun l => { l with state := .failed }
    let t := s.setCtx 0 0 { s.ctx 0 0 with scmask := 1 }
    t.cutOff 0 0 = true ∧ (t.kernels.map Kernel.id).Nodup ∧ (List.finRange 12).all (fun j => !t.relayOk 0 0 j) = true ∧
      (t.ctx 0 0).run.runs = true ∧ nbit (t.ctx 0 0).scmask.toNat (0 : Fin 12).val = true ∧
      t.kernel (t.ctx 0 0).kernel = some kern ∧ (0, 0) ∈ kern.seats := by decide +kernel

/-- Every state of a link, a relay dimension that is none, a link cut off with its detour open, and one between
modules. -/
theorem witness_LinkStates_others :
    (∀ r ∈ [LinkState.absent, .down, .training, .up, .failed, .detour],
      ((linked 0 fun l => { l with state := r }).link 0 0).state = r) ∧
    (12 ≤ (12 : Word).toNat % 16 ∧ (0 : Word).toNat % 16 = (0 : Fin 12).val) ∧
    (linked 0 fun l => { l with state := .detour, active := true, via := 1 }).cutOff 0 0 = true ∧
    (let s := (idle id).setLink 0 3 { (idle id).link 0 3 with state := .failed };
      s.cutOff 0 3 = true ∧ inModule 3 = false) := by
  decide +kernel

/-- Brick 0's link up, and the other end's wire. -/
def wired (seq : BitVec 32) (w : List Flit) : State :=
  let s := linked 0 fun l => { l with state := .up, rxSeq := seq }
  s.setLink 1 0 { s.link 1 0 with wire := w }

theorem witness_LinkTraffic_receive :
    (inModule 0 = true ∧ farOf 0 0 = 1 ∧ ((wired 7 [flit0]).link 0 0).state = .up ∧
      ((wired 7 [flit0]).link 1 0).wire = flit0 :: [] ∧ flit0.dim = 0 ∧ flit0.dest.toNat = (0 : Fin 8).val) ∧
    (crcGood flit0 = true ∧ flit0.seq = ((wired 7 [flit0]).link 0 0).rxSeq ∧ flit0.payload = .bar 1 0) ∧
    ((flit0.seq - ((wired 6 [flit0]).link 0 0).rxSeq).toNat = 1 ∧
      2 ^ 31 ≤ (flit0.seq - ((wired 8 [flit0]).link 0 0).rxSeq).toNat) ∧
    ((((wired 7 [flit0]).brick 0).gbc - ((wired 7 [flit0]).link 0 0).lastRx).toNat < 2 ^ 14 ∧
      flit0.src.toNat = (farOf 0 0).val ∧ flit0.payload ≠ .keepAlive) := by decide +kernel

/-- A flit that brick 0 relays over dimension 1, a keep-alive, and a link that has been silent for 2^14 counts. -/
theorem witness_LinkTraffic_relay :
    let f := sealFlit { flit0 with dest := 3, payload := .granule 1 1 false 64 0 0 4096 5 }
    let w := wired 7 [f]
    let s := (w.setBrick 0 { w.brick 0 with
      rly := (w.brick 0).rly.set 2 { (w.brick 0).rly.get 2 with en := true, dest := 3, out := 1 } }).setLink 0 1
        { w.link 0 1 with state := .up }
    let k := sealFlit { flit0 with payload := .keepAlive }
    let late := linked (2 ^ 14) fun l => { l with state := .up }
    (f.dest.toNat ≠ (0 : Fin 8).val ∧ (s.brick 0).relay f.dest = some 1 ∧ (s.link 0 1).state = .up ∧
      (s.link 1 0).wire = f :: [] ∧ (s.link 0 0).state = .up) ∧
    (((wired 7 [k]).link 1 0).wire = k :: [] ∧ crcGood k = true ∧ k.payload = .keepAlive ∧
      k.dest.toNat = (0 : Fin 8).val) ∧
    (crcGood f = true ∧ f.payload ≠ .keepAlive) ∧ crcGood { flit0 with crc := flit0.crc + 1 } = false ∧
    ((late.link 0 0).state = .up ∧ 2 ^ 14 ≤ ((late.brick 0).gbc - (late.link 0 0).lastRx).toNat) := by decide +kernel

theorem witness_LinkTraffic_rest :
    (let l := (linked 0 fun l => { l with state := .up, askReplay := true, unacked := [flit0] }).link 0 0;
      l.state = .up ∧ l.askReplay = true ∧ l.unacked ≠ [] ∧ l.replayCount ≠ 8 ∧ l.active = false) ∧
    (let l := (linked 0 fun l => { l with
        state := .up, askReplay := true, unacked := [flit0], replayed := [(flit0.seq, 8)] }).link 0 0;
      l.state = .up ∧ l.askReplay = true ∧ l.unacked ≠ [] ∧ l.replayCount = 8) ∧
    (2 ^ 10 ≤ (((linked 1024 id).brick 0).gbc - ((linked 1024 id).link 0 0).lastTx).toNat) ∧
    ((0 : Fin 8).val < 2 ^ (2 : Fin 12).val ∧
      2 ∈ (((idle id).setBrick 0 { (idle id).brick 0 with syncOwed := [2] }).brick 0).syncOwed ∧
      2 ∉ ((idle id).brick 0).syncOwed) ∧
    (let s (g : Word) : State := (linked g id).setLink 1 0 { (idle id).link 1 0 with rx := [.sync 5], roundTrip := 10 }
      let age (g : Word) : Nat := (((s g).brick (farOf 1 0)).gbc - 5).toNat
      ((s 9).link 1 (Fin.ofNat 12 (Nat.log2 (1 : Fin 8).val))).rx = .sync 5 :: [] ∧
        ((s 9).link 1 0).roundTrip / 2 = 5 ∧ age 9 = 4 ∧ age 10 = 5 ∧ age 12 = 7) ∧
    (let s := (idle id).setBrick 1 { (idle id).brick 1 with inService := true, gbc := 2 ^ 20 };
      (s.brick 1).inService = true ∧ 2 ^ 20 ≤ ((s.brick 1).gbc - (s.brick 1).lastSync).toNat) ∧
    (let s := (idle id).setBrick 1 { (idle id).brick 1 with inService := true, gbc := 2 ^ 20 - 1 };
      (s.brick 1).inService = true ∧ ((s.brick 1).gbc - (s.brick 1).lastSync).toNat < 2 ^ 20) := by decide +kernel

/-- An acknowledgement that its link carries, and one whose link is lost. -/
theorem witness_LinkTraffic_acks :
    let s (r : LinkState) : State :=
      let u := linked 0 fun l => { l with state := r, acks := [8] }
      u.setLink 1 0 { u.link 1 0 with state := .up, unacked := [flit0] }
    (((s .up).link 0 0).acks = [8] ∧ ((s .up).link 0 0).state = .up ∧ ((s .up).link (farOf 0 0) 0).state = .up ∧
      (s .up).power ≠ .off) ∧
    ((s .failed).link 0 0).acks = [8] ∧ ((s .failed).link 0 0).state ≠ .up ∧ ((s .failed).link 0 0).active = false := by
  decide +kernel

/-- No context, no queue enabled, no scrub. -/
def resting : State := { hold Context.reset with kernels := [] }

theorem witness_FleetRegisters_power : resting.power = .on ∧ resting.atRest = true ∧ (idle id).atRest = false ∧
    ({ resting with power := .standby }.power = .standby ∧ { resting with power := .standby }.hostUp = true) ∧
    resting.hostUp = true ∧ State.reset.hostUp = false ∧ State.reset.stewardUp 0 = false := by
  decide +kernel

theorem witness_FleetRegisters_bricks :
    ((idle id).brick 0).throttle = none ∧ ((idle id).brick 0).inService = true ∧
    (((idle id).setBrick 0 { (idle id).brick 0 with throttle := some 3 }).brick 0).throttle = some 3 ∧
    2 ^ 36 ≤ (((linked (2 ^ 36) id).brick 0).gbc - ((linked (2 ^ 36) id).brick 0).lastDelta).toNat ∧
    ((linked (2 ^ 24) id).brick 0).gbc.toNat % 2 ^ 24 = 0 ∧
    ((idle id).ctx 0 0).run.over = false ∧ (idle id).kernel ((idle id).ctx 0 0).kernel = some kern ∧
    (0, 0) ∈ kern.seats := by decide +kernel

theorem witness_FleetRegisters_rest :
    (idle id).stewardUp 0 = true ∧ (idle id).flashWriting = false ∧ (4 : BitVec 20).toNat % 8 ≠ 0 ∧
    recordSize ((0x0B : Word).toNat % 256) ((0x0B : Word).toNat / 2 ^ 11 % 2 ^ 9) = none ∧
    recordSize ((0x01 : Word).toNat % 256) ((0x01 : Word).toNat / 2 ^ 11 % 2 ^ 9) = some 32 ∧
    ∀ i, i < 3 → (idle id).physOk ((idle id).winbase.toNat + (0xFFFFFFFFD : BitVec 38).toNat + i) = true := by
  decide +kernel

/-- Queues enabled and not; seats empty, restored, running, busy; the bits of DETCTL; a kernel by its number. -/
theorem witness_FleetRegisters_writes :
    let seated (r : Run) (busy armed : Bool) : State :=
      let s := idle fun c => { c with run := r }
      s.setSeat 0 0 { s.seat 0 0 with busy := busy, armedReg := armed }
    ((ringed.queue 0).en = true ∧ (resting.queue 0).en = false) ∧
    ((1 : Word).getLsbD 0 = true ∧ (0 : Word).getLsbD 0 = false) ∧
    ((0x10 : Word).getLsbD 4 = true ∧ (0x20 : Word).getLsbD 4 = false ∧ (0x20 : Word).getLsbD 5 = true ∧
      (0 : Word).getLsbD 4 = false ∧ (0 : Word).getLsbD 5 = false) ∧
    (∀ p ∈ [((1 : Word), 1), (2, 2), (3, 3), (4, 4)], p.1.toNat % 8 = p.2) ∧ (7 : Word).toNat % 8 ∉ [1, 2, 3, 4] ∧
    (((seated .empty false false).ctx 0 0).run = .empty ∧ ((seated .empty false false).seat 0 0).busy = false ∧
      (seated .empty false false).power = .on) ∧
    ((seated .running true false).seat 0 0).busy = true ∧
    (((seated .restored false false).ctx 0 0).run = .restored ∧
      ((seated .restored false false).seat 0 0).armedReg = false) ∧
    ((seated .restored false true).seat 0 0).armedReg = true ∧
    (((seated .running false false).ctx 0 0).run ≠ .empty ∧ ((seated .running false false).ctx 0 0).run ≠ .restored) ∧
    (idle id).kernel (1 : Word).toNat = some kern := by decide +kernel

/-- An image whose certificate no longer stands. -/
theorem witness_FleetRegisters_image : (idle id).certStands kern.image = false ∧
    ((idle fun c => { c with run := .empty }).ctx 0 0).run = .empty := by
  unfold State.certStands State.certFits
  decide +kernel

theorem witness_StepKeepsInvariants : (∃ t, step (State.reset.withFetchWord 44 0x80000000) = .next t) ∧
    (∃ t, step (plain 0) = .next t) ∧ (plain 0).CapInRange :=
  ⟨⟨_, rfl⟩, ⟨_, rfl⟩, by unfold State.CapInRange; decide +kernel⟩

theorem witness_AuditLogOnlyGrows : ∃ t, step { logged id with agenda := [.sealreq] } = .next t := ⟨_, rfl⟩

/-! ### States that meet the hypotheses: contexts and launch records -/

theorem witness_ContextCommands_states :
    ((idle id).power = .on ∧ ((idle id).ctx 0 0).run = .running) ∧
    (((idle fun c => { c with run := .stopped }).ctx 0 0).run = .stopped ∧ (0 : Word).getLsbD 32 = false ∧
      ((idle fun c => { c with run := .stopped }).seat 0 0).busy = false) ∧
    ((idle fun c => { c with run := .service 0 }).ctx 0 0).run = .service 0 ∧
    ((idle fun c => { c with run := .saved 7 }).ctx 0 0).run = .saved 7 ∧ (idle id).stewardUp 0 = true ∧
    ((idle fun c => { c with run := .restored }).ctx 0 0).run = .restored := by decide +kernel

/-- A target withdrawn while the brick's table is bad, or good; and a command while one runs. -/
theorem witness_ContextCommands_target :
    let s (r : Run) (bad : Bool) : State :=
      let u := idle fun c => { c with run := r }
      u.setBrick 0 { u.brick 0 with tableBad := bad }
    (((s .stopped true).ctx 0 0).run = .stopped ∧ ((s .stopped true).brick 0).tableBad = true) ∧
    (((s (.saved 7) true).ctx 0 0).run = .saved 7 ∧ ((s (.saved 7) true).brick 0).tableBad = true) ∧
    (((s (.saved 7) false).ctx 0 0).run = .saved 7 ∧ ((s (.saved 7) false).brick 0).tableBad = false) ∧
    (((idle id).setSeat 0 0 { (idle id).seat 0 0 with busy := true }).seat 0 0).busy = true := by decide +kernel

/-- Contexts of the current generation, and of one that has passed: stopped with a record, stopped without, and saved.
-/
theorem witness_ContextCommands_generations :
    let s (r : Run) (rec : Bool) (gen : BitVec 16) : State :=
      let u := idle fun c => { c with run := r, recorded := rec }
      u.setBrick 0 { u.brick 0 with gens := [(0, gen)] }
    let current (x : State) : Prop := ((x.brick 0).genOf (x.ctx 0 0).asid).toNat = (x.ctx 0 0).gen
    (current (s .stopped true 1) ∧ current (s (.saved 7) true 1)) ∧
    (¬current (s .stopped true 2) ∧ ((s .stopped true 2).ctx 0 0).run = .stopped ∧
      ((s .stopped true 2).ctx 0 0).recorded = true) ∧
    (¬current (s .stopped false 2) ∧ ((s .stopped false 2).ctx 0 0).recorded = false) ∧
    ¬current (s (.saved 7) true 2) ∧ ((s (.saved 7) true 2).ctx 0 0).run = .saved 7 := by decide +kernel

/-- A restored task committed for count 100 and its sibling: restored for that count, resumed from it, for another
count, never restored, or ended. -/
theorem witness_ContextCommands_together :
    let s (f : Context → Context) : State :=
      let u := (paired .restored .running).setCtx 0 0 { (paired .restored .running).ctx 0 0 with gbcs := 100 }
      let v := u.setCtx 0 1 (f (u.ctx 0 1))
      (v.setSeat 0 0 { v.seat 0 0 with armedReg := true, committed := true }).setSeat 0 1
        { v.seat 0 1 with armedReg := true, committed := true }
    (s fun c => { c with run := .restored, gbcs := 100 }).togetherAt 1 100 = true ∧
    (s fun c => { c with resumedAt := some 100 }).togetherAt 1 100 = true ∧
    (s fun c => { c with run := .restored, gbcs := 101 }).togetherAt 1 100 = false ∧
    (s id).togetherAt 1 100 = false ∧ (s fun c => { c with run := .saving false 0 none }).togetherAt 1 100 = false ∧
    { s id with kernels := [{ kern with seats := [(0, 0), (0, 1)], reports := [(1,
      [])] }] }.togetherAt 1 100 = true := by
  decide +kernel

/-- A stopped task of a kernel of two, none of which has reported. -/
theorem witness_ContextCommands_release :
    let s := paired .stopped .running
    let k := { kern with seats := [(0, 0), (0, 1)] }
    let old := s.setBrick 0 { s.brick 0 with gens := [(0, 2)] }
    ((s.seat 0 0).busy = false ∧ (s.ctx 0 0).run = .stopped ∧ s.kernel (s.ctx 0 0).kernel = some k ∧
      k.lapsed = false) ∧
    ((old.ctx 0 0).run = .stopped ∧ ((old.brick 0).genOf (old.ctx 0 0).asid).toNat ≠ (old.ctx 0 0).gen ∧
      old.kernel (old.ctx 0 0).kernel = some k) ∧
    ((paired .running .running).ctx 0 0).run = .running := by decide +kernel

/-- A save that drains: nothing outstanding, or a copy still in flight; captured or not; its area bad or not. -/
def saving (n : Word) (o : List Op) (captured bad : Bool) (trap : Option Word := none) : State :=
  let s := idle fun c => { c with run := .saving true 0 trap, cbc := 9, ops := o, fbud := 5 }
  let t := s.setSeat 0 0 { s.seat 0 0 with
    busy := true, area := 0x1000000, saveTo := 0x1000000, captured := captured, areaErr := bad }
  t.setBrick 0 { t.brick 0 with gbc := n }

/-- An area in the low memory of brick 0. -/
theorem areaOk_low {s : State} {a n : Nat} (hb : (s.brick 0).inService = true) (hn : 0 < n)
    (h : a + n ≤ 0x1000000000) : s.areaOk a n = true := by
  have hp : ∀ x, x < 0x1000000000 → s.physOk x = true := by
    intro x hx
    have h0 : x / 2 ^ 40 = 0 := by omega
    have hm : x % 2 ^ 40 < 0x10_0000_0000 := by omega
    unfold State.physOk
    simp only [h0]
    rw [dif_pos (by omega)]
    show ((s.brick 0).inService && _) = true
    rw [hb, Bool.true_and, Bool.or_eq_true]
    exact .inl (decide_eq_true hm)
  unfold State.areaOk
  rw [Bool.and_eq_true, List.all_eq_true]
  constructor
  · intro i hi
    have hi' := List.mem_range.mp hi
    unfold cdiv at hi'
    exact hp _ (by omega)
  · unfold homeOf
    rw [beq_iff_eq]
    omega

theorem length_toBytes : ∀ n v, (toBytes n v).length = n
  | 0, _ => rfl
  | n + 1, v => by simp [toBytes, length_toBytes n]

theorem length_flatMap_eq {α : Type} (n : Nat) (f : α → List Byte) : ∀ l : List α,
    (∀ x ∈ l, (f x).length = n) → (l.flatMap f).length = n * l.length
  | [], _ => rfl
  | a :: l, h => by
    rw [List.flatMap_cons, List.length_append, h a (by simp), length_flatMap_eq n f l fun x m => h x (by simp [m]),
      List.length_cons, Nat.mul_succ, Nat.add_comm]

/-- The length of the REGS section (22 R407) for a share of `n` tile slots. -/
theorem length_regsBytes (c : Context) : c.regsBytes.length = 137592 + 4 * c.tileShare := by
  have ht : ∀ t : Token, t.bytes.length = 2 := fun t => by cases t <;> rfl
  simp only [Context.regsBytes, le, List.length_append, length_toBytes]
  simp (discharger := simp [length_toBytes, ht]) only
    [length_flatMap_eq 8, length_flatMap_eq 2048, length_flatMap_eq 64, length_flatMap_eq 24, length_flatMap_eq 2,
    length_flatMap_eq 256, length_flatMap_eq 16, length_flatMap_eq 4]
  simp

/-- The length of a heavy save record with nothing in flight and no bank or table. -/
theorem size_record (c : Context) (n : Nat) (h : c.held = [] ∧ c.tables = [] ∧ c.cmds = [] ∧ c.lset = [] ∧
    c.ops = []) : (c.record true n).2 = (layout 4096 [137592 + 4 * c.tileShare, 0, 0, c.spadShare, 520, 0]).2 := by
  obtain ⟨h1, h2, h3, h4, h5⟩ := h
  have hb : c.banksBytes.length = 0 := by rw [Context.banksBytes, h1]; rfl
  have ht : c.tablesBytes.length = 0 := by rw [Context.tablesBytes, h2]; rfl
  have hl : (c.landsetBytes n).length = 520 := by
    simp [Context.landsetBytes, h3, h4, le, length_toBytes]
  have ho : c.sqheldBytes.length = 0 := by simp [Context.sqheldBytes, Context.heldOps, h5, sortBy]
  simp only [Context.record, length_regsBytes, hb, ht, ho, if_true, hl]

theorem witness_ContextCommands_save :
    let ok := saving 4 [] true false
    let late := saving 5 [Op.blank 1 .cpld 3 4 1] false false
    (((saving 3 [] false false).ctx 0 0).run = .saving true 0 none ∧
      ((saving 3 [] false false).ctx 0 0).drained = true ∧
      ((saving 3 [] false false).seat 0 0).captured = false) ∧
    ((ok.ctx 0 0).run = .saving true 0 none ∧ (ok.seat 0 0).captured = true ∧ (ok.seat 0 0).areaErr = false) ∧
    ok.areaOk (ok.seat 0 0).saveTo.toNat ((ok.ctx 0 0).record true ok.freeCtr).2 = true ∧
    ((saving 4 [] true true).seat 0 0).areaErr = true ∧
    ((late.ctx 0 0).drained = false ∧ (late.seat 0 0).captured = false ∧
      (late.ctx 0 0).budget ≤ ((late.brick 0).gbc - 0).toNat) := by
  refine ⟨by decide +kernel, by decide +kernel, ?_, by decide +kernel, by decide +kernel⟩
  rw [size_record _ _ (by decide +kernel)]
  exact areaOk_low (by decide +kernel) (by decide +kernel) (by decide +kernel)

/-- The same of a context in trap service, and of one that is saved anew. -/
theorem witness_ContextCommands_save_in_service :
    let ok := saving 4 [] true false (some 2)
    let again := ok.setSeat 0 0 { ok.seat 0 0 with resaved := some 7 }
    let late := saving 5 [Op.blank 1 .cpld 3 4 1] false false (some 2)
    ((ok.ctx 0 0).run = .saving true 0 (some 2) ∧ (ok.seat 0 0).captured = true ∧ (ok.seat 0 0).areaErr = false ∧
      (ok.seat 0 0).resaved = none) ∧
    ((again.ctx 0 0).run = .saving true 0 (some 2) ∧ (again.seat 0 0).resaved = some 7) ∧
    ok.areaOk (ok.seat 0 0).saveTo.toNat ((ok.ctx 0 0).record true ok.freeCtr).2 = true ∧
    (((saving 4 [] true true (some 2)).ctx 0 0).run = .saving true 0 (some 2) ∧
      ((saving 4 [] true true (some 2)).seat 0 0).areaErr = true) ∧
    ((late.ctx 0 0).run = .saving true 0 (some 2) ∧ (late.seat 0 0).captured = false ∧
      (late.ctx 0 0).budget ≤ ((late.brick 0).gbc - 0).toNat) := by
  refine ⟨by decide +kernel, by decide +kernel, ?_, by decide +kernel, by decide +kernel⟩
  rw [size_record _ _ (by decide +kernel)]
  exact areaOk_low (by decide +kernel) (by decide +kernel) (by decide +kernel)

/-- A context whose record may be taken: its scratchpad canonical, with nothing beyond the share. -/
theorem witness_ContextCommands_record : Memory.wf ([] : List Host.Cell) = true ∧ Memory.wf ctx0.spad = true ∧
    (∀ x, ctx0.spadShare ≤ x → getB ctx0.spad x = 0) ∧ ctx0.sq.length ≤ 16 ∧
    [(0, 0), (0, 0), (0, 0), (0, 0), (0, 0), ((0 : Nat), (0 : Nat))].length = 6 :=
  ⟨by decide, by decide, fun _ _ => rfl, by decide, rfl⟩

/-- An area that is no memory, and one that meets an uncorrectable error. -/
theorem witness_ContextCommands_area :
    (idle id).physOk (0xF000000000000 : BitVec 52).toNat = false ∧
    (((idle id).setSeat 0 0 { (idle id).seat 0 0 with areaErr := true }).seat 0 0).areaErr = true := by decide +kernel

/-- A field of bytes read from memory is the number there. -/
theorem drop_getBytes (m : List Host.Cell) : ∀ o a n, (getBytes m a n).drop o = getBytes m (a + o) (n - o)
  | 0, _, _ => rfl
  | o + 1, a, 0 => by rw [Nat.zero_sub]; rfl
  | o + 1, a, n + 1 => by
    rw [getBytes, List.drop_succ_cons, drop_getBytes m o (a + 1) n]
    congr 1 <;> omega

theorem take_getBytes (m : List Host.Cell) : ∀ k a n, k ≤ n → (getBytes m a n).take k = getBytes m a k
  | 0, _, _, _ => rfl
  | k + 1, a, 0, h => absurd h (by omega)
  | k + 1, a, n + 1, h => by
    rw [getBytes, getBytes, List.take_succ_cons, take_getBytes m k (a + 1) n (by omega)]

theorem fieldAt_getBytes {m : List Host.Cell} {a n o k : Nat} (h : o + k ≤ n) :
    fieldAt (getBytes m a n) o k = getN m (a + o) k := by
  rw [fieldAt, drop_getBytes, take_getBytes _ _ _ _ (by omega)]
  rfl

/-- A light save record at 0x1000000, of a context of generation 1 saved by a part of stepping 5. -/
def recorded (r : Run) : State :=
  let s := idle fun c => { c with run := r }
  { s with
    mem := setBytes s.mem 0x1000000
      ([0x58, 0x43, 0x59, 0x4C, 1, 0, 0, 0, 5, 0, 0, 0] ++ List.replicate 50 0 ++ [1, 0] ++ List.replicate 144 0 ++
        toBytes 4 4096 ++ toBytes 4 145784 ++ List.replicate 16 0 ++ toBytes 4 0x100000 ++ toBytes 4 (2 ^ 27)) }

/-- Its sections hold what they should. -/
theorem recorded_sections (s : State) (hm : s.mem = (recorded .empty).mem) :
    s.recSectsOk 0x1000000 (getBytes s.mem 0x1000000 256) = true := by
  unfold State.recSectsOk State.recSec heldOk
  rw [hm]
  rw [show recSect (getBytes (recorded .empty).mem 0x1000000 256) 0 = (4096, 145784) from by decide +kernel,
    show recSect (getBytes (recorded .empty).mem 0x1000000 256) 1 = (0, 0) from by decide +kernel,
    show recSect (getBytes (recorded .empty).mem 0x1000000 256) 2 = (0, 0) from by decide +kernel,
    show recSect (getBytes (recorded .empty).mem 0x1000000 256) 4 = (0, 0) from by decide +kernel,
    show recSect (getBytes (recorded .empty).mem 0x1000000 256) 5 = (0, 0) from by decide +kernel]
  have ht : ((List.range 32).all fun k =>
      decide (fieldAt (getBytes (recorded .empty).mem (0x1000000 + (4096, 145784).1) (4096, 145784).2)
        (132736 + 2 * k) 1 ≤ 3)) = true := by
    rw [List.all_eq_true]
    intro k hk
    rw [fieldAt_getBytes (by have := List.mem_range.mp hk; show 132736 + 2 * k + 1 ≤ 145784; omega)]
    revert k
    rw [← List.all_eq_true (p := fun k =>
      decide (getN (recorded .empty).mem (0x1000000 + 4096 + (132736 + 2 * k)) 1 ≤ 3))]
    decide +kernel
  rw [ht, fieldAt_getBytes (o := 133488) (k := 8) (by decide)]
  decide +kernel

theorem recorded_area (s : State) (hm : s.mem = (recorded .empty).mem) (hb : (s.brick 0).inService = true) :
    s.areaOk 0x1000000 (recEnd (getBytes s.mem 0x1000000 256)) = true := by
  rw [hm, show recEnd (getBytes (recorded .empty).mem 0x1000000 256) = 0x100000 + 2 ^ 27 from by decide +kernel]
  exact areaOk_low hb (by decide) (by decide)

/-- A record that is restored; one over a context that runs; and those that another share, a quarter that is not clean
and a generation that has passed refuse. -/
theorem witness_ContextCommands_restore (h : Config.stepping = 5) :
    let s := recorded .empty
    let err (s : State) : Nat := s.restoreErr 0 0 (getBytes s.mem 0x1000000 256) 0x1000000
    s.physOk 0x1000000 = true ∧ ((s.seat 0 0).busy = false ∧ (s.seat 0 0).areaErr = false) ∧ err s = 0 ∧
    err (recorded .running) = 8 ∧ err (s.setCtx 0 0 { s.ctx 0 0 with seatf := 1 }) = 5 ∧
    err (s.setBrick 0 { s.brick 0 with quarters := Vector.replicate 4 .dirty }) = 6 ∧
    err (s.setBrick 0 { s.brick 0 with gens := [(0, 2)] }) = 7 := by
  refine ⟨by decide +kernel, by decide +kernel, ?_, ?_, ?_, ?_, ?_⟩
  · show State.restoreErr _ _ _ _ _ = _
    unfold State.restoreErr
    rw [recorded_sections, recorded_area, h] <;> decide +kernel
  · show State.restoreErr _ _ _ _ _ = _
    unfold State.restoreErr
    rw [if_pos (by decide +kernel)]
  · show State.restoreErr _ _ _ _ _ = _
    unfold State.restoreErr
    rw [recorded_sections, recorded_area, h] <;> decide +kernel
  · show State.restoreErr _ _ _ _ _ = _
    unfold State.restoreErr
    rw [recorded_sections, recorded_area, h] <;> decide +kernel
  · show State.restoreErr _ _ _ _ _ = _
    unfold State.restoreErr
    rw [recorded_sections, recorded_area, h] <;> decide +kernel

/-- What the round trip through a record asks, of a context with a group of banks, a table and a held push. -/
theorem witness_ContextCommands_round_trip :
    let c := { ctx0 with held := [(8, 2)], tags := [(3, 7)], tables := [(5, act0)], pin := some (96, 4)
                         redir0 := some 48, ops := [{ Op.blank 1 .cpsq 3 0 0 with performed := [0, 1, 2, 3] }] }
    (Memory.wf ([] : List Host.Cell) = true ∧ Memory.wf c.spad = true ∧ c.frac = ctx0.frac ∧ c.frac ≤ 2 ∧
      c.pc < 2 ^ 64 ∧
      c.cbc < 2 ^ 64 ∧ c.qiCount < 2 ^ 32 ∧ c.sp < 2 ^ 64 ∧ c.sq.length ≤ 16) ∧
    (∀ x, c.spadShare ≤ x → getB c.spad x = 0) ∧ (∀ w, c.redir0 = some w ∨ c.redir1 = some w → w.toNat < 2 ^ 63) ∧
    (∀ p, c.pin = some p → p.1 < 2 ^ 32 ∧ 0 < p.2 ∧ p.2 < 512) ∧
    (mapWf (0 : BitVec 32) c.tags = true ∧ (∀ e ∈ c.tags, e.1 < c.tileShare) ∧
      (∀ g ∈ c.held, g.2 ∈ [1, 2, 4, 8] ∧ g.1 + g.2 ≤ c.bankShare) ∧
      c.held.Pairwise (fun x y => x.1 + x.2 ≤ y.1 ∨ y.1 + y.2 ≤ x.1) ∧ (c.tables.map Prod.fst).Nodup ∧
      (∀ t ∈ c.tables, t.1 < c.tableShare) ∧ c.ops.length < 2 ^ 10) := by
  refine ⟨by decide +kernel, fun _ _ => rfl, ?_, ?_, by decide +kernel⟩
  · rintro w (h | h) <;> cases h
    decide
  · intro p h
    cases h
    decide

/-- The same record on a part of another stepping. -/
theorem witness_ContextCommands_stepping (h : Config.stepping = 6) :
    let s := recorded .empty
    s.restoreErr 0 0 (getBytes s.mem 0x1000000 256) 0x1000000 = 4 ∧
      ofBytes (((getBytes s.mem 0x1000000 256).drop 8).take 4) ≠ Config.stepping.toNat ∧
      s.kernel (s.ctx 0 0).kernel = some kern := by
  intro s
  refine ⟨?_, ?_, by decide +kernel⟩
  · unfold State.restoreErr
    rw [h, if_neg (by decide +kernel), if_pos (by decide +kernel)]
  · rw [h]
    decide +kernel

theorem witness_ContextCommands_resume :
    ∀ svc ∈ [none, some (5 : Word)],
    let s := idle fun c => { c with run := .restored, restoring := some (3, svc), cbc := 7, gbcs := 100 }
    (((s.brick 0).genOf (s.ctx 0 0).asid).toNat = (s.ctx 0 0).gen ∧ (s.seat 0 0).armedReg = false) ∧
    let t := (s.setSeat 0 0 { s.seat 0 0 with armedReg := true, committed := true }).setBrick 0
      { (s.setSeat 0 0 { s.seat 0 0 with armedReg := true, committed := true }).brick 0 with gbc := 100 }
    let c := t.ctx 0 0
    (t.power = .on ∧ t.stewardUp 0 = true ∧ t.togetherAt c.kernel c.gbcs = true ∧ (t.brick 0).tableBad = false ∧
      c.restoring = some (3, svc) ∧ c.run = .restored ∧ (t.seat 0 0).armedReg = true ∧
      (t.seat 0 0).committed = true) ∧
    ((t.brick 0).inService = true ∧ (t.brick 0).cycleNow = true ∧ (t.brick 0).owns 0 = true ∧
      c.gbcs.toNat ≤ (t.brick 0).gbc.toNat ∧
      (BitVec.ofNat 64 c.cbc + 3 - c.slipOffset).toNat * 2 ^ c.frac < 2 ^ 64) := by
  intro svc h
  have hs : svc = none ∨ svc = some 5 := by simpa using h
  rcases hs with rfl | rfl <;> decide +kernel

/-- A launch record by its fields: the image at 0x2000, the report at 0x4000. -/
def record (imageLen flags reportLen : Nat) : List Byte :=
  toBytes 8 0x2000 ++ toBytes 4 imageLen ++ toBytes 4 flags ++ List.replicate 80 0 ++ toBytes 8 0x4000 ++
    toBytes 4 reportLen ++ List.replicate 148 0

/-- Queue 0 enabled with a ring of 16 at 0x1000 whose record 0 is `l`; `img` at 0x2000; no context in the brick. -/
def queued (l img : List Byte) : State :=
  let s := resting.setQueue 0 { resting.queue 0 with
    log2n := 4, en := true, lbase := 0x1000, tail := 1, alloc := 0x180401 }
  { s with mem := setBytes (setBytes s.mem 0x1000 l) 0x2000 img }

theorem witness_LaunchRecords_form :
    ((queued (record 64 0 64) []).canTake 0 = true ∧
      (queued (record 64 0 64) []).vread 0 (0x1000 + 256 * (0 % 2 ^ 4)) 256 = some (record 64 0 64) ∧
      (queued (record 64 0 64) []).logFull = false ∧ recOk (record 64 0 64) = true) ∧
    { queued (record 64 0 64) [] with logNext := 64512 }.logFull = true ∧
    (recOk (record 64 0 63) = false ∧
      (queued (record 64 0 63) []).vread 0 (0x1000 + 256 * (0 % 2 ^ 4)) 256 = some (record 64 0 63)) ∧
    (((queued (record 64 0 64) []).setQueue 0 { (queued (record 64 0 64) []).queue 0 with stale := 1 }).queue 0).stale
      ≠ 0 := by decide +kernel

theorem witness_LaunchRecords_image :
    let s := queued (record 64 0 64) []
    (s.astEntry 0 = some (0x8000, 1) ∧ (s.vread 0 0x2000 64 = some (List.replicate 64 0)) ∧
      (s.vruns 0 0x4000 64 false true).isSome = true ∧ (s.queue 0).stale = 0 ∧
      (parseImage (List.replicate 64 0)).isNone = true) := by decide +kernel

/-- The header and directory of an image with one bundle of text, and a certificate (19 R369, 20 R376). -/
def header0 : List Byte :=
  [0x49, 0x4B, 0x59, 0x4C, 1, 0, 2, 0] ++ toBytes 4 0 ++ toBytes 4 1 ++ List.replicate 48 0 ++
    [1, 96, 48, 0].flatMap (toBytes 4) ++ [7, 144, 3557, 0].flatMap (toBytes 4)

/-- The SHA-384 digests (FIPS 180-4) of 48 zero bytes and of `header0`, as the certificate stores them. -/
def textHash : Nat := 0xa7f8f6fa4edfc92851d583678fbe2df7aafddf585ae2fac9fe20a26bd971b991ea0e401ce422be706bad68035c140d8f
def restHash : Nat := 0x588d852f1852bb39caa19b9e462c64a8b8cc16f7ea60d4e64e26f6a9dc9ed3b47e90831fc3e571dc15f98d67170b0609

theorem test_sha384 : (sha384 (List.replicate 48 0)).toNat = textHash ∧ (sha384 header0).toNat = restHash ∧
    (Key.id ⟨[], []⟩) = 0x3896ac51a760b038 := by decide +kernel

/-- A certificate for stepping 5, named by the key with no bytes. -/
def cert0 : List Byte :=
  toBytes 4 0x4C595843 ++ [1, 0, 0, 0, 5, 0, 0, 0, 0, 0, 0, 0] ++ toBytes 48 textHash ++ toBytes 48 restHash ++
    List.replicate 48 0 ++ toBytes 8 0x3896ac51a760b038 ++ List.replicate 3389 0

def file0 : List Byte := header0 ++ List.replicate 48 0 ++ cert0

/-- Memory with the bytes `l` placed at `a`. -/
def placed (s : State) (a : Nat) (l : List Byte) : State := { s with mem := setBytes s.mem a l }

theorem getBytes_outside (m : List Host.Cell) (a : Nat) (l : List Byte) (hw : Memory.wf m = true) :
    ∀ n x, x + n ≤ a ∨ a + l.length ≤ x → getBytes (setBytes m a l) x n = getBytes m x n
  | 0, _, _ => rfl
  | n + 1, x, h => by
    rw [getBytes, getBytes, getB_setBytes_outside l m a x hw (by omega),
      getBytes_outside m a l hw n (x + 1) (by omega)]

theorem pte_placed {s : State} {a x : Nat} {l : List Byte} (hw : Memory.wf s.mem = true)
    (h : x + 8 ≤ a ∨ a + l.length ≤ x) : (placed s a l).pte x = s.pte x := by
  show (if s.physOk x then ofBytes (getBytes (setBytes s.mem a l) x 8) else 0) = _
  rw [getBytes_outside s.mem a l hw 8 x h]
  rfl

theorem astEntry_placed {s : State} {a : Nat} {l : List Byte} (hw : Memory.wf s.mem = true) (hb : s.astbase = 0)
    (h : 16 ≤ a) : (placed s a l).astEntry 0 = s.astEntry 0 := by
  have h0 : (placed s a l).astbase = 0 := hb
  unfold State.astEntry
  simp only [hb, h0]
  rw [show (0 : BitVec 52).toNat + 16 * 0 = 0 from rfl, pte_placed hw (by omega), pte_placed hw (by omega)]

/-- A page under the leaf of `tables0` is found whatever is placed elsewhere. -/
theorem walk_placed {s : State} {a va : Nat} {l : List Byte} (hw : Memory.wf s.mem = true) (hb : s.astbase = 0)
    (h : 16 ≤ a ∧ a + l.length ≤ 0x8000) (he : s.astEntry 0 = some (0x8000, 1)) (h1 : s.pte 0x8000 = 0x10001)
    (h2 : s.pte 0x10000 = 0x0F) (hv : va < 2 ^ 31) : (placed s a l).walk 0 va = some (leafOf 0x0F 0x8000_0000) := by
  unfold State.walk
  rw [astEntry_placed hw hb h.1, he]
  have i1 : nbits va 40 12 = 0 := by simp only [nbits]; omega
  have i2 : nbits va 31 9 = 0 := by simp only [nbits]; omega
  simp only [i1, Nat.mul_zero, Nat.add_zero]
  rw [pte_placed hw (by omega), h1]
  rw [show pteOk 0x10001 false 4096 false = true from by decide]
  simp only [if_true]
  unfold State.walk2
  simp only [i2, Nat.mul_zero, Nat.add_zero]
  rw [show ptePa 0x10001 = 0x10000 from by decide, pte_placed hw (by omega), h2]
  rfl

/-- A span of one page is found at its own address. -/
theorem vruns_placed {s : State} {a va n : Nat} {l : List Byte} (rd wr : Bool) (hw : Memory.wf s.mem = true)
    (hb : s.astbase = 0) (h : 16 ≤ a ∧ a + l.length ≤ 0x8000) (he : s.astEntry 0 = some (0x8000, 1))
    (h1 : s.pte 0x8000 = 0x10001) (h2 : s.pte 0x10000 = 0x0F) (hv : va < 2 ^ 31)
    (hn : 0 < n ∧ va % 4096 + n ≤ 4096) (ht : (s.brick 0).tlb = [])
    (hp : s.physOk va = true ∧ s.genOk va 0 1 = true) :
    (placed s a l).vruns 0 va n rd wr = some [(va, n)] := by
  have hq : pageRuns (n / 4096 + 2) va n = [(va, n)] := by
    obtain ⟨m, rfl⟩ : ∃ m, n = m + 1 := ⟨n - 1, by omega⟩
    rw [pageRuns.eq_3 _ _ _ (by omega), Nat.min_eq_left (by omega), Nat.sub_self]
    cases h : (m + 1) / 4096 <;> rfl
  have htr : (placed s a l).translate 0 0 1 va rd wr = some va := by
    have htl : (placed s a l).tlbHit 0 0 1 va = none := by
      show (match (s.brick 0).tlb.find? _ with | some e => some _ | none => none) = none
      rw [ht]
      rfl
    unfold State.translate
    rw [htl, walk_placed hw hb h he h1 h2 hv]
    have hm : (leafOf 0x0F 0x8000_0000).base + va % (leafOf 0x0F 0x8000_0000).size = va := by
      show 0 + va % 0x8000_0000 = va
      omega
    have hph : (placed s a l).physOk va = true := hp.1
    simp only [hm, hph]
    cases rd <;> cases wr <;> rfl
  unfold State.vruns
  rw [astEntry_placed hw hb h.1, he]
  have hg : (placed s a l).genOk va 0 1 = true := hp.2
  simp only [State.runsAt, hq, List.mapM_cons, List.mapM_nil, htr, hg]
  rw [if_pos (by simp; omega)]
  rfl

theorem vread_placed {s : State} {a va n : Nat} {l : List Byte}
    (h : (placed s a l).vruns 0 va n true false = some [(va, n)]) :
    (placed s a l).vread 0 va n = some (getBytes (setBytes s.mem a l) va n) := by
  unfold State.vread
  rw [h]
  simp [placed]

/-- The module with the record of `file0`, its signer enrolled in slot 0. -/
def unloaded : State :=
  { queued (record 3701 0 64) [] with slots := (Vector.replicate 16 none).set 0 (some ⟨[], []⟩) }

/-- The same with the image. -/
def launching : State := placed unloaded 0x2000 file0

/-- The image of `file0`, and its directory. -/
def parsed : Image × List Sect := (parseImage file0).getD (image0, [])

theorem witness_LaunchRecords_parsed : launching.canTake 0 = true ∧
    launching.vread 0 0x1000 256 = some (record 3701 0 64) ∧ launching.logFull = false ∧
    recOk (record 3701 0 64) = true ∧ launching.astEntry 0 = some (0x8000, 1) ∧
    launching.vread 0 0x2000 3701 = some file0 ∧ launching.vruns 0 0x4000 64 false true = some [(0x4000, 64)] ∧
    (launching.queue 0).stale = 0 ∧ (parseImage file0).isSome = true := by
  have hw : Memory.wf unloaded.mem = true := by decide +kernel
  have hl : file0.length = 3701 := by decide +kernel
  have hr (va n : Nat) (rd wr : Bool) (hv : va < 2 ^ 31) (hn : 0 < n ∧ va % 4096 + n ≤ 4096)
      (hp : unloaded.physOk va = true ∧ unloaded.genOk va 0 1 = true) :
      launching.vruns 0 va n rd wr = some [(va, n)] :=
    vruns_placed rd wr hw (by decide +kernel) (by rw [hl]; omega) (by decide +kernel) (by decide +kernel)
      (by decide +kernel) hv hn (by decide +kernel) hp
  refine ⟨by decide +kernel, ?_, by decide +kernel, by decide +kernel, ?_, ?_, ?_, by decide +kernel, by decide +kernel⟩
  · exact (vread_placed (hr 0x1000 256 _ _ (by omega) (by omega) (by decide +kernel))).trans
      (by rw [getBytes_outside _ _ _ hw _ _ (by omega)]; decide +kernel)
  · rw [launching, astEntry_placed hw (by decide +kernel) (by omega)]
    decide +kernel
  · have := getBytes_setBytes file0 unloaded.mem 0x2000 hw
    rw [hl] at this
    exact (vread_placed (hr 0x2000 3701 _ _ (by omega) (by omega) (by decide +kernel))).trans (congrArg some this)
  · exact hr 0x4000 64 _ _ (by omega) (by omega) (by decide +kernel)

/-- The certificate of `file0` stands on a part of stepping 5 whose keys verify it, and falls with no signer enrolled.
-/
theorem witness_LaunchRecords_certified (hd : Config.stepping = 5) (h1 : ∀ k m s, Config.verifyEd25519 k m s = true)
    (h2 : ∀ k m s, Config.verifyMlDsa k m s = true) : launching.certOk file0 parsed.1 parsed.2 = true := by
  have hv (k : Key) (m a b : List Byte) : k.verifies m a b = true := by
    rw [Key.verifies, h1, h2]
    rfl
  simp only [State.certOk, State.certFits, hd, hv]
  decide +kernel

/-- It stands at a later load of the image too. -/
theorem witness_LaunchRecords_stands (hd : Config.stepping = 5) (h1 : ∀ k m s, Config.verifyEd25519 k m s = true)
    (h2 : ∀ k m s, Config.verifyMlDsa k m s = true) : launching.certStands parsed.1 = true := by
  have hv (k : Key) (m a b : List Byte) : k.verifies m a b = true := by
    rw [Key.verifies, h1, h2]
    rfl
  simp only [State.certStands, State.certFits, hd, hv]
  decide +kernel

theorem witness_LaunchRecords_uncertified :
    { launching with slots := Vector.replicate 16 none }.certOk file0 parsed.1 parsed.2 = false := by
  unfold State.certOk
  cases sectBytes file0 parsed.2 7 with
  | none => rfl
  | some c =>
    show (_ && false) = false
    rw [Bool.and_false]

/-- Brick 0 of `launching` with every quarter dirty. -/
def quartered_bricks : Vector Brick 8 :=
  launching.bricks.set 0 { launching.brick 0 with quarters := Vector.replicate 4 .dirty }

/-- The placement, found and scrubbed, found and not scrubbed, and not found. -/
theorem witness_LaunchRecords_placed : (launching.place 0 parsed.1 (parseRec (record 3701 0 64))).any
      (launching.scrubbed parsed.1) = true ∧ (parseRec (record 3701 0 64)).nparam = parsed.1.nparam ∧
    ({ launching with bricks := quartered_bricks }.place 0 parsed.1 (parseRec (record 3701 0 64))).any
      (fun p => !{ launching with bricks := quartered_bricks }.scrubbed parsed.1 p) = true ∧
    ((launching.setQueue 0 { launching.queue 0 with alloc := 0 }).place 0 parsed.1 (parseRec (record 3701 0 64))).isNone
      = true ∧
    (parseRec (record 3701 2 64)).nowait = true ∧ (parseRec (record 3701 4 64)).fixed = true ∧
    64 ≤ (parseRec (record 3701 0 64)).reportLen ∧ (parsed.2.any fun e => e.type == 7) = true := by decide +kernel

/-- What the statement on images asks of a file of text and certificate, and of a directory. -/
theorem witness_LaunchRecords_file :
    let n (o w : Nat) : Nat := fieldAt file0 o w
    let sect (i : Nat) : Sect := ⟨n (64 + 16 * i) 4, n (68 + 16 * i) 4, n (72 + 16 * i) 4⟩
    (64 + 16 * n 6 2 ≤ file0.length ∧ n 0 4 = 0x4C59_4B49 ∧ n 4 2 = 1 ∧ n 6 2 = 2 ∧ n 19 13 = 0 ∧ n 17 1 = 0 ∧
      n 16 1 ≤ 2 ∧ n 12 4 ≠ 0 ∧
      (List.range 32).all (fun i => ((file0.drop 32).take 32).getD i 0 == 0) = true) ∧
    (∀ i ∈ [0, 1], n (76 + 16 * i) 4 = 0 ∧ (sect i).off % 8 = 0 ∧ 1 ≤ (sect i).type ∧ (sect i).type ≤ 7 ∧
      64 + 16 * 2 ≤ (sect i).off ∧ (sect i).off + (sect i).len ≤ file0.length) ∧
    ((sect 0).type = 1 ∧ (sect 1).type = 7 ∧ (sect 0).off + (sect 0).len ≤ (sect 1).off) ∧
    ((sect 0).len % 48 = 0 ∧ n 8 4 % 48 = 0 ∧ n 8 4 < (sect 0).len ∧ (sect 0).len ≤ 2 ^ 21 / 2 ^ n 16 1) ∧
    (sectBytes file0 [sect 0, sect 1] 7).isSome = true ∧ (sectBytes file0 [sect 0] 7).isNone = true := by decide +kernel

/-- What the statements on a placement and on a launch ask: counts below 2^63, distinct bricks, seats free before and
armed after. -/
theorem witness_LaunchRecords_launched : (∀ b, (launching.brick b).gbc.toNat < 2 ^ 63) ∧
    (launching.place 0 parsed.1 (parseRec (record 3701 0 64))).any (fun p =>
      decide (p.places.map Place.brick).Nodup && p.places.all fun x =>
        !launching.occupied x.brick x.seat && !(launching.seat x.brick x.seat).armedReg &&
          ((launching.launch 0 (parseRec (record 3701 0 64)) parsed.1 p 1).seat x.brick x.seat).armedReg) = true ∧
    ([(0, 5)] : List (Nat × Nat)).Pairwise (fun x y =>
      x.2 = 0 ∨ y.2 = 0 ∨ x.1 + x.2 ≤ y.1 ∨ y.1 + y.2 ≤ x.1) := by
  refine ⟨?_, by decide +kernel, List.pairwise_singleton _ _⟩
  intro b
  match b with
  | 0 | 1 | 2 | 3 | 4 | 5 | 6 | 7 => decide +kernel

end Sys2Proof.Tests
end

section
/-! What the end of a kernel's tasks leaves: the contexts and the kernels of other numbers, and who is killed. -/

namespace Sys2Proof.Machine

/-! ### Folds -/

/-- One step of a fold establishes a property, given one that every step keeps, and no later step breaks it. -/
theorem foldl_establishes {α σ : Type} (f : σ → α → σ) (D K : σ → Prop) (a : α) :
    ∀ l : List α, (∀ t, ∀ x ∈ l, D t → D (f t x)) → (∀ t, ∀ x ∈ l, D t → K t → K (f t x)) →
      (∀ t, D t → K (f t a)) → a ∈ l → ∀ s, D s → K (l.foldl f s)
  | x :: l, hD, hK, ha, hm, s, hs => by
    have hD' : ∀ t, ∀ y ∈ l, D t → D (f t y) := fun t y hy => hD t y (List.mem_cons_of_mem _ hy)
    have hK' : ∀ t, ∀ y ∈ l, D t → K t → K (f t y) := fun t y hy => hK t y (List.mem_cons_of_mem _ hy)
    have hx : D (f s x) := hD s x List.mem_cons_self hs
    obtain rfl | hm' := List.mem_cons.mp hm
    · have keep : D (l.foldl f (f s a)) ∧ K (l.foldl f (f s a)) :=
        List.foldlRecOn (motive := fun t => D t ∧ K t) l f ⟨hx, ha s hs⟩
          fun t h y hy => ⟨hD' t y hy h.1, hK' t y hy h.1 h.2⟩
      exact keep.2
    · exact foldl_establishes f D K a l hD' hK' ha hm' (f s x) hx

/-! ### Kernels by their number -/

theorem State.kernel_id {s : State} {id : Nat} {k : Kernel} (h : s.kernel id = some k) : k.id = id := by
  simpa using List.find?_some h

theorem State.kernel_setKernel (s : State) (k : Kernel) (i : Nat) :
    (s.setKernel k).kernel i = if i = k.id then (s.kernel i).map fun _ => k else s.kernel i := by
  unfold State.kernel State.setKernel
  induction s.kernels with
  | nil => simp
  | cons x l ih =>
    simp only [List.map_cons, List.find?_cons]
    grind

theorem State.kernel_setKernel_ne (s : State) (k : Kernel) {i : Nat} (h : i ≠ k.id) :
    (s.setKernel k).kernel i = s.kernel i := by
  rw [State.kernel_setKernel, if_neg h]

theorem State.kernel_setKernel_self {s : State} {k k0 : Kernel} {id : Nat} (h : s.kernel id = some k0)
    (hid : k.id = id) : (s.setKernel k).kernel id = some k := by
  rw [State.kernel_setKernel, if_pos hid.symm, h]
  rfl

/-- A kernel that is taken off leaves those of other numbers. -/
theorem State.kernel_filter_ne (s : State) {id i : Nat} (h : i ≠ id) :
    State.kernel { s with kernels := s.kernels.filter (·.id != id) } i = s.kernel i := by
  unfold State.kernel
  rw [List.find?_filter]
  congr 1
  funext x
  by_cases hx : x.id = i <;> simp [hx, h]

/-! ### The audit log -/

/-- Nothing but the log and its counts changes. -/
def State.LogOnly (s t : State) : Prop :=
  ∃ l h n k m, t = { s with log := l, logHash := h, logNext := n, logSinceSeal := k, logLost := m }

theorem State.LogOnly.trans {s t u : State} (h : s.LogOnly t) (k : t.LogOnly u) : s.LogOnly u := by
  obtain ⟨_, _, _, _, _, rfl⟩ := h
  obtain ⟨_, _, _, _, _, rfl⟩ := k
  exact ⟨_, _, _, _, _, rfl⟩

theorem State.LogOnly.ite {s t u : State} (p : Prop) [Decidable p] (h : s.LogOnly t) (k : s.LogOnly u) :
    s.LogOnly (if p then t else u) := by
  split
  · exact h
  · exact k

theorem State.LogOnly.logEvent (s : State) (b : Fin 8) (ty q : Nat) (p : List Byte) :
    s.LogOnly (s.logEvent b ty q p) := by
  have push (t : State) (g y r : Nat) (l : List Byte) : t.LogOnly (t.pushEntry g y r q l) := ⟨_, _, _, _, _, rfl⟩
  unfold State.logEvent
  extract_lets g src s1
  have h1 : s.LogOnly s1 := .ite _ ⟨_, _, _, _, _, rfl⟩ ⟨_, _, _, _, _, rfl⟩
  exact .ite _ ⟨_, _, _, _, _, rfl⟩ (h1.trans (.ite _ ⟨_, _, _, _, _, rfl⟩ (push ..)))

@[simp] theorem State.logEvent_kernel (s : State) (b : Fin 8) (ty q : Nat) (p : List Byte) (id : Nat) :
    (s.logEvent b ty q p).kernel id = s.kernel id := by
  obtain ⟨_, _, _, _, _, h⟩ := State.LogOnly.logEvent s b ty q p
  rw [h]
  rfl

@[simp] theorem State.logEvent_brick (s : State) (b : Fin 8) (ty q : Nat) (p : List Byte) (i : Fin 8) :
    (s.logEvent b ty q p).brick i = s.brick i := by
  unfold State.brick
  rw [State.bricks_logEvent]

@[simp] theorem State.logEvent_ctx (s : State) (b : Fin 8) (ty q : Nat) (p : List Byte) (i : Fin 8) (j : Fin 4) :
    (s.logEvent b ty q p).ctx i j = s.ctx i j := by
  unfold State.ctx State.seat
  rw [State.logEvent_brick]

@[simp] theorem State.logEvent_mem (s : State) (b : Fin 8) (ty q : Nat) (p : List Byte) :
    (s.logEvent b ty q p).mem = s.mem := by
  obtain ⟨_, _, _, _, _, h⟩ := State.LogOnly.logEvent s b ty q p
  rw [h]

@[simp] theorem State.logEvent_queue (s : State) (b : Fin 8) (ty q : Nat) (p : List Byte) (i : Fin 64) :
    (s.logEvent b ty q p).queue i = s.queue i := by
  obtain ⟨_, _, _, _, _, h⟩ := State.LogOnly.logEvent s b ty q p
  rw [h]
  rfl

@[simp] theorem State.logEvent_telPeriod (s : State) (b : Fin 8) (ty q : Nat) (p : List Byte) :
    (s.logEvent b ty q p).telPeriod = s.telPeriod := by
  obtain ⟨_, _, _, _, _, h⟩ := State.LogOnly.logEvent s b ty q p
  rw [h]

@[simp] theorem State.logEvent_telLife (s : State) (b : Fin 8) (ty q : Nat) (p : List Byte) :
    (s.logEvent b ty q p).telLife = s.telLife := by
  obtain ⟨_, _, _, _, _, h⟩ := State.LogOnly.logEvent s b ty q p
  rw [h]

/-! ### Operations that leave the tasks alone -/

/-- Seats, bricks in service and kernels stand as they were. -/
structure State.SameTasks (s t : State) : Prop where
  seats : ∀ b, (t.brick b).seats = (s.brick b).seats
  service : ∀ b, (t.brick b).inService = (s.brick b).inService
  kernel : ∀ id, t.kernel id = s.kernel id

theorem State.SameTasks.refl (s : State) : s.SameTasks s := ⟨fun _ => rfl, fun _ => rfl, fun _ => rfl⟩

theorem State.SameTasks.trans {s t u : State} (h : s.SameTasks t) (k : t.SameTasks u) : s.SameTasks u :=
  ⟨fun b => (k.seats b).trans (h.seats b), fun b => (k.service b).trans (h.service b),
    fun i => (k.kernel i).trans (h.kernel i)⟩

theorem State.SameTasks.ctx {s t : State} (h : s.SameTasks t) (b : Fin 8) (q : Fin 4) : t.ctx b q = s.ctx b q := by
  unfold State.ctx State.seat
  rw [h.seats]

theorem State.SameTasks.foldl {α : Type} (f : State → α → State) (hf : ∀ (t : State) (a : α), t.SameTasks (f t a))
    (l : List α) (s : State) : s.SameTasks (l.foldl f s) :=
  List.foldlRecOn (motive := s.SameTasks) l f (.refl s) fun t h a _ => h.trans (hf t a)

theorem State.SameTasks.ite {s t u : State} (p : Prop) [Decidable p] (h : s.SameTasks t) (k : s.SameTasks u) :
    s.SameTasks (if p then t else u) := by
  split
  · exact h
  · exact k

theorem State.SameTasks.setBrick (s : State) (b : Fin 8) (x : Brick) (h1 : x.seats = (s.brick b).seats)
    (h2 : x.inService = (s.brick b).inService) : s.SameTasks (s.setBrick b x) := by
  refine ⟨fun i => ?_, fun i => ?_, fun _ => rfl⟩ <;> rw [State.brick_setBrick] <;> split
  · next h => rw [h1, h]
  · rfl
  · next h => rw [h2, h]
  · rfl

theorem State.SameTasks.logEvent (s : State) (b : Fin 8) (ty q : Nat) (p : List Byte) :
    s.SameTasks (s.logEvent b ty q p) :=
  ⟨fun i => by rw [State.logEvent_brick], fun i => by rw [State.logEvent_brick], fun i => State.logEvent_kernel ..⟩

theorem State.SameTasks.tel (s : State) (b : Fin 8) (i j k n : Nat) : s.SameTasks (s.tel b i j k n) :=
  .setBrick s b _ rfl rfl

theorem State.SameTasks.logMachineCheck (s : State) (b : Fin 8) (k : Nat) : s.SameTasks (s.logMachineCheck b k) :=
  ((State.SameTasks.logEvent s b _ _ _).trans (.tel _ b _ _ _ _)).trans (.setBrick _ b _ rfl rfl)

theorem State.SameTasks.countHard (s : State) (b h : Fin 8) (p : EccPlace) : s.SameTasks (s.countHard b h p) :=
  .ite _ (.tel ..) (.refl s)

theorem State.SameTasks.failLink (s : State) (b : Fin 8) (d : Fin 12) (w : Nat) : s.SameTasks (s.failLink b d w) :=
  have h1 : s.SameTasks (s.setLink b d _) := .setBrick s b _ rfl rfl
  have h2 (t : State) (l : List Nat) : t.SameTasks (t.setBrick b { t.brick b with linkIrq := l }) :=
    .setBrick t b _ rfl rfl
  (h1.trans (h2 _ _)).trans (.tel _ b _ _ _ _)

theorem State.SameTasks.dropDetour (s : State) (b i : Fin 8) (d : Fin 12) : s.SameTasks (s.dropDetour b i d) := by
  unfold State.dropDetour
  extract_lets l s1 src s2
  have h1 : s.SameTasks s1 := .setBrick s i _ rfl rfl
  have h2 : s1.SameTasks s2 := .ite _ (.setBrick s1 i _ rfl rfl) (.refl s1)
  exact .ite _ ((h1.trans h2).trans (.logEvent ..)) (.refl s)

theorem State.SameTasks.closeFreeze (s : State) (b : Fin 8) (c : Context) : s.SameTasks (s.closeFreeze b c) := by
  unfold State.closeFreeze
  dsimp only
  split
  · exact .tel ..
  · exact .tel ..
  · exact .tel ..
  · exact .refl s

theorem State.SameTasks.dirty (s : State) (b : Fin 8) (q : Fin 4) : s.SameTasks (s.dirty b q) :=
  .setBrick s b _ rfl rfl

theorem State.SameTasks.dropHeld (s : State) (id : Nat) : s.SameTasks (s.dropHeld id) := by
  have hb (b : Fin 8) : ∃ l, (s.dropHeld id).brick b = { s.brick b with links := l } :=
    ⟨_, by simp only [State.dropHeld, State.brick]; exact Vector.getElem_map _ _⟩
  refine ⟨fun b => ?_, fun b => ?_, fun _ => rfl⟩ <;> (obtain ⟨l, h⟩ := hb b; rw [h])

/-! ### Operations on the tasks of one kernel -/

/-- Of contexts and kernels an operation changes those of kernel `id` alone; it keeps the kernel of each context and
revives no killed task. -/
structure State.Culls (id : Nat) (s t : State) : Prop where
  owner : ∀ b q, (t.ctx b q).kernel = (s.ctx b q).kernel
  others : ∀ b q, (s.ctx b q).kernel ≠ id → t.ctx b q = s.ctx b q
  killed : ∀ b q, (s.ctx b q).run = .killed → (t.ctx b q).run = .killed
  kernel : ∀ i, i ≠ id → t.kernel i = s.kernel i

theorem State.Culls.of_same {s t : State} (id : Nat) (hc : ∀ b q, t.ctx b q = s.ctx b q)
    (hk : ∀ i, i ≠ id → t.kernel i = s.kernel i) : State.Culls id s t :=
  ⟨fun b q => by rw [hc], fun b q _ => hc b q, fun b q h => by rw [hc, h], hk⟩

theorem State.SameTasks.culls {s t : State} (h : s.SameTasks t) (id : Nat) : State.Culls id s t :=
  .of_same id h.ctx fun i _ => h.kernel i

theorem State.Culls.refl (id : Nat) (s : State) : State.Culls id s s := (State.SameTasks.refl s).culls id

theorem State.Culls.trans {id : Nat} {s t u : State} (h : State.Culls id s t) (k : State.Culls id t u) :
    State.Culls id s u where
  owner b q := (k.owner b q).trans (h.owner b q)
  others b q e := (k.others b q ((h.owner b q).symm ▸ e)).trans (h.others b q e)
  killed b q e := k.killed b q (h.killed b q e)
  kernel i e := (k.kernel i e).trans (h.kernel i e)

theorem State.Culls.ite {id : Nat} {s t u : State} (p : Prop) [Decidable p] (h : State.Culls id s t)
    (k : State.Culls id s u) : State.Culls id s (if p then t else u) := by
  split
  · exact h
  · exact k

theorem State.Culls.setKernel (s : State) (k : Kernel) : State.Culls k.id s (s.setKernel k) :=
  .of_same _ (fun _ _ => rfl) fun _ h => State.kernel_setKernel_ne s k h

/-- A context of kernel `id` put in place, over no killed one unless it is killed itself. -/
theorem State.Culls.setSeat (s : State) (b : Fin 8) (q : Fin 4) (x : Seat)
    (hk : x.ctx.kernel = (s.ctx b q).kernel) (hr : (s.ctx b q).run = .killed → x.ctx.run = .killed) :
    State.Culls (s.ctx b q).kernel s (s.setSeat b q x) := by
  refine ⟨fun i j => ?_, fun i j e => ?_, fun i j e => ?_, fun _ _ => rfl⟩ <;> rw [State.ctx_setSeat] <;> split
  · next h => rw [hk, h.1, h.2]
  · rfl
  · next h => exact absurd (by rw [h.1, h.2]) e
  · rfl
  · next h => exact hr (by rw [← h.1, ← h.2, e])
  · exact e

/-- Steps at seats of the kernel, each of which changes that kernel alone. -/
theorem State.Culls.foldl {id : Nat} (f : State → Fin 8 × Fin 4 → State)
    (hf : ∀ t p, (t.ctx p.1 p.2).kernel = id → State.Culls id t (f t p)) (l : List (Fin 8 × Fin 4)) (s : State)
    (hl : ∀ p ∈ l, (s.ctx p.1 p.2).kernel = id) : State.Culls id s (l.foldl f s) :=
  List.foldlRecOn (motive := State.Culls id s) l f (.refl id s) fun t h p hp =>
    h.trans (hf t p ((h.owner p.1 p.2).trans (hl p hp)))

theorem State.cutSave_ctx (s : State) (b : Fin 8) (q : Fin 4) (i : Fin 8) (j : Fin 4) :
    (s.cutSave b q).ctx i j = s.ctx i j := by
  unfold State.cutSave
  split
  · refine (State.logEvent_ctx ..).trans ((State.ctx_setSeat ..).trans ?_)
    split
    · next h => rw [h.1, h.2]; rfl
    · rfl
  · rfl

theorem State.cutSave_kernel (s : State) (b : Fin 8) (q : Fin 4) (id : Nat) :
    (s.cutSave b q).kernel id = s.kernel id := by
  unfold State.cutSave
  split
  · exact State.logEvent_kernel ..
  · rfl

/-- A task that ends otherwise than by its `halt` is killed, and no other task or kernel changes (01 R44). -/
theorem State.endTask_culls (s : State) (b : Fin 8) (q : Fin 4) (c : Context) (e : EndInfo)
    (hc : c.kernel = (s.ctx b q).kernel) (he : e.kind ≠ .halted) :
    State.Culls (s.ctx b q).kernel s (s.endTask b q c e) ∧ ((s.endTask b q c e).ctx b q).run = .killed := by
  unfold State.endTask
  extract_lets rec0 run sl s0 src s1 s2 s3
  have hrun : run = .killed := by
    show (match e.kind with | .halted => Run.ended | _ => .killed) = .killed
    cases h : e.kind <;> first | rfl | exact absurd h he
  have h0 : State.Culls (s.ctx b q).kernel s s0 :=
    ((State.SameTasks.closeFreeze s b c).culls _).trans
      (.of_same _ (State.cutSave_ctx _ b q) fun i _ => State.cutSave_kernel _ b q i)
  have h1 : State.Culls (s.ctx b q).kernel s0 s1 := by
    rw [← h0.owner b q]
    exact .setSeat s0 b q _ (hc.trans (h0.owner b q).symm) fun _ => hrun
  have h2 : s1.SameTasks s2 := (State.SameTasks.dirty s1 b q).trans (.tel ..)
  have h3 : State.Culls (s.ctx b q).kernel s2 s3 := by
    show State.Culls _ s2 (match s2.kernel c.kernel with
      | some k => s2.setKernel { k.putTibeat c.coord e.tibeat with reports := k.reports ++ [(c.coord, rec0)] }
      | none => s2)
    split
    · next k hk =>
      have hid : k.id = (s.ctx b q).kernel := (State.kernel_id hk).trans hc
      rw [← hid]
      exact State.Culls.setKernel s2 { k.putTibeat c.coord e.tibeat with reports := k.reports ++ [(c.coord, rec0)] }
    · exact .refl _ s2
  have hend : (s2.ctx b q).run = .killed := by
    rw [h2.ctx, State.ctx_setSeat_self]
    exact hrun
  exact ⟨((h0.trans h1).trans ((h2.culls _).trans h3)).trans (.of_same _ (fun _ _ => rfl) fun _ _ => rfl),
    h3.killed b q hend⟩

theorem State.endDrain_ctx (s : State) (b : Fin 8) (q : Fin 4) (i : Fin 8) (j : Fin 4) :
    (s.endDrain b q).ctx i j = if i = b ∧ j = q then { (s.ctx b q).endOps with run := .ended } else s.ctx i j := by
  unfold State.endDrain
  extract_lets c s1
  have h1 : s1.ctx i j = if i = b ∧ j = q then { (s.ctx b q).endOps with run := .ended } else s.ctx i j :=
    State.ctx_setCtx ..
  split
  · exact h1
  · exact h1

/-- A kernel keeps its seats while the drains of its released contexts end (22 R417). -/
theorem State.endDrain_kernel {s : State} {i : Nat} {k : Kernel} (b : Fin 8) (q : Fin 4) (h : s.kernel i = some k) :
    ∃ k', (s.endDrain b q).kernel i = some k' ∧ k'.seats = k.seats := by
  unfold State.endDrain
  extract_lets c s1
  split
  · next k1 hk1 =>
    have hid : k1.id = c.kernel := State.kernel_id hk1
    by_cases hi : i = c.kernel
    · refine ⟨_, State.kernel_setKernel_self (hi ▸ hk1) (hid.trans hi.symm), ?_⟩
      have : k1 = k := Option.some.inj (hk1.symm.trans (hi ▸ h))
      rw [← this]
      rfl
    · have hne : i ≠ (k1.patchReleased (s.withRelErr c)).id := fun e => hi (e.trans hid)
      exact ⟨k, (State.kernel_setKernel_ne s1 _ hne).trans h, rfl⟩
  · exact ⟨k, h, rfl⟩

theorem State.endDrain_culls (s : State) (b : Fin 8) (q : Fin 4) (hr : (s.ctx b q).run ≠ .killed) :
    State.Culls (s.ctx b q).kernel s (s.endDrain b q) := by
  unfold State.endDrain
  extract_lets c s1
  have h1 : State.Culls (s.ctx b q).kernel s s1 := .setSeat s b q _ rfl fun h => absurd h hr
  split
  · next k hk =>
    have hid : k.id = (s.ctx b q).kernel := State.kernel_id hk
    exact h1.trans (hid ▸ State.Culls.setKernel s1 (k.patchReleased (s.withRelErr c)))
  · exact h1

theorem Context.drains_iff {c : Context} {id : Nat} :
    c.drains id = true ↔ c.kernel = id ∧ ∃ g, c.run = .released g := by
  unfold Context.drains
  cases c.run <;> simp

/-- How the contexts and kernel `id` stand while the drains of the contexts of `l`, which were those of `s`, end. -/
structure State.Drained (id : Nat) (l : List (Fin 8 × Fin 4)) (s t : State) : Prop where
  culls : State.Culls id s t
  notKilled : ∀ p ∈ l, (t.ctx p.1 p.2).run ≠ .killed
  rest : ∀ b q, (s.ctx b q).drains id = false → t.ctx b q = s.ctx b q
  seats : ∀ k, s.kernel id = some k → ∃ k', t.kernel id = some k' ∧ k'.seats = k.seats

theorem State.Drained.refl (id : Nat) (l : List (Fin 8 × Fin 4)) (s : State)
    (hl : ∀ p ∈ l, (s.ctx p.1 p.2).drains id = true) : State.Drained id l s s := by
  refine ⟨.refl id s, fun p hp => ?_, fun _ _ _ => rfl, fun k h => ⟨k, h, rfl⟩⟩
  obtain ⟨-, g, hg⟩ := Context.drains_iff.mp (hl p hp)
  rw [hg]
  exact Run.noConfusion

theorem State.Drained.endDrain {id : Nat} {l : List (Fin 8 × Fin 4)} {s t : State} (h : State.Drained id l s t)
    {p : Fin 8 × Fin 4} (hp : p ∈ l) (hd : (s.ctx p.1 p.2).drains id = true) :
    State.Drained id l s (t.endDrain p.1 p.2) := by
  have hid : (t.ctx p.1 p.2).kernel = id := (h.culls.owner ..).trans (Context.drains_iff.mp hd).1
  refine ⟨h.culls.trans (hid ▸ State.endDrain_culls t p.1 p.2 (h.notKilled p hp)), fun p' hp' => ?_,
    fun b q e => ?_, fun k e => ?_⟩
  · rw [State.endDrain_ctx]
    split
    · exact Run.noConfusion
    · exact h.notKilled p' hp'
  · rw [State.endDrain_ctx, if_neg, h.rest b q e]
    rintro ⟨rfl, rfl⟩
    exact Bool.noConfusion (e.symm.trans hd)
  · obtain ⟨k', hk', e'⟩ := h.seats k e
    obtain ⟨k'', hk'', e''⟩ := State.endDrain_kernel p.1 p.2 hk'
    exact ⟨k'', hk'', e''.trans e'⟩

/-- The drains of a kernel's released contexts end: a context that is none of them stands as it was. -/
theorem State.endDrains_drained (s : State) (id : Nat) : ∃ l, State.Drained id l s (s.endDrains id) := by
  have hd : ∀ p ∈ allSeats.filter fun p => (s.ctx p.1 p.2).drains id, (s.ctx p.1 p.2).drains id = true :=
    fun p hp => (List.mem_filter.mp hp).2
  exact ⟨_, List.foldlRecOn (motive := State.Drained id _ s) _ _ (.refl id _ s hd)
    fun t h p hp => h.endDrain hp (hd p hp)⟩

/-! ### Completion -/

theorem State.vwrite_parts {s t : State} {a va : Nat} {l : List Byte} (h : s.vwrite a va l = some t) :
    ∃ m, t = { s with mem := m } := by
  unfold State.vwrite at h
  split at h
  · exact ⟨_, (Option.some.inj h).symm⟩
  · exact absurd h (by simp)

/-- A completion's report and entry change memory, the queue and the log alone. -/
theorem State.SameTasks.post (s : State) (q : Fin 64) (tag : Word) (seq : BitVec 16) (st re g va : Nat)
    (rep : List Byte) : s.SameTasks (s.post q tag seq st re g va rep) := by
  have hw {t u : State} {a va : Nat} {l : List Byte} (h : t.vwrite a va l = some u) : t.SameTasks u := by
    obtain ⟨m, rfl⟩ := State.vwrite_parts h
    exact ⟨fun _ => rfl, fun _ => rfl, fun _ => rfl⟩
  unfold State.post
  extract_lets qu
  split
  next s1 len he =>
  have h1 : s.SameTasks s1 := by
    split at he
    · next s' h => exact (Prod.mk.inj he).1 ▸ hw h
    · exact (Prod.mk.inj he).1 ▸ .refl s
  refine (h1.trans ?_).trans (.logEvent _ 0 0x0021 q.val _)
  split
  · next s2 h =>
    refine (hw h).trans (.ite _ ?_ ?_) <;> exact ⟨fun _ => rfl, fun _ => rfl, fun _ => rfl⟩
  · exact .refl s1

theorem State.Culls.completeKernel (s : State) (k : Kernel) : State.Culls k.id s (s.completeKernel k) := by
  have h1 : State.Culls k.id s { s with kernels := s.kernels.filter (·.id != k.id) } := by
    exact .of_same _ (fun _ _ => rfl) fun i hi => State.kernel_filter_ne s hi
  have h2 (t : State) (q : Fin 64) (u : Queue) : State.Culls k.id t (t.setQueue q u) :=
    .of_same _ (fun _ _ => rfl) fun _ _ => rfl
  unfold State.completeKernel
  dsimp only
  split <;> exact (h1.trans ((State.SameTasks.post ..).culls _)).trans (h2 ..)

theorem State.Culls.checkComplete (s : State) (id : Nat) : State.Culls id s (s.checkComplete id) := by
  unfold State.checkComplete
  split
  · next k hk =>
    obtain rfl : k.id = id := State.kernel_id hk
    have hf : State.Culls k.id s { s with kernels := s.kernels.filter (·.id != k.id) } :=
      .of_same _ (fun _ _ => rfl) fun i hi => State.kernel_filter_ne s hi
    exact .ite _ (.ite _ (.refl _ s) hf) (.ite _ (.refl _ s)
      (.ite _ (.setKernel s (s.ended k)) (.completeKernel s (s.ended k))))
  · exact .refl id s

/-! ### Kills -/

/-- A kill of a kernel's live tasks is a kill of each of them, and leaves every other kernel's (01 R44). -/
theorem State.killLive_culls (s : State) (id code : Nat) (v : Fin 8 → Fin 4 → Context → Option EndInfo)
    (hv : ∀ b q c e, v b q c = some e → e.kind ≠ .halted) :
    State.Culls id s (s.killLive id code v) ∧
      ∀ b q k, (s.ctx b q).run.over = false → (s.ctx b q).kernel = id → s.kernel id = some k → (b, q) ∈ k.seats →
        ((s.killLive id code v).ctx b q).run = .killed := by
  unfold State.killLive
  split
  · next h => exact ⟨.refl id s, fun b q k _ _ hk => absurd (h.symm.trans hk) (by simp)⟩
  next k hk =>
  extract_lets alive first k1 s1 s2
  have hid : k1.id = id := by
    refine Eq.trans ?_ (State.kernel_id hk)
    show (match k.firstKill, first with
      | none, some p => { k with firstKill := some (BitVec.ofNat 8 code, BitVec.ofNat 12 p.1.val) }
      | none, none => { k with firstKill := some (BitVec.ofNat 8 code, 0) }
      | _, _ => k : Kernel).id = k.id
    split <;> rfl
  have hkind (t : State) (p : Fin 8 × Fin 4) :
      ((v p.1 p.2 (t.ctx p.1 p.2)).getD (siblingEnd (t.ctx p.1 p.2).endOps)).kind ≠ .halted := by
    cases h : v p.1 p.2 (t.ctx p.1 p.2) with
    | none => exact TaskEnd.noConfusion
    | some e => exact hv _ _ _ _ h
  have step (t : State) (p : Fin 8 × Fin 4) := State.endTask_culls t p.1 p.2 (t.ctx p.1 p.2).endOps _ rfl (hkind t p)
  have halive : ∀ p ∈ alive, (s.ctx p.1 p.2).kernel = id := by
    intro p hp
    have := (List.mem_filter.mp hp).2
    simp only [Bool.and_eq_true, beq_iff_eq] at this
    exact this.2
  have h0 : State.Culls id s (s.setKernel k1) := hid ▸ .setKernel s k1
  have h1 : State.Culls id (s.setKernel k1) s1 :=
    .foldl _ (fun t p h => h ▸ (step t p).1) alive _ halive
  have h2 : State.Culls id s1 s2 := by
    show State.Culls id s1 (match s1.kernel id with
      | some k2 => s1.setKernel k2.joinReleased
      | none => s1)
    split
    · next k2 h =>
      obtain rfl : k2.id = id := State.kernel_id h
      exact State.Culls.setKernel s1 k2.joinReleased
    · exact .refl id s1
  have h3 : State.Culls id s2 ((s2.dropHeld id).checkComplete id) :=
    ((State.SameTasks.dropHeld s2 id).culls id).trans (.checkComplete _ id)
  refine ⟨(h0.trans h1).trans (h2.trans h3), fun b q k' hr ho hk' hm => ?_⟩
  obtain rfl : k = k' := Option.some.inj (hk.symm.trans hk')
  have hin : (b, q) ∈ alive := List.mem_filter.mpr ⟨hm, by simp [hr, ho]⟩
  refine (h2.trans h3).killed b q ?_
  refine foldl_establishes (σ := State) _ (fun t => ∀ p ∈ alive, (t.ctx p.1 p.2).kernel = id)
    (fun t => (t.ctx b q).run = .killed) (b, q) alive ?_ ?_ ?_ hin _ halive
  · exact fun t x _ h p hp => ((step t x).1.owner ..).trans (h p hp)
  · exact fun t x _ _ h => (step t x).1.killed b q h
  · exact fun t _ => (step t (b, q)).2

/-- A kill leaves every other kernel as it was, and kills each live task of its own. -/
theorem State.killKernel_culls (s : State) (id code : Nat) (v : Fin 8 → Fin 4 → Context → Option EndInfo)
    (hv : ∀ b q c e, v b q c = some e → e.kind ≠ .halted) : State.Culls id s (s.killKernel id code v) := by
  obtain ⟨l, hd⟩ := State.endDrains_drained s id
  exact hd.culls.trans (State.killLive_culls _ id code v hv).1

theorem State.killKernel_killed {s : State} {b : Fin 8} {q : Fin 4} {id : Nat} {k : Kernel} (code : Nat)
    {v : Fin 8 → Fin 4 → Context → Option EndInfo} (hv : ∀ b q c e, v b q c = some e → e.kind ≠ .halted)
    (hr : (s.ctx b q).run.over = false) (ho : (s.ctx b q).kernel = id) (hk : s.kernel id = some k)
    (hm : (b, q) ∈ k.seats) : ((s.killKernel id code v).ctx b q).run = .killed := by
  obtain ⟨l, hd⟩ := State.endDrains_drained s id
  have hc : (s.endDrains id).ctx b q = s.ctx b q := by
    refine hd.rest b q ?_
    rw [Bool.eq_false_iff, ne_eq, Context.drains_iff]
    rintro ⟨-, g, hg⟩
    rw [hg] at hr
    exact Bool.noConfusion hr
  obtain ⟨k', hk', e⟩ := hd.seats k hk
  exact (State.killLive_culls _ id code v hv).2 b q k' (hc ▸ hr) (hc ▸ ho) hk' (e ▸ hm)

/-- The end that a machine check gives is no `halt`. -/
theorem machineCheckEnd_kind (P : Fin 8 → Fin 4 → Prop) [∀ b q, Decidable (P b q)] (cause : Nat) :
    ∀ b q c e, (if P b q then some (asyncEnd c .machineCheck 0x3C cause) else none) = some e → e.kind ≠ .halted := by
  intro b q c e h
  split at h
  · rw [← Option.some.inj h]
    exact TaskEnd.noConfusion
  · exact absurd h (by simp)

/-- A machine check of a live task kills it (25 R447). -/
theorem State.machineCheck_killed {s : State} {b : Fin 8} {q : Fin 4} {k : Kernel} (cause : Nat)
    (hr : (s.ctx b q).run.over = false) (hk : s.kernel (s.ctx b q).kernel = some k) (hm : (b, q) ∈ k.seats) :
    ((s.machineCheck b q cause).ctx b q).run = .killed :=
  State.killKernel_killed _ (machineCheckEnd_kind (fun b' q' => (b' = b && q' = q) = true) cause) hr rfl hk hm

/-! ### A brick that leaves service -/

/-- The task at a seat is killed, or it is live and its kernel can still be killed. -/
def State.Doomed (s : State) (b : Fin 8) (q : Fin 4) : Prop :=
  (s.ctx b q).run = .killed ∨
    (s.ctx b q).run.over = false ∧ ∃ k, s.kernel (s.ctx b q).kernel = some k ∧ (b, q) ∈ k.seats

/-- A kill of any kernel leaves a doomed task doomed. -/
theorem State.Doomed.killKernel {s : State} {b : Fin 8} {q : Fin 4} (h : s.Doomed b q) (id code : Nat)
    {v : Fin 8 → Fin 4 → Context → Option EndInfo} (hv : ∀ b q c e, v b q c = some e → e.kind ≠ .halted) :
    (s.killKernel id code v).Doomed b q := by
  have hc := State.killKernel_culls s id code v hv
  obtain h | ⟨hr, k, hk, hm⟩ := h
  · exact .inl (hc.killed b q h)
  · by_cases ho : (s.ctx b q).kernel = id
    · exact .inl (State.killKernel_killed code hv hr ho (ho ▸ hk) hm)
    · refine .inr ?_
      rw [hc.others b q ho, hc.kernel _ ho]
      exact ⟨hr, k, hk, hm⟩

theorem State.SameTasks.dropDetours (s : State) (b : Fin 8) : s.SameTasks
    ((List.finRange 8).foldl (fun t i => (List.finRange 12).foldl (fun u d => u.dropDetour b i d) t) s) :=
  .foldl _ (fun t i => .foldl _ (fun u d => .dropDetour u b i d) _ t) _ s

theorem State.Doomed.of_same {s t : State} (h : s.SameTasks t) {b : Fin 8} {q : Fin 4} (hd : s.Doomed b q) :
    t.Doomed b q := by
  unfold State.Doomed
  rw [h.ctx, h.kernel]
  exact hd

/-- A brick that leaves service takes every doomed task of it along (25 R448). -/
theorem State.leaveService_tasks (s : State) (b : Fin 8) (cause : Nat) :
    ((s.leaveService b cause).brick b).inService = false ∧
      ∀ q, s.Doomed b q → ((s.leaveService b cause).ctx b q).run = .killed := by
  have hv := machineCheckEnd_kind (fun b' (_ : Fin 4) => b' = b) cause
  unfold State.leaveService
  extract_lets s1 src s2 s3 why fails s4
  have h1 (q : Fin 4) (hq : s.Doomed b q) : (s1.ctx b q).run = .killed := by
    refine foldl_establishes (σ := State) _ (fun t => t.Doomed b q) (fun t => (t.ctx b q).run = .killed) q _ ?_ ?_ ?_
      (List.mem_finRange q) s hq
    · intro t x _ h
      split
      · exact h
      · exact h.killKernel _ _ hv
    · intro t x _ _ h
      split
      · exact h
      · exact (State.killKernel_culls t _ _ _ hv).killed b q h
    · rintro t (h | ⟨hr, k, hk, hm⟩)
      · simp [h, Run.over]
      · rw [hr, if_neg Bool.false_ne_true]
        exact State.killKernel_killed _ hv hr rfl hk hm
  clear_value s1
  have hf (t : State) (i : Fin 8) (d : Fin 12) : t.SameTasks (fails t i d) :=
    .ite _ (.refl t) (.failLink t i d why)
  have h4 : s3.SameTasks s4 := .foldl _ (fun t d => (hf t _ _).trans (hf _ _ _)) _ s3
  clear_value s4
  have h5 := h4.trans (.dropDetours s4 b)
  refine ⟨(h5.service b).trans ?_, fun q hq => ?_⟩
  · exact congrArg Brick.inService (State.brick_setBrick_self s1 b _)
  · have h2 : s2.ctx b q = s1.ctx b q := State.ctx_setBrick s1 b b q { s1.brick b with inService := false } rfl
    exact (congrArg Context.run ((h5.ctx b q).trans h2)).trans (h1 q hq)

end Sys2Proof.Machine
end

section
/-! Allocations, power, clocks, errors and telemetry (25 R443 to R451). -/

namespace Sys2Proof.Machine

theorem nbits_lt (w lo len : Nat) : nbits w lo len < 2 ^ len := Nat.mod_lt _ (Nat.two_pow_pos len)

theorem wd_toNat {n : Nat} (h : n < 2 ^ 64) : (wd n).toNat = n := by
  rw [wd, BitVec.toNat_ofNat, Nat.mod_eq_of_lt h]

theorem State.hostUp_power {s : State} (h : s.hostUp = true) : s.power ≠ .off := by
  simp only [State.hostUp, Bool.and_eq_true, bne_iff_ne] at h
  obtain ⟨⟨hp, -⟩, -⟩ := h
  exact hp

theorem exec_allocationWrite {s : State} (h : s.hostUp = true) (q : Fin 64) (v : Word) :
    ∃ t, exec (.allocationWrite q v) s = .next t ∧
      (t.queue q).alloc.toNat = v.toNat % 2 ^ 13 + v.toNat / 2 ^ 16 % 2 ^ 5 * 2 ^ 16 ∧ t.mem = s.mem := by
  refine ⟨_, congrArg Host.Outcome.next (if_neg (by simp [h])), ?_, ?_⟩
  · have h0 := nbits_lt v.toNat 0 13
    have h1 := nbits_lt v.toNat 16 5
    rw [State.logWrite, State.logEvent_queue, State.queue_setQueue_self, wd_toNat (by unfold keep; omega)]
    simp [keep, nbits]
  · rw [State.logWrite, State.logEvent_mem, State.setQueue_mem]

/-! ### Telemetry -/

/-- The reckoning of a throttle changes the brick's record of it alone. -/
theorem State.reckonThrottle_parts (s : State) (b : Fin 8) : (∃ l, s.reckonThrottle b = { s with bricks := l }) ∧
    ∃ g n d, (s.reckonThrottle b).brick b = { s.brick b with throttle := g, throttled := n, telDelta := d } := by
  unfold State.reckonThrottle
  extract_lets x
  split
  · exact ⟨⟨_, rfl⟩, _, _, _, by rw [State.tel, State.brick_setBrick_self, State.brick_setBrick_self]⟩
  · exact ⟨⟨_, rfl⟩, _, _, _, rfl⟩

/-- A brick's deltas sent: the brick begins new ones at its count, and flash takes the other copy (25 R450). -/
theorem State.sendDelta_parts (s : State) (b : Fin 8) :
    ((s.sendDelta b).brick b).telDelta = [] ∧ ((s.sendDelta b).brick b).lastDelta = (s.brick b).gbc ∧
      (s.sendDelta b).flashCopy = !s.flashCopy ∧ (s.sendDelta b).flashWriting = true ∧
      (s.sendDelta b).telLifeOld = s.telLife := by
  obtain ⟨⟨l, hl⟩, g, n, d, hb⟩ := State.reckonThrottle_parts s b
  have hx : (s.sendDelta b).brick b =
      { (s.reckonThrottle b).brick b with telDelta := [], lastDelta := ((s.reckonThrottle b).brick b).gbc } :=
    State.brick_setBrick_self ..
  refine ⟨by rw [hx], by rw [hx, hb], ?_, rfl, ?_⟩ <;> simp only [State.sendDelta, hl, State.setBrick]

theorem State.sendDelta_mem (s : State) (b : Fin 8) : (s.sendDelta b).mem = s.mem := by
  obtain ⟨⟨l, hl⟩, -⟩ := State.reckonThrottle_parts s b
  simp only [State.sendDelta, hl, State.setBrick]

theorem State.sendDeltas_mem (s : State) (l : List (Fin 8)) : (l.foldl (fun t b => t.sendDelta b) s).mem = s.mem :=
  List.foldlRecOn (motive := fun t : State => t.mem = s.mem) l _ rfl fun t ht b _ => (State.sendDelta_mem t b).trans ht

theorem exec_telemetryDelta {s : State} (h : s.hostUp = true) {b : Fin 8}
    (hd : 2 ^ 36 ≤ ((s.brick b).gbc - (s.brick b).lastDelta).toNat) :
    exec (.telemetryDelta b) s = .next (s.sendDelta b) :=
  congrArg Host.Outcome.next (if_pos (Bool.and_eq_true_iff.mpr
    ⟨bne_iff_ne.mpr (State.hostUp_power h), decide_eq_true hd⟩))

theorem exec_temperatureSample {s : State} (h : s.hostUp = true) {b : Fin 8} (n : Int)
    (hg : (s.brick b).gbc.toNat % 2 ^ 24 = 0) :
    ∃ t, exec (.temperatureSample b n) s = .next t ∧ (t.brick b).temperature = n := by
  refine ⟨_, congrArg Host.Outcome.next (if_neg ?_), ?_⟩
  · simp only [Bool.or_eq_true, beq_iff_eq, decide_eq_true_eq, not_or, Decidable.not_not]
    exact ⟨State.hostUp_power h, hg⟩
  · rw [State.brick_setBrick_self]

theorem exec_telemetrySelect {s : State} (h : s.hostUp = true) (v : Word) :
    (recordSize (v.toNat % 256) (v.toNat / 2 ^ 11 % 2 ^ 9) = none → ∃ t,
      exec (.telemetrySelect v) s = .next t ∧ t.telBad = true ∧ t.telWin = s.telWin) ∧
    ∀ n, recordSize (v.toNat % 256) (v.toNat / 2 ^ 11 % 2 ^ 9) = some n → ∃ t,
      exec (.telemetrySelect v) s = .next t ∧ t.telReady = true ∧ t.telWin.length = n := by
  have hid : nbits v.toNat 0 8 = v.toNat % 256 := by simp [nbits]
  have hsub : nbits v.toNat 11 9 = v.toNat / 2 ^ 11 % 2 ^ 9 := rfl
  refine ⟨fun hn => ⟨_, congrArg Host.Outcome.next (if_neg (by simp [h])), ?_⟩,
    fun n hn => ⟨_, congrArg Host.Outcome.next (if_neg (by simp [h])), ?_⟩⟩
  · rw [hid, hsub, hn]
    exact ⟨rfl, rfl⟩
  · rw [hid, hsub, hn]
    exact ⟨rfl, by simp⟩

theorem exec_telemetryClear {s : State} (h : s.hostUp = true) :
    ∃ t, exec .telemetryClear s = .next t ∧ t.telPeriod = [] ∧ t.telLife = s.telLife := by
  refine ⟨_, congrArg Host.Outcome.next (if_neg (by simp [h])), ?_⟩
  dsimp only
  split
  · exact ⟨rfl, rfl⟩
  · rw [State.logEvent_telPeriod, State.logEvent_telLife]
    exact ⟨rfl, rfl⟩

/-! ### Power and clocks -/

theorem exec_standby {s : State} (h : s.hostUp = true) (hp : s.power = .on) (hr : s.atRest = true) :
    ∃ t, exec .standby s = .next t ∧ t.power = .standby ∧ t.mem = s.mem := by
  refine ⟨_, congrArg Host.Outcome.next (if_pos (by simp [h, hp, hr])), rfl, ?_⟩
  dsimp only
  rw [State.sendDeltas_mem]
  rfl

theorem exec_standby_of_busy {s : State} (hr : s.atRest = false) : exec .standby s = .next s :=
  congrArg Host.Outcome.next (if_neg (by simp [hr]))

theorem exec_standbyExit {s : State} (hp : s.power = .standby) :
    exec .standbyExit s = .next { s with power := .on } :=
  congrArg Host.Outcome.next (if_pos (by simp [hp]))

theorem State.freeClock_bounds (s : State) : 8 ≤ s.freeClock ∧ s.freeClock ≤ 32 := by
  unfold State.freeClock
  omega

/-- The cap is held to its limits, and a brick that does not throttle takes the clock that meets it (25 R446). -/
theorem exec_powerCap {s : State} (h : s.hostUp = true) (v : Word) :
    ∃ t, exec (.powerCap v) s = .next t ∧ t.powercap.toNat = min 2400 (max 600 (v.toNat % 2 ^ 12)) ∧
      8 ≤ t.modClock ∧ t.modClock ≤ 32 ∧ (∀ b, (s.brick b).throttle = none → (t.brick b).clock = t.modClock) ∧
      t.mem = s.mem := by
  refine ⟨_, congrArg Host.Outcome.next (if_neg (by simp [h])), ?_, (State.freeClock_bounds s).1,
    (State.freeClock_bounds s).2, fun b hb => ?_, rfl⟩
  · have hv : nbits v.toNat 0 12 = v.toNat % 2 ^ 12 := by simp [nbits]
    rw [hv, BitVec.toNat_ofNat, Nat.mod_eq_of_lt (by omega)]
  · refine (congrArg Brick.clock (Vector.getElem_map _ _)).trans ?_
    have : s.bricks[b.val].throttle = none := hb
    simp [this]

theorem exec_thermalThrottle {s : State} (h : s.hostUp = true) {b : Fin 8} (hb : (s.brick b).throttle = none) :
    ∃ t, exec (.thermalThrottle b) s = .next t ∧ (t.brick b).throttle = some (s.brick b).gbc ∧
      (t.brick b).clock ≤ (s.brick b).clock ∧ (8 < s.modClock → (t.brick b).clock < s.modClock) := by
  refine ⟨_, congrArg Host.Outcome.next (if_neg (by simp [State.hostUp_power h, hb])), ?_⟩
  show ((s.setBrick b _).brick b).throttle = _ ∧ ((s.setBrick b _).brick b).clock ≤ _ ∧
    (_ → ((s.setBrick b _).brick b).clock < _)
  rw [State.brick_setBrick_self]
  exact ⟨rfl, by dsimp only; omega, fun _ => by dsimp only; omega⟩

theorem exec_thermalThrottleEnd {s : State} {b : Fin 8} {g : Word} (hb : (s.brick b).throttle = some g) :
    ∃ t, exec (.thermalThrottleEnd b) s = .next t ∧ (t.brick b).throttle = none ∧ (t.brick b).clock = s.modClock := by
  refine ⟨_, congrArg Host.Outcome.next (if_pos (by simp [hb])), ?_⟩
  rw [State.brick_setBrick_self]
  exact ⟨rfl, rfl⟩

/-- A loss of power leaves what flash and fuses hold (25 R445, R452). -/
theorem exec_powerLoss (s : State) : ∃ t, exec .powerLoss s = .next t ∧ t.power = .off ∧ t.mem = [] ∧
    t.flashOwner = s.flashOwner ∧ t.flashSlots = s.flashSlots ∧ t.storeCtr = s.storeCtr ∧ t.bootcnt = s.bootcnt ∧
    t.log = [] ∧ t.telLife = s.telLife ∧ t.telLifeOld = s.telLifeOld ∧
    (s.flashWriting = false → t.flashGood = s.flashGood) :=
  ⟨_, rfl, rfl, rfl, rfl, rfl, rfl, rfl, rfl, rfl, rfl, fun h => by simp [h]⟩

/-! ### Errors -/

/-- A thermal trip is a machine check of the brick, which leaves service with every task on it (25 R446, R448). -/
theorem exec_thermalTrip {s : State} (h : s.hostUp = true) {b : Fin 8} (hb : (s.brick b).inService = true) :
    ∃ t, exec (.thermalTrip b) s = .next t ∧ (t.brick b).inService = false ∧
      ∀ q k, (s.ctx b q).run.over = false → s.kernel (s.ctx b q).kernel = some k → (b, q) ∈ k.seats →
        (t.ctx b q).run = .killed := by
  obtain ⟨hs, ht⟩ := State.leaveService_tasks (s.logMachineCheck b 3) b 3
  refine ⟨_, congrArg Host.Outcome.next (if_pos (by simp [State.hostUp_power h, hb])), hs, fun q k hr hk hm => ?_⟩
  exact ht q (.of_same (.logMachineCheck s b 3) (.inr ⟨hr, k, hk, hm⟩))

theorem exec_correctedError {s : State} (h : s.hostUp = true) (b : Fin 8) (p : EccPlace) :
    exec (.correctedError b p) s = .next (s.tel b (eccCount p).1 (eccCount p).2.1 (eccCount p).2.2 1) :=
  congrArg Host.Outcome.next (if_neg (by simp [State.hostUp_power h]))

/-- An uncorrectable error in a live task's state or data kills it (25 R447). -/
theorem exec_uncorrectableError {s : State} (h : s.hostUp = true) {b : Fin 8} {q : Fin 4} (p : EccPlace) {k : Kernel}
    (hr : (s.ctx b q).run.over = false) (hk : s.kernel (s.ctx b q).kernel = some k) (hm : (b, q) ∈ k.seats) :
    ∃ t, exec (.uncorrectableError b (.context q p)) s = .next t ∧ (t.ctx b q).run = .killed := by
  have hsame : s.SameTasks ((s.countHard b (s.fetchHome b q) p).logMachineCheck b 1) :=
    (State.SameTasks.countHard ..).trans (.logMachineCheck ..)
  refine ⟨_, congrArg Host.Outcome.next (if_neg (by simp [State.hostUp_power h])), ?_⟩
  dsimp only
  rw [if_neg (by simp [hr])]
  refine State.machineCheck_killed 1 (k := k) ?_ ?_ hm
  · rw [hsame.ctx, hr]
  · rw [hsame.ctx, hsame.kernel, hk]

/-! ### The host's window -/

/-- A host's write of memory within its window (21 R388). -/
theorem exec_hostMemoryAccess {s : State} (h : s.hostUp = true) (hp : s.power = .on) (a : BitVec 38) (l : List Byte)
    (ha : ∀ i, i < (l.take (2 ^ 38 - a.toNat)).length → s.physOk (s.winbase.toNat + a.toNat + i) = true) :
    exec (.hostMemoryAccess a (some l)) s =
      .next { s with mem := setBytes s.mem (s.winbase.toNat + a.toNat) (l.take (2 ^ 38 - a.toNat)) } := by
  refine congrArg Host.Outcome.next (if_pos ?_)
  simp only [h, hp, Bool.and_eq_true, List.all_eq_true, List.mem_range]
  exact ⟨⟨trivial, rfl⟩, ha⟩

end Sys2Proof.Machine
end

section
/-! Writes of host and steward registers (00 R7, 21 R388, 22 R403, 23 R427, 24 R434, R439). -/

namespace Sys2Proof.Machine

theorem nbits_zero (w n : Nat) : nbits w 0 n = w % 2 ^ n := by
  rw [nbits, Nat.pow_zero, Nat.div_one]

theorem keep_zero (v : Word) (n : Nat) : keep v 0 n = v.toNat % 2 ^ n := by
  rw [keep, nbits_zero, Nat.pow_zero, Nat.mul_one]

/-! ### Offsets of BAR0 -/

theorem exec_bar0 {o : Nat} (h : o < 2 ^ 20) (s : State) (v : Word) :
    exec (.registerWrite (.bar0 (BitVec.ofNat 20 o)) v) s = s.writeBar0 o v := by
  show s.writeBar0 (BitVec.ofNat 20 o).toNat v = _
  rw [BitVec.toNat_ofNat, Nat.mod_eq_of_lt h]

theorem ofNat_eq_queue {n : Nat} (q : Fin 64) (h : n = q.val) : Fin.ofNat 64 n = q := by
  rw [h]
  exact Fin.ofNat_val_eq_self q

/-- No register stands at an offset that is no multiple of 8. -/
theorem State.writeBar0_unaligned (s : State) {o : Nat} (v : Word) (h : o % 8 ≠ 0) : s.writeBar0 o v = .next s := by
  have h64 : o % 64 ≠ 0 ∧ o % 64 ≠ 8 ∧ o % 64 ≠ 0x10 := by omega
  have h4096 : o % 0x1000 ≠ 0 ∧ o % 0x1000 ≠ 0x18 ∧ o % 0x1000 ≠ 0x20 := by omega
  unfold State.writeBar0
  grind

/-- The registers of the module itself (21 R388, 23 R427, R429, 25 R451). -/
theorem State.writeBar0_fixed (s : State) (v : Word) :
    s.writeBar0 0x2008 v = execLogPageSelect v s ∧ s.writeBar0 0x2010 v = execLogAck v s ∧
      s.writeBar0 0x2018 v = (if v.getLsbD 0 then execSealreq s else .next s) ∧
      s.writeBar0 0x5000 v = execTelemetrySelect v s ∧ s.writeBar0 0x5008 v = s.plainHost .telst v ∧
      s.writeBar0 0x5010 v = (if v.getLsbD 0 then execTelemetryClear s else .next s) ∧
      s.writeBar0 0 v = .next s ∧ s.writeBar0 0x1000 v = .next s ∧ s.writeBar0 0x2000 v = .next s := by
  simp [State.writeBar0]

theorem State.writeBar0_alloc (s : State) (q : Fin 64) (v : Word) :
    s.writeBar0 (0x800 + 8 * q.val) v = execAllocationWrite q v s := by
  have hq : Fin.ofNat 64 ((0x800 + 8 * q.val - 0x800) / 8) = q := ofNat_eq_queue q (by omega)
  rw [State.writeBar0, if_pos (by simp; omega), hq]

/-- The configuration registers of queue `q` stand from 0x8000 + 64 `q` on. -/
theorem State.writeBar0_config (s : State) (q : Fin 64) {o r : Nat} (v : Word) (ho : o = 0x8000 + r + 64 * q.val)
    (hr : r < 64) : s.writeBar0 o v =
      if r = 0 then s.plainHost (.qcfg q) v else if r = 8 then s.plainHost (.qlbase q) v
      else if r = 0x10 then s.plainHost (.qcbase q) v else .next s := by
  have hq : Fin.ofNat 64 ((o - 0x8000) / 64) = q := ofNat_eq_queue q (by omega)
  have hm : o % 64 = r := by omega
  rw [State.writeBar0, if_neg (by simp; omega), if_neg (by omega), if_neg (by omega), if_neg (by omega),
    if_neg (by omega), if_neg (by omega), if_neg (by omega), if_pos (by simp; omega), hm]
  dsimp only
  rw [hq]

/-- The page of queue `q` stands from 0x10000 + 4096 `q` on. -/
theorem State.writeBar0_page (s : State) (q : Fin 64) {o r : Nat} (v : Word) (ho : o = 0x10000 + r + 4096 * q.val)
    (hr : r < 4096) : s.writeBar0 o v =
      if r = 0 then execDoorbell q (v.truncate 16) s else if r = 0x18 then execCheadWrite q (v.truncate 16) s
      else if r = 0x20 then s.plainHost (.qstat q) v else .next s := by
  have hq : Fin.ofNat 64 ((o - 0x10000) / 0x1000) = q := ofNat_eq_queue q (by omega)
  have hm : o % 0x1000 = r := by omega
  rw [State.writeBar0, if_neg (by simp; omega), if_neg (by omega), if_neg (by omega), if_neg (by omega),
    if_neg (by omega), if_neg (by omega), if_neg (by omega), if_neg (by simp; omega), if_pos (by simp; omega), hm]
  dsimp only
  rw [hq]

/-! ### Offsets of BAR0 that are read -/

/-- A read at an offset of the host port, by where the offset stands; BOOTST alone answers while the port is down. -/
theorem State.readBar0_unaligned {s : State} (h : s.hostUp = true) {o : Nat} (ho : o % 8 ≠ 0) (hl : o < 0x1000) :
    s.readBar0 o = 0 := by
  have hn : ¬(!s.hostUp) = true := by simp [h]
  unfold State.readBar0
  grind

theorem State.readBar0_fixed {s : State} (h : s.hostUp = true) :
    s.readBar0 0x2000 = s.readReg .logst ∧ s.readBar0 0x2010 = s.readReg .logack ∧ s.readBar0 0x2018 = 0 ∧
      s.readBar0 0x5010 = 0 := by
  simp [State.readBar0, h]

theorem State.readBar0_alloc {s : State} (h : s.hostUp = true) (q : Fin 64) :
    s.readBar0 (0x800 + 8 * q.val) = s.readReg (.alloc q) := by
  have hq : Fin.ofNat 64 ((0x800 + 8 * q.val - 0x800) / 8) = q := ofNat_eq_queue q (by omega)
  rw [State.readBar0, if_neg (by omega), if_neg (by simp [h]), if_pos (by simp; omega), hq]

theorem State.readBar0_qcfg {s : State} (h : s.hostUp = true) (q : Fin 64) :
    s.readBar0 (0x8000 + 64 * q.val) = s.readReg (.qcfg q) := by
  have hq : Fin.ofNat 64 ((0x8000 + 64 * q.val - 0x8000) / 64) = q := ofNat_eq_queue q (by omega)
  rw [State.readBar0, if_neg (by omega), if_neg (by simp [h]), if_neg (by simp; omega), if_neg (by omega),
    if_neg (by omega), if_neg (by omega), if_neg (by simp; omega), if_neg (by simp; omega), if_neg (by omega),
    if_neg (by omega), if_neg (by simp; omega), if_pos (by simp; omega)]
  dsimp only
  rw [if_pos (by omega), hq]

/-- A read within the page of queue `q`. -/
theorem State.readBar0_page {s : State} (h : s.hostUp = true) (q : Fin 64) {o r : Nat}
    (ho : o = 0x10000 + r + 4096 * q.val) (hr : r < 4096) : s.readBar0 o =
      if r = 0 then s.readReg (.qtail q) else if r = 8 then s.readReg (.qhead q)
      else if r = 0x10 then s.readReg (.ctail q) else if r = 0x18 then s.readReg (.chead q)
      else if r = 0x20 then s.readReg (.qstat q) else 0 := by
  have hq : Fin.ofNat 64 ((o - 0x10000) / 0x1000) = q := ofNat_eq_queue q (by omega)
  have hm : o % 0x1000 = r := by omega
  rw [State.readBar0, if_neg (by omega), if_neg (by simp [h]), if_neg (by simp; omega), if_neg (by omega),
    if_neg (by omega), if_neg (by omega), if_neg (by simp; omega), if_neg (by simp; omega), if_neg (by omega),
    if_neg (by omega), if_neg (by simp; omega), if_neg (by simp; omega), if_pos (by simp; omega), hm]
  dsimp only
  rw [hq]

end Sys2Proof.Machine
end

section
/-! Registers of the host port (21 R388 to R390, 23 R425 to R430, 25 R443, R451). -/

namespace Sys2Proof.Machine

/-! ### Writes -/

theorem State.plainHost_up {s : State} (h : s.hostUp = true) (r : PlainReg) (v : Word) :
    s.plainHost r v = .next (s.writeHost r v) :=
  congrArg Host.Outcome.next (if_pos h)

/-- A register of a queue that is enabled keeps its place; one of a queue that is not is logged or taken (21 R389). -/
theorem State.writeHost_queue (s : State) (q : Fin 64) (v : Word) :
    let u := s.queue q
    let area : BitVec 52 := BitVec.ofNat 52 (v.toNat / 2 ^ 12 % 2 ^ 40 * 4096)
    let s1 := s.setQueue q { u with
      log2n := v.truncate 4, en := v.getLsbD 4, ien := v.getLsbD 5
      asid := if u.en then u.asid else BitVec.ofNat 16 (v.toNat / 2 ^ 16 % 2 ^ 16) }
    (u.en = true → s.writeHost (.qcfg q) v = s1 ∧ s.writeHost (.qlbase q) v = s ∧ s.writeHost (.qcbase q) v = s) ∧
    (u.en = false → s.writeHost (.qcfg q) v = s1.logWrite q.val (0x8000 + 64 * q.val) v ∧
      s.writeHost (.qlbase q) v = s.setQueue q { u with lbase := area } ∧
      s.writeHost (.qcbase q) v = s.setQueue q { u with cbase := area }) := by
  intro u area s1
  refine ⟨fun he => ⟨if_pos he, if_pos he, if_pos he⟩, fun he => ?_⟩
  have hn : ¬u.en = true := by simp [he]
  exact ⟨if_neg hn, if_neg hn, if_neg hn⟩

/-! ### Reads -/

theorem flag_le (p : Bool) (i : Nat) : flag p i ≤ 2 ^ i := by
  unfold flag
  split
  · exact Nat.le_refl _
  · exact Nat.zero_le _

/-- A read whose value fits in a word gives that value. -/
theorem State.readReg_toNat {s : State} {r : ReadReg} {n : Nat} (h : s.readReg r = wd n) (hn : n < 2 ^ 64) :
    (s.readReg r).toNat = n := by
  rw [h, wd_toNat hn]

/-- The registers of a queue read as they stand. -/
theorem State.readReg_queue {s : State} (h : s.hostUp = true) {r : ReadReg} {q : Fin 64}
    (hr : r ∈ [ReadReg.qcfg q, .qlbase q, .qcbase q, .qtail q, .qhead q, .ctail q, .chead q, .qstat q, .alloc q]) :
    s.readReg r = wd ((s.queue q).read r) := by
  have hn : ∀ p : Bool, ¬(p && !s.hostUp) = true := by simp [h]
  simp only [List.mem_cons, List.not_mem_nil, or_false] at hr
  rcases hr with rfl | rfl | rfl | rfl | rfl | rfl | rfl | rfl | rfl <;> exact if_neg (hn _)

theorem Queue.read_lt (u : Queue) (r : ReadReg) : u.read r < 2 ^ 64 := by
  have h4 := flag_le u.en 4
  have h5 := flag_le u.ien 5
  have s0 := flag_le u.badTail 0
  have s1 := flag_le u.badChead 1
  have s2 := flag_le u.waiting 2
  have s3 := flag_le u.en 3
  unfold Queue.read
  split <;> omega

theorem State.readReg_queues {s : State} (h : s.hostUp = true) (q : Fin 64) :
    let u := s.queue q
    let rd (r : ReadReg) := (s.readReg r).toNat
    rd (.qcfg q) = u.log2n.toNat + flag u.en 4 + flag u.ien 5 + u.asid.toNat * 2 ^ 16 ∧
    rd (.qlbase q) = u.lbase.toNat ∧ rd (.qcbase q) = u.cbase.toNat ∧ rd (.qtail q) = u.tail.toNat ∧
    rd (.qhead q) = u.headIx.toNat ∧ rd (.ctail q) = u.ctail.toNat ∧ rd (.chead q) = u.chead.toNat ∧
    rd (.qstat q) = flag u.badTail 0 + flag u.badChead 1 + flag u.waiting 2 + flag u.en 3 ∧
    rd (.alloc q) = u.alloc.toNat := by
  intro u rd
  have hrd (r : ReadReg)
      (hr : r ∈ [ReadReg.qcfg q, .qlbase q, .qcbase q, .qtail q, .qhead q, .ctail q, .chead q, .qstat q, .alloc q]) :
      rd r = u.read r :=
    State.readReg_toNat (State.readReg_queue h hr) (Queue.read_lt u r)
  refine ⟨hrd _ ?_, hrd _ ?_, hrd _ ?_, hrd _ ?_, hrd _ ?_, hrd _ ?_, hrd _ ?_, hrd _ ?_, hrd _ ?_⟩ <;> simp

/-- The host's registers of the module read as they stand. -/
theorem State.readReg_module {s : State} (h : s.hostUp = true) :
    let rd (r : ReadReg) := (s.readReg r).toNat
    rd .winbase = s.winbase.toNat ∧ rd .attst = flag s.attDone 0 ∧
    rd .logst = s.unack % 2 ^ 32 + flag s.logFull 32 + flag s.logHold 33 ∧ rd .logpage = s.logPage.toNat ∧
    rd .logack = s.logAck.toNat ∧ rd .pwrcap = s.powercap.toNat ∧ rd .telsel = s.telSel.toNat ∧
    rd .telst = flag s.telReady 0 + flag s.telBad 1 := by
  have hn : ∀ p : Bool, ¬(p && !s.hostUp) = true := by simp [h]
  have ha := flag_le s.attDone 0
  have hf := flag_le s.logFull 32
  have hh := flag_le s.logHold 33
  have hr := flag_le s.telReady 0
  have hb := flag_le s.telBad 1
  refine ⟨?_, ?_, ?_, ?_, ?_, ?_, ?_, ?_⟩ <;> refine State.readReg_toNat (if_neg (hn _)) ?_ <;> omega

/-- While the host port is down its registers read 0. -/
theorem State.readReg_down {s : State} (h : s.hostUp = false) {r : ReadReg} (hr : r.host = true) :
    s.readReg r = 0 :=
  if_pos (by simp [h, hr])

end Sys2Proof.Machine
end

section
/-! Registers of a brick's steward (21 R396 to R398, 22 R403, R408, R413 to R415, 23 R427, 24 R434, R438, R439). -/

namespace Sys2Proof.Machine

/-! ### Writes -/

/-- A steward that runs takes a write of its register. -/
theorem exec_stewardWrite {s t : State} {b : Fin 8} {r : PlainReg} {v : Word} (h : s.stewardUp b = true)
    (e : exec (.registerWrite r v) s = .next (if s.stewardUp b then t else s)) :
    exec (.registerWrite r v) s = .next t := by
  rw [e, if_pos h]

/-- A steward that does not run ignores it (23 R418). -/
theorem exec_stewardWrite_down {s t : State} {b : Fin 8} {r : PlainReg} {v : Word} (h : s.stewardUp b = false)
    (e : exec (.registerWrite r v) s = .next (if s.stewardUp b then t else s)) :
    exec (.registerWrite r v) s = .next s := by
  rw [e, if_neg (by simp [h])]

/-- Words of 64 bits laid out one after another. -/
def layWords (w : Nat → Nat) (n : Nat) : Nat := (List.range n).foldl (fun a i => a + w i * 2 ^ (64 * i)) 0

theorem layWords_succ (w : Nat → Nat) (n : Nat) : layWords w (n + 1) = layWords w n + w n * 2 ^ (64 * n) := by
  rw [layWords, List.range_succ, List.foldl_append]
  rfl

theorem layWords_lt {w : Nat → Nat} (hw : ∀ i, w i < 2 ^ 64) (n : Nat) : layWords w n < 2 ^ (64 * n) := by
  induction n with
  | zero => exact Nat.one_pos
  | succ n ih =>
    calc layWords w (n + 1)
      _ = layWords w n + w n * 2 ^ (64 * n) := layWords_succ w n
      _ < 2 ^ (64 * n) + w n * 2 ^ (64 * n) := Nat.add_lt_add_right ih _
      _ = (w n + 1) * 2 ^ (64 * n) := by rw [Nat.add_mul, Nat.one_mul, Nat.add_comm]
      _ ≤ 2 ^ 64 * 2 ^ (64 * n) := Nat.mul_le_mul_right _ (hw n)
      _ = 2 ^ (64 * (n + 1)) := by rw [← Nat.pow_add, Nat.mul_succ, Nat.add_comm]

/-- Word `k` of them: the words above it do not reach it, and it reaches none below it. -/
theorem layWords_get {w : Nat → Nat} (hw : ∀ i, w i < 2 ^ 64) {n k : Nat} (hk : k < n) :
    layWords w n / 2 ^ (64 * k) % 2 ^ 64 = w k := by
  induction n with
  | zero => exact absurd hk (Nat.not_lt_zero k)
  | succ n ih =>
    rw [layWords_succ]
    obtain hlt | rfl := Nat.lt_succ_iff_lt_or_eq.mp hk
    · have hp : w n * 2 ^ (64 * n) = 2 ^ (64 * k) * (2 ^ 64 * (2 ^ (64 * (n - k - 1)) * w n)) := by
        rw [← Nat.mul_assoc, ← Nat.mul_assoc, ← Nat.pow_add, ← Nat.pow_add, Nat.mul_comm]
        congr 2
        omega
      rw [hp, Nat.add_mul_div_left _ _ (Nat.two_pow_pos _), Nat.add_mul_mod_self_left, ih hlt]
    · rw [Nat.add_mul_div_right _ _ (Nat.two_pow_pos _), Nat.div_eq_of_lt (layWords_lt hw k), Nat.zero_add,
        Nat.mod_eq_of_lt (hw k)]

/-- One word of four replaced. -/
theorem putWord_get (t : BitVec 256) (j k : Fin 4) (v : Word) : (putWord t j.val v).toNat / 2 ^ (64 * k.val) % 2 ^ 64 =
    if k = j then v.toNat else t.toNat / 2 ^ (64 * k.val) % 2 ^ 64 := by
  have hw (i : Nat) : (if i = j.val then v.toNat else nbits t.toNat (64 * i) 64) < 2 ^ 64 := by
    split
    · exact v.isLt
    · exact nbits_lt ..
  refine (congrArg (· / 2 ^ (64 * k.val) % 2 ^ 64) ?_).trans ((layWords_get hw k.isLt).trans ?_)
  · exact (BitVec.toNat_ofNat ..).trans (Nat.mod_eq_of_lt (layWords_lt hw 4))
  · simp only [Fin.ext_iff, nbits]

/-! ### Commands of a seat -/

/-- A command that 22 R403 does not give is ERR 0x8 to a seat that takes commands. -/
theorem State.writeCtxctl_other (s : State) (b : Fin 8) (q : Fin 4) {v : Word}
    (h : nbits v.toNat 0 3 ∉ [1, 2, 3, 4]) : s.writeCtxctl b q v =
      .next (if s.takesCmd b q then (s.writeArea b q v).ctxFail b q 8 else s.writeArea b q v) := by
  unfold State.writeCtxctl
  split
  case h_5 => rfl
  all_goals next e => exact absurd e (fun e => h (by simp [e]))

/-- A write to CTXCTL, by its command (22 R403). -/
theorem exec_ctxctl {s : State} {b : Fin 8} (h : s.stewardUp b = true) (q : Fin 4) (v : Word) :
    let y := s.seat b q
    let w := exec (.registerWrite (.ctxctl b q) v) s
    let s1 := s.setSeat b q { y with area := BitVec.ofNat 52 (v.toNat / 2 ^ 12 % 2 ^ 40 * 4096) }
    (v.toNat % 8 = 1 → w = exec (.lightSave b q v) s) ∧ (v.toNat % 8 = 2 → w = exec (.heavySave b q v) s) ∧
    (v.toNat % 8 = 3 → w = exec (.contextRestore b q v) s) ∧
    (v.toNat % 8 = 4 → w = exec (.contextRelease b q) s1) ∧
    (v.toNat % 8 ∉ [1, 2, 3, 4] → s.power = .on → y.busy = false →
      w = .next (s1.setSeat b q { s1.seat b q with done := false, err := 8 })) ∧
    (v.toNat % 8 ∉ [1, 2, 3, 4] → y.busy = true → w = .next s1) := by
  intro y w s1
  have hn : nbits v.toNat 0 3 = v.toNat % 8 := nbits_zero ..
  have ha : s.writeArea b q v = s1 := if_pos h
  have hw : w = s.writeCtxctl b q v := rfl
  have other (e : v.toNat % 8 ∉ [1, 2, 3, 4]) : w = .next (if s.takesCmd b q then s1.ctxFail b q 8 else s1) := by
    rw [hw, State.writeCtxctl_other s b q (hn ▸ e), ha]
  refine ⟨?_, ?_, ?_, ?_, fun e hp hb => ?_, fun e hb => ?_⟩
  iterate 4
    intro e
    rw [hw, State.writeCtxctl, hn, e, ha]
    rfl
  · have ht : s.takesCmd b q = true := by simp [State.takesCmd, hp, h, show (s.seat b q).busy = false from hb]
    rw [other e, if_pos ht]
    rfl
  · have ht : ¬s.takesCmd b q = true := by simp [State.takesCmd, show (s.seat b q).busy = true from hb]
    rw [other e, if_neg ht]

/-! ### The set-up block -/

theorem exec_setup {s : State} {b : Fin 8} (h : s.stewardUp b = true) (q : Fin 4) (f : SetupField) (v : Word) :
    exec (.registerWrite (.setup b q f) v) s = .next (s.writeSetup b q f v) :=
  exec_stewardWrite h rfl

/-- The placement registers and GBCS of a seat that is empty, or restored and not armed. -/
theorem State.writeSetup_placed {s : State} {b : Fin 8} {q : Fin 4} (v : Word)
    (h : (s.ctx b q).run = .empty ∨ (s.ctx b q).run = .restored ∧ (s.seat b q).armedReg = false) :
    let c := s.ctx b q
    s.writeSetup b q .crd v = s.setCtx b q { c with crd := wd (keep v 0 28) } ∧
    s.writeSetup b q .scmask v = s.setCtx b q { c with scmask := wd (keep v 0 12 + keep v 16 12) } ∧
    s.writeSetup b q .dimmap v = s.setCtx b q { c with dimmap := wd (keep v 0 52) } ∧
    s.writeSetup b q .gbcs v = s.setCtx b q { c with gbcs := v } := by
  have ho : ((s.ctx b q).run == .empty || ((s.ctx b q).run == .restored && !(s.seat b q).armedReg)) = true := by
    simpa using h
  exact ⟨if_pos ho, if_pos ho, if_pos ho, if_pos ho⟩

/-- They are closed in every other seat. -/
theorem State.writeSetup_unplaced {s : State} {b : Fin 8} {q : Fin 4} (v : Word) (he : (s.ctx b q).run ≠ .empty)
    (h : (s.ctx b q).run ≠ .restored ∨ (s.seat b q).armedReg = true) :
    ∀ f ∈ [SetupField.crd, .scmask, .dimmap, .gbcs], s.writeSetup b q f v = s := by
  have ho : ¬((s.ctx b q).run == .empty || ((s.ctx b q).run == .restored && !(s.seat b q).armedReg)) = true := by
    simp only [Bool.or_eq_true, Bool.and_eq_true, beq_iff_eq, Bool.not_eq_true', not_or, not_and]
    refine ⟨he, fun e ha => ?_⟩
    rcases h with h | h
    · exact h e
    · rw [ha] at h
      exact Bool.noConfusion h
  simp only [List.mem_cons, List.not_mem_nil, or_false]
  rintro f (rfl | rfl | rfl | rfl) <;> exact if_neg ho

/-- The other fields, of a seat that holds no context (21 R397). -/
theorem State.writeSetup_empty {s : State} {b : Fin 8} {q : Fin 4} (v : Word) (h : (s.ctx b q).run = .empty) :
    let c := s.ctx b q
    s.writeSetup b q .seatf v = s.setCtx b q { c with seatf := wd (keep v 0 4) } ∧
    s.writeSetup b q .asgen v = s.setCtx b q { c with asgen := wd (keep v 0 32) } ∧
    s.writeSetup b q .qi v = s.setCtx b q { c with qi := v.truncate 32 } ∧
    s.writeSetup b q .entry v = s.setCtx b q { c with pc := v.toNat % 2 ^ 21 } ∧
    ∀ k, s.writeSetup b q (.param k) v = s.setCtx b q { c with x := c.x.setIfInBounds (k.val + 1) v } := by
  have he : ((s.ctx b q).run == .empty) = true := by simp [h]
  refine ⟨if_pos he, if_pos he, if_pos he, ?_, fun k => if_pos he⟩
  rw [← nbits_zero]
  exact if_pos he

/-- An image that is loaded again stands or falls by its certificate (19 R370). -/
theorem State.writeSetup_image {s : State} {b : Fin 8} {q : Fin 4} {v : Word} {k : Kernel}
    (h : (s.ctx b q).run = .empty) (hk : s.kernel v.toNat = some k) : s.writeSetup b q .image v =
      if s.certStands k.image then s.setCtx b q { (s.ctx b q).loadImage k.image with kernel := k.id }
      else s.logCert k.queue k.image.cert := by
  have he : ¬(!(s.ctx b q).run == .empty) = true := by simp [h]
  simp only [State.writeSetup, hk]
  rw [if_neg he]

/-- They are closed while the seat holds a context. -/
theorem State.writeSetup_held {s : State} {b : Fin 8} {q : Fin 4} (v : Word) (h : (s.ctx b q).run ≠ .empty) :
    (∀ f ∈ [SetupField.seatf, .asgen, .qi, .entry, .image], s.writeSetup b q f v = s) ∧
      ∀ k, s.writeSetup b q (.param k) v = s := by
  have he : ¬((s.ctx b q).run == .empty) = true := by simp [h]
  have hi : s.writeSetup b q .image v = s := by
    simp only [State.writeSetup]
    split
    · exact if_pos (by simp [h])
    · rfl
  simp only [List.mem_cons, List.not_mem_nil, or_false]
  refine ⟨?_, fun k => if_neg he⟩
  rintro f (rfl | rfl | rfl | rfl | rfl)
  · exact if_neg he
  · exact if_neg he
  · exact if_neg he
  · exact if_neg he
  · exact hi

/-! ### Links and quarters -/

/-- A write to SCRUBST clears the failures that it names (22 R415). -/
theorem exec_scrubst {s : State} {b : Fin 8} (h : s.stewardUp b = true) (v : Word) :
    ∃ t, exec (.registerWrite (.scrubst b) v) s = .next t ∧ ∀ k, (t.brick b).quarters.get k =
      if (s.brick b).quarters.get k = .failed ∧ v.getLsbD (8 + k.val) = true then .dirty
      else (s.brick b).quarters.get k := by
  refine ⟨_, exec_stewardWrite h rfl, fun k => ?_⟩
  refine (congrArg (fun x : Brick => x.quarters.get k) (State.brick_setBrick_self s b _)).trans ?_
  refine (Vector.getElem_ofFn k.isLt).trans ?_
  simp only [Bool.and_eq_true, beq_iff_eq, Fin.eta]

/-- A write to DETCTL opens or closes the detour (24 R434). -/
theorem exec_detctl {s : State} {b : Fin 8} (h : s.stewardUp b = true) (d : Fin 12) (v : Word) :
    let w := exec (.registerWrite (.detctl b d) v) s
    let s1 := s.setLink b d { s.link b d with relayDim := v.truncate 4 }
    (v.getLsbD 4 = true → w = exec (.detourOpen b d v) s1) ∧
    (v.getLsbD 4 = false → v.getLsbD 5 = true → w = exec (.detourClose b d) s1) ∧
    (v.getLsbD 4 = false → v.getLsbD 5 = false → w = .next s1) := by
  intro w s1
  have hs : (if s.stewardUp b then s.modLink b d fun l => { l with relayDim := v.truncate 4 } else s) = s1 := if_pos h
  have hw : w = s.writeDetctl b d v := rfl
  rw [hw, State.writeDetctl, hs]
  exact ⟨fun h4 => if_pos h4, fun h4 h5 => (if_neg (ne_true_of_eq_false h4)).trans (if_pos h5),
    fun h4 h5 => (if_neg (ne_true_of_eq_false h4)).trans (if_neg (ne_true_of_eq_false h5))⟩

/-! ### Reads -/

theorem flag_add (p : Bool) (lo i : Nat) : flag p (lo + i) = flag p i * 2 ^ lo := by
  unfold flag
  split
  · rw [Nat.pow_add, Nat.mul_comm]
  · rw [Nat.zero_mul]

theorem Brick.quarterMask_eq (x : Brick) (k : Quarter) (lo : Nat) : x.quarterMask k lo =
    (flag (x.quarters.get 0 == k) 0 + flag (x.quarters.get 1 == k) 1 + flag (x.quarters.get 2 == k) 2 +
      flag (x.quarters.get 3 == k) 3) * 2 ^ lo := by
  have h4 : List.finRange 4 = [0, 1, 2, 3] := rfl
  simp only [Brick.quarterMask, h4, List.foldl_cons, List.foldl_nil, flag_add, Nat.zero_add, Nat.add_mul]
  rfl

theorem srcDim_le : ∀ b : Fin 8, srcDim b ≤ 15 := by decide

theorem Brick.read_lt (x : Brick) (b : Fin 8) (r : ReadReg) : x.read b r < 2 ^ 64 := by
  have hb := srcDim_le b
  have hq (k : Quarter) (lo : Nat) (h : lo ≤ 8) : x.quarterMask k lo ≤ 15 * 256 := by
    rw [Brick.quarterMask_eq]
    have h0 := flag_le (x.quarters.get 0 == k) 0
    have h1 := flag_le (x.quarters.get 1 == k) 1
    have h2 := flag_le (x.quarters.get 2 == k) 2
    have h3 := flag_le (x.quarters.get 3 == k) 3
    exact Nat.mul_le_mul (by omega) (Nat.pow_le_pow_right (n := 2) (by omega) h)
  have h1 := hq .clean 0 (by omega)
  have h2 := hq .busy 4 (by omega)
  have h3 := hq .failed 8 (by omega)
  have hbad := flag_le x.seatBad 0
  have htlb := flag_le x.tlbDone 0
  have hgen := flag_le x.genDone 0
  have hld := flag_le x.logDone 0
  have hlr := flag_le x.logRefused 1
  have hlock := flag_le x.lock 4
  have hlost := flag_le x.lost 5
  unfold Brick.read
  split
  case h_1 => exact nbits_lt ..
  case h_14 j => have := flag_le (x.rly.get j).en 16; omega
  all_goals omega

theorem Seat.read_lt (y : Seat) (r : ReadReg) : y.read r < 2 ^ 64 := by
  have ha := flag_le y.armedReg 0
  have hr := flag_le y.runReg 1
  have hp := flag_le y.preEn 32
  have hb := flag_le y.busy 0
  have hd := flag_le y.done 1
  have hs := flag_le y.ctx.run.isStopped 6
  have ht := flag_le y.ctx.run.inTrap 7
  unfold Seat.read
  split <;> omega

theorem Link.read_lt (l : Link) (d : Fin 12) (r : ReadReg) : l.read d r < 2 ^ 64 := by
  have ha := flag_le l.active 6
  have ht : tierOf d ≤ 2 := by
    unfold tierOf
    split
    · omega
    · split <;> omega
  have hs : l.state.code ≤ 5 := by cases l.state <;> decide
  unfold Link.read
  split <;> omega

/-- The steward's registers read as they stand, whether the host port is up or not. -/
theorem State.readReg_brick {s : State} {b : Fin 8} {r : ReadReg} (h : s.readReg r = wd ((s.brick b).read b r)) :
    (s.readReg r).toNat = (s.brick b).read b r :=
  State.readReg_toNat h (Brick.read_lt ..)

theorem State.readReg_seat {s : State} {b : Fin 8} {q : Fin 4} {r : ReadReg}
    (h : s.readReg r = wd ((s.seat b q).read r)) : (s.readReg r).toNat = (s.seat b q).read r :=
  State.readReg_toNat h (Seat.read_lt ..)

theorem State.readReg_link {s : State} {b : Fin 8} {d : Fin 12} {r : ReadReg}
    (h : s.readReg r = wd ((s.link b d).read d r)) : (s.readReg r).toNat = (s.link b d).read d r :=
  State.readReg_toNat h (Link.read_lt ..)

theorem State.readReg_scrubst (s : State) (b : Fin 8) :
    let x := s.brick b
    let quarters (k : Quarter) := flag (x.quarters.get 0 == k) 0 + flag (x.quarters.get 1 == k) 1 +
      flag (x.quarters.get 2 == k) 2 + flag (x.quarters.get 3 == k) 3
    (s.readReg (.scrubst b)).toNat = quarters .clean + quarters .busy * 16 + quarters .failed * 256 := by
  intro x quarters
  have clean : x.quarterMask .clean 0 = quarters .clean := (x.quarterMask_eq .clean 0).trans (Nat.mul_one _)
  have busy : x.quarterMask .busy 4 = quarters .busy * 16 := x.quarterMask_eq .busy 4
  have failed : x.quarterMask .failed 8 = quarters .failed * 256 := x.quarterMask_eq .failed 8
  rw [← clean, ← busy, ← failed]
  exact State.readReg_brick rfl

theorem Run.isStopped_iff (r : Run) : r.isStopped = true ↔ r = .stopped ∨ ∃ h g, r = .saving h g none := by
  unfold Run.isStopped
  split <;> simp_all

theorem Run.inTrap_iff (r : Run) :
    r.inTrap = true ↔ (∃ g, r = .service g) ∨ (∃ g, r = .saved g) ∨ ∃ h g g', r = .saving h g (some g') := by
  unfold Run.inTrap
  split <;> simp_all

end Sys2Proof.Machine
end

section
/-! The fleet's operations and registers. -/

namespace Sys2Proof.Machine

/-- Settles O57. Each event and each register write answers the state that its own lemma gives, and each register reads
as its fields stand. A thermal trip takes every task of the brick along, because a kill of one kernel leaves the
tasks of the others to be killed in their turn. -/
theorem fleetRegisters : Obligations.FleetRegisters := by
  unfold Obligations.FleetRegisters
  refine ⟨fun s h => ?_, fun s h q v => ?_, fun s h q v => ?_, fun s b h v => ?_, fun s b h v r hr => ?_, fun s b => ?_⟩
  · refine ⟨fun q v => exec_allocationWrite h q v,
      ⟨fun hp hr => exec_standby h hp hr, fun hr => exec_standby_of_busy hr, fun hp => exec_standbyExit hp⟩,
      fun v => exec_powerCap h v, fun b => ?_, fun v => exec_telemetrySelect h v, exec_telemetryClear h,
      exec_powerLoss s, fun a l => ⟨rfl, fun hp ha => exec_hostMemoryAccess h hp a l ha⟩⟩
    refine ⟨fun hb => exec_thermalThrottle h hb, fun g hb => exec_thermalThrottleEnd hb,
      fun hb => exec_thermalTrip h hb, fun hd => ?_, fun n hg => exec_temperatureSample h n hg,
      fun p => exec_correctedError h b p, fun q p hr k hk hm => exec_uncorrectableError h p hr hk hm⟩
    exact ⟨_, exec_telemetryDelta h hd, s.sendDelta_parts b⟩
  · intro u area w bar u'
    have host (r : PlainReg) : s.plainHost r v = .next (s.writeHost r v) := State.plainHost_up h r v
    obtain ⟨hen, hdis⟩ := s.writeHost_queue q v
    obtain ⟨w2008, w2010, w2018, w5000, w5008, w5010, w0, w1000, w2000⟩ := s.writeBar0_fixed v
    have fixed {o : Nat} {t : Host.Outcome State Fault Refusal} (e : s.writeBar0 o v = t)
        (ho : o < 2 ^ 20 := by omega) : bar o = t := (exec_bar0 ho s v).trans e
    have config {o : Nat} (r : Nat) (ho : o = 0x8000 + r + 64 * q.val := by omega) (hr : r < 64 := by omega) :=
      (exec_bar0 (by omega) s v).trans (s.writeBar0_config q v ho hr)
    have page {o : Nat} (r : Nat) (ho : o = 0x10000 + r + 4096 * q.val := by omega) (hr : r < 4096 := by omega) :=
      (exec_bar0 (by omega) s v).trans (s.writeBar0_page q v ho hr)
    obtain ⟨qcfg, qlbase, qcbase, qtail, qhead, ctail, chead, qstat, alloc⟩ := State.readReg_queues h q
    obtain ⟨winbase, attst, logst, logpage, logack, pwrcap, telsel, telst⟩ := State.readReg_module h
    have read {o : Nat} (r : Nat) (ho : o = 0x10000 + r + 4096 * q.val := by omega) (hr : r < 4096 := by omega) :=
      State.readBar0_page h q ho hr
    have taken {r : PlainReg} {t : State} (e : s.writeHost r v = t) : s.plainHost r v = .next t :=
      (host r).trans (congrArg _ e)
    refine ⟨host .winbase, fun he => ?_, fun he => ?_, host (.qstat q), host .attst, host .telst,
      fun o ho => ⟨s.writeBar0_unaligned v ho, s.readBar0_unaligned h ho⟩,
      (exec_bar0 (by omega) s v).trans (s.writeBar0_alloc q v), fixed w2008, fixed w2010,
      fun hv => ⟨(fixed w2018).trans (if_pos hv), (fixed w5010).trans (if_pos hv)⟩,
      fun hv => ⟨(fixed w2018).trans (if_neg (ne_true_of_eq_false hv)),
        (fixed w5010).trans (if_neg (ne_true_of_eq_false hv))⟩, fixed w5000, fixed w5008,
      config 0, config 8, config 0x10, page 0, page 0x18, page 0x20, fixed w0, fixed w1000, fixed w2000, page 8,
      page 0x10, ?_⟩
    · obtain ⟨h1, h2, h3⟩ := hen he
      exact ⟨taken h1, taken h2, taken h3⟩
    · obtain ⟨h1, h2, h3⟩ := hdis he
      exact ⟨taken h1, taken h2, taken h3⟩
    · intro f rd
      obtain ⟨o2000, o2010, o2018, o5010⟩ := State.readBar0_fixed h
      exact ⟨qcfg, qlbase, qcbase, qtail, qhead, ctail, chead, qstat, alloc, winbase, attst, logst, logpage, logack,
        pwrcap, telsel, telst, if_pos rfl, o2000, o2010, o2018, o5010, State.readBar0_alloc h q,
        State.readBar0_qcfg h q, read 0, read 0x20, read 0x28⟩
  · exact ⟨congrArg Host.Outcome.next (if_neg (ne_true_of_eq_false h)),
      congrArg Host.Outcome.next (if_neg (ne_true_of_eq_false h)), State.readReg_down h rfl, State.readReg_down h rfl,
      rfl⟩
  · intro x w
    have take {r : PlainReg} {t : State} (e : w r = .next (if s.stewardUp b then t else s)) : w r = .next t :=
      exec_stewardWrite h e
    refine ⟨fun j => ⟨_, take rfl, fun k => ?_⟩, take rfl, fun q => ?_, ?_, take rfl, take rfl, take rfl,
      exec_scrubst h v, fun j => take rfl, take rfl, fun j => take rfl, take rfl, take rfl, fun j => take rfl,
      fun d => ⟨take rfl, exec_detctl h d v⟩⟩
    · exact (congrArg (fun y : Brick => y.staged.toNat / 2 ^ (64 * k.val) % 2 ^ 64)
        (State.brick_setBrick_self s b _)).trans (putWord_get x.staged j k v)
    · obtain ⟨c1, c2, c3, c4, cOther, cBusy⟩ := exec_ctxctl h q v
      have put {f : SetupField} {t : State} (e : s.writeSetup b q f v = t) : w (.setup b q f) = .next t :=
        (exec_setup h q f v).trans (congrArg _ e)
      refine ⟨take rfl, take rfl, c1, c2, c3, ⟨c4, cOther, cBusy⟩, fun hp => ?_, fun he => ?_, fun hn => ?_⟩
      · obtain ⟨hcrd, hscmask, hdimmap, hgbcs⟩ := State.writeSetup_placed v hp
        exact ⟨put hcrd, put hscmask, put hdimmap, put hgbcs⟩
      · obtain ⟨hseatf, hasgen, hqi, hentry, hparam⟩ := State.writeSetup_empty v he
        refine ⟨put hseatf, put hasgen, put hqi, put hentry, fun k => put (hparam k), fun k hk => ?_⟩
        have himage := put (State.writeSetup_image he hk)
        refine ⟨fun hc => himage.trans (congrArg _ (if_pos hc)), fun hc => ⟨_, himage, ?_⟩⟩
        rw [if_neg (ne_true_of_eq_false hc)]
        exact State.bricks_logEvent ..
      · obtain ⟨hheld, hparam⟩ := State.writeSetup_held v hn
        refine ⟨put (hheld _ ?_), put (hheld _ ?_), put (hheld _ ?_), put (hheld _ ?_), fun k => put (hparam k),
          put (hheld _ ?_), fun ho => ?_⟩
        iterate 5 simp
        have hclosed := State.writeSetup_unplaced v hn ho
        refine ⟨put (hclosed _ ?_), put (hclosed _ ?_), put (hclosed _ ?_), put (hclosed _ ?_)⟩ <;> simp
    · rw [← keep_zero]
      exact take rfl
  · simp only [List.mem_cons, List.not_mem_nil, or_false] at hr
    rcases hr with rfl | rfl | rfl | rfl | rfl | rfl | rfl | rfl | rfl <;> exact exec_stewardWrite_down h rfl
  · intro x f rd quarters
    have hbrick {r : ReadReg} (e : s.readReg r = wd (x.read b r)) : rd r = x.read b r := State.readReg_brick e
    refine ⟨fun j => hbrick rfl, hbrick rfl, fun q => ?_, hbrick rfl, hbrick rfl, hbrick rfl, hbrick rfl, hbrick rfl,
      s.readReg_scrubst b, State.readReg_toNat rfl s.bootst.isLt, fun j => hbrick rfl, hbrick rfl, fun j => hbrick rfl,
      hbrick rfl, hbrick rfl, fun j => hbrick rfl, fun d => ?_, fun r hr => ?_, rfl,
      fun r => ⟨r.isStopped_iff, r.inTrap_iff⟩⟩
    · have hseat {r : ReadReg} (e : s.readReg r = wd ((s.seat b q).read r)) : rd r = (s.seat b q).read r :=
        State.readReg_seat e
      exact ⟨hseat rfl, hseat rfl, hseat rfl, hseat rfl, rfl⟩
    · have hlink {r : ReadReg} (e : s.readReg r = wd ((s.link b d).read d r)) : rd r = (s.link b d).read d r :=
        State.readReg_link e
      exact ⟨hlink rfl, hlink rfl, hlink rfl, rfl⟩
    · simp only [List.mem_cons, List.not_mem_nil, or_false] at hr
      rcases hr with rfl | rfl | rfl | rfl | rfl | rfl | rfl <;> rfl

end Sys2Proof.Machine
end
